-- ==== Sys2Proof/Word.lean ====
section
/-! DEFINITION. The word types of Isamas and their plainest arithmetic (R4, R96, R162). -/

namespace Sys2Proof

/-- A 64-bit register value. -/
abbrev Word := BitVec 64

/-- One byte of memory. -/
abbrev Byte := BitVec 8

/-- A program counter: 56 bits (R95). -/
abbrev Pc := BitVec 56

/-- A 9-bit operand field (R110). -/
abbrev Opnd := BitVec 9

/-- The low `n` bits of a natural number. -/
abbrev Nat.low (x n : Nat) : Nat := x % 2 ^ n

/-- `x[hi:lo]` of R4 for a natural number, given as the low bit and the width. -/
abbrev Nat.field (x lo width : Nat) : Nat := x / 2 ^ lo % 2 ^ width

/-- The two's complement value of the low `n` bits of `x`. -/
def Nat.signed (x n : Nat) : Int :=
  let y := Nat.low x n
  if y < 2 ^ (n - 1) then (y : Int) else (y : Int) - 2 ^ n

/-- The low `n` bits of an integer, as a natural number (R9: an assignment keeps the low bits). -/
def Int.wrap (x : Int) (n : Nat) : Nat := (x % (2 ^ n : Int)).toNat

/-- Operand B of an A-form word: the B field, or with BI = 1 the sign-extended IMM (R102, R103). -/
inductive SrcB where
  | fld (o : Opnd)
  | wide (imm : BitVec 32)
  deriving DecidableEq, Repr

end Sys2Proof
end

