-- ==== Sys2Proof/Config.lean ====
section
/-! DEFINITION. What one N9 fixes and the manual does not: the free values. Each is a constant with no
body, so that no proof can learn its value (log entries 2, 3, 4, 5 and 15 to 18). -/

namespace Sys2Proof.Config

/-- Which of the steps that may happen next does happen, for the `n`-th choice of a run (log entry 2). -/
opaque pick : Nat → Nat

/-- The ML-DSA-87 signature of 4,627 bytes that the device identity key makes, R442 (log entry 3). -/
opaque sign : List Byte → BitVec 37016

/-- The key digest held in fuses, R441 (log entry 4). -/
opaque keyDigest : BitVec 512

/-- The least firmware revision that the fuses admit, R441 (log entry 4). -/
opaque minRevision : Nat

/-- Fuse policy ERASE, R442 (log entry 4). -/
opaque eraseFuse : Bool

/-- A loaded routine 8 to 15 of the base dies (R276, R441): from the body of the running image, the routine number, the old
value and the two operands, the new value and the returned value, or none where the routine reports failure (log entry 5). -/
opaque routine : List Byte → Nat → Nat → Nat → Nat → Option (Nat × Nat)

/-- Whether the running image, by its body, loads routine 8 to 15 (R276, R441; log entry 5). -/
opaque routineLoaded : List Byte → Nat → Bool

/-- The binary32 pattern, or the code, that an access makes of `bits` through an unused format entry that has
taken the place of a used one between issue and performing, where R39 and R248 give none (log entry 15). -/
opaque unusedFormat : Nat → Nat → Nat

/-- The code and bytes 8 to 15 of the error record of a failed read-modify-write, from the VA of its granule:
R250 has one logged and R53 gives neither (log entry 16). -/
opaque rmwRecord : Nat → Nat × Nat

/-- Byte `t` of a queue element whose region bytes `cpyq` could not read, R271 (log entry 17). -/
opaque unreadByte : Nat → Byte

/-- A byte of a suspension image that only an N9 of the same image revision reads, R384 (log entry 18). -/
opaque imageByte : Nat → Byte

end Sys2Proof.Config
end

