-- ==== Sys2Proof/Syntax.lean ====
section
/-! DEFINITION. The steps of the N9: one constructor per row of spec/opcode_table.json. The rows that
are instructions carry the fields of their 96-bit word (R97, R102, R105, R106); the rows that are
events carry nothing, for the object they happen to stands in the state (log entry 1). -/

namespace Sys2Proof

/-- The common bits 93:86 of a word (R97). -/
structure Hints where
  /-- GN, bit 93. -/
  gn : Bool
  /-- GQ, bits 92:89. -/
  gq : BitVec 4
  /-- SW, bit 88. -/
  sw : Bool
  /-- LU, bit 87. -/
  lu : Bool
  /-- NM, bit 86. -/
  nm : Bool
  deriving DecidableEq, Repr

/-- The scalar half of a P-form word (R106, R107). -/
structure SHalf where
  sop : BitVec 7
  sd : BitVec 8
  sa : BitVec 8
  sb : Opnd
  deriving DecidableEq, Repr

/-- The vector half of a P-form word (R106, R108). -/
structure VHalf where
  vop : BitVec 7
  vd : BitVec 5
  va : BitVec 5
  vb : BitVec 5
  vc : BitVec 5
  ty : BitVec 4
  rm : BitVec 2
  deriving DecidableEq, Repr

/-- The FN field of the group-0x7 loads and stores (R246). -/
structure MemFn where
  mty : BitVec 4
  l : Bool
  raw : Bool
  ord : BitVec 3
  deriving DecidableEq, Repr

/-- The FN field of an atomic (R344). -/
structure AtomFn where
  ty : BitVec 2
  ord : BitVec 2
  l : Bool
  scope : BitVec 3
  deriving DecidableEq, Repr

/-- The tile guard of a group-0xA word, IMM bits 31:22 (R295, R296). -/
structure TileGuard where
  tge : Bool
  tm : BitVec 3
  tbit : BitVec 6
  deriving DecidableEq, Repr

/-- The steps of the N9. Words come first, with the fields of their encoding. An event carries no field: the
object that it happens to is the subject of the state (log entry 1). -/
inductive Instr where
  /-- R137 `add`. -/
  | add (h : Hints) (w : Bool) (d a : Opnd) (b : SrcB)
  /-- R137 `sub`. -/
  | sub (h : Hints) (w : Bool) (d a : Opnd) (b : SrcB)
  /-- R137 `mul`. -/
  | mul (h : Hints) (w : Bool) (d a : Opnd) (b : SrcB)
  /-- R137 `mulh`. -/
  | mulh (h : Hints) (w : Bool) (d a : Opnd) (b : SrcB)
  /-- R137 `mulhn`. -/
  | mulhn (h : Hints) (w : Bool) (d a : Opnd) (b : SrcB)
  /-- R137 `div`. -/
  | div (h : Hints) (w : Bool) (d a : Opnd) (b : SrcB)
  /-- R137 `divn`. -/
  | divn (h : Hints) (w : Bool) (d a : Opnd) (b : SrcB)
  /-- R137 `rem`. -/
  | rem (h : Hints) (w : Bool) (d a : Opnd) (b : SrcB)
  /-- R137 `remn`. -/
  | remn (h : Hints) (w : Bool) (d a : Opnd) (b : SrcB)
  /-- R137 `and`. -/
  | and (h : Hints) (w : Bool) (d a : Opnd) (b : SrcB)
  /-- R137 `or`. -/
  | or (h : Hints) (w : Bool) (d a : Opnd) (b : SrcB)
  /-- R137 `xor`. -/
  | xor (h : Hints) (w : Bool) (d a : Opnd) (b : SrcB)
  /-- R137 `andn`. -/
  | andn (h : Hints) (w : Bool) (d a : Opnd) (b : SrcB)
  /-- R137 `orn`. -/
  | orn (h : Hints) (w : Bool) (d a : Opnd) (b : SrcB)
  /-- R137 `shl`. -/
  | shl (h : Hints) (w : Bool) (d a : Opnd) (b : SrcB)
  /-- R137 `shr`. -/
  | shr (h : Hints) (w : Bool) (d a : Opnd) (b : SrcB)
  /-- R137 `sar`. -/
  | sar (h : Hints) (w : Bool) (d a : Opnd) (b : SrcB)
  /-- R137 `rol`. -/
  | rol (h : Hints) (w : Bool) (d a : Opnd) (b : SrcB)
  /-- R137 `min`. -/
  | min (h : Hints) (w : Bool) (d a : Opnd) (b : SrcB)
  /-- R137 `max`. -/
  | max (h : Hints) (w : Bool) (d a : Opnd) (b : SrcB)
  /-- R137 `minn`. -/
  | minn (h : Hints) (w : Bool) (d a : Opnd) (b : SrcB)
  /-- R137 `maxn`. -/
  | maxn (h : Hints) (w : Bool) (d a : Opnd) (b : SrcB)
  /-- R137 `clz`. -/
  | clz (h : Hints) (w : Bool) (d a : Opnd)
  /-- R137 `ctz`. -/
  | ctz (h : Hints) (w : Bool) (d a : Opnd)
  /-- R137 `popc`. -/
  | popc (h : Hints) (w : Bool) (d a : Opnd)
  /-- R137 `brev`. -/
  | brev (h : Hints) (w : Bool) (d a : Opnd)
  /-- R137 `bswap`. -/
  | bswap (h : Hints) (w : Bool) (d a : Opnd)
  /-- R141 `bfx`; `len1` is LEN − 1. -/
  | bfx (h : Hints) (sg : Bool) (d a : Opnd) (pos len1 : BitVec 6)
  /-- R141 `bfi`. -/
  | bfi (h : Hints) (d a : Opnd) (pos len1 : BitVec 6)
  /-- R142 `sel`. -/
  | sel (h : Hints) (d a : Opnd) (b : SrcB) (qc : BitVec 4) (qn : Bool)
  /-- R142 `mov`. -/
  | mov (h : Hints) (w : Bool) (d a : Opnd)
  /-- R142 `sext`. -/
  | sext (h : Hints) (wid : BitVec 2) (d a : Opnd)
  /-- R142 `zext`. -/
  | zext (h : Hints) (wid : BitVec 2) (d a : Opnd)
  /-- R142 `lea`. -/
  | lea (h : Hints) (d a b : Opnd) (sh : BitVec 3) (disp : BitVec 32)
  /-- R142 `mad`. -/
  | mad (h : Hints) (w : Bool) (d a : Opnd) (b : SrcB)
  /-- R143 `li`. -/
  | li (h : Hints) (d : Opnd) (imm : BitVec 60)
  /-- R143 `lpc`. -/
  | lpc (h : Hints) (d : Opnd) (imm : BitVec 60)
  /-- R145 `cmp`. -/
  | cmp (h : Hints) (d a : Opnd) (b : SrcB) (ty : BitVec 3) (cond : BitVec 4) (comb : BitVec 2)
  /-- R146 `tst`. -/
  | tst (h : Hints) (d a : Opnd) (b : SrcB) (z : Bool) (comb : BitVec 2)
  /-- R147 `pand`. -/
  | pand (h : Hints) (d a b : Opnd) (na nb : Bool)
  /-- R147 `por`. -/
  | por (h : Hints) (d a b : Opnd) (na nb : Bool)
  /-- R147 `pxor`. -/
  | pxor (h : Hints) (d a b : Opnd) (na nb : Bool)
  /-- R147 `pnot`. -/
  | pnot (h : Hints) (d a : Opnd)
  /-- R148 `pset`. -/
  | pset (h : Hints) (a : Opnd)
  /-- R148 `pget`. -/
  | pget (h : Hints) (d : Opnd)
  /-- R150 `br`. -/
  | br (h : Hints) (disp : BitVec 32)
  /-- R150 `jmp`. -/
  | jmp (h : Hints) (a : Opnd)
  /-- R150 `call`. -/
  | call (h : Hints) (d : Opnd) (disp : BitVec 32)
  /-- R150 `callr`. -/
  | callr (h : Hints) (d a : Opnd)
  /-- R152 `loop`. -/
  | loop (h : Hints) (a : Opnd) (maxt : BitVec 20) (blen : BitVec 12)
  /-- R152 `loopw`. -/
  | loopw (h : Hints) (maxt : BitVec 20) (blen : BitVec 12)
  /-- R154 `lexit`. -/
  | lexit (h : Hints)
  /-- R156 `fork`. -/
  | fork (h : Hints) (d a b : Opnd) (disp : BitVec 32)
  /-- R157 `join`. -/
  | join (h : Hints) (a : Opnd) (l : Bool)
  /-- R158 `exit`. -/
  | exit (h : Hints)
  /-- R159 `nop`. -/
  | nop (h : Hints)
  /-- R151 `bch`. -/
  | bch (h : Hints) (a : Opnd) (n : Bool) (disp : BitVec 32)
  /-- R160 `sleep`. -/
  | sleep (h : Hints) (b : SrcB)
  /-- R194 `fadd`. -/
  | fadd (h : Hints) (rnd : BitVec 3) (d a : Opnd) (b : SrcB)
  /-- R194 `fsub`. -/
  | fsub (h : Hints) (rnd : BitVec 3) (d a : Opnd) (b : SrcB)
  /-- R194 `fmul`. -/
  | fmul (h : Hints) (rnd : BitVec 3) (d a : Opnd) (b : SrcB)
  /-- R194 `ffma`. -/
  | ffma (h : Hints) (rnd : BitVec 3) (d a b c : Opnd)
  /-- R195 `fmin`. -/
  | fmin (h : Hints) (p : Bool) (d a : Opnd) (b : SrcB)
  /-- R195 `fmax`. -/
  | fmax (h : Hints) (p : Bool) (d a : Opnd) (b : SrcB)
  /-- R194 `fdiv`. -/
  | fdiv (h : Hints) (rnd : BitVec 3) (d a : Opnd) (b : SrcB)
  /-- R194 `fsqrt`. -/
  | fsqrt (h : Hints) (rnd : BitVec 3) (d a : Opnd)
  /-- R194 `frcp`. -/
  | frcp (h : Hints) (rnd : BitVec 3) (d a : Opnd)
  /-- R196 `fcmp`. -/
  | fcmp (h : Hints) (d a : Opnd) (b : SrcB) (cond : BitVec 4) (comb : BitVec 2)
  /-- R197 `fcvt`; `src` and `dst` are FROM and TO. -/
  | fcvt (h : Hints) (rnd : BitVec 3) (d a : Opnd) (src dst : BitVec 5) (cnt : Bool) (acc : BitVec 2)
  /-- R199 `fclass`. -/
  | fclass (h : Hints) (d a : Opnd)
  /-- R201 `vadd`. -/
  | vadd (h : Hints) (d a : Opnd) (b : SrcB)
  /-- R201 `vsub`. -/
  | vsub (h : Hints) (d a : Opnd) (b : SrcB)
  /-- R201 `vmul`. -/
  | vmul (h : Hints) (d a : Opnd) (b : SrcB)
  /-- R201 `vmad`. -/
  | vmad (h : Hints) (d a b c : Opnd)
  /-- R201 `vand`. -/
  | vand (h : Hints) (d a : Opnd) (b : SrcB)
  /-- R201 `vor`. -/
  | vor (h : Hints) (d a : Opnd) (b : SrcB)
  /-- R201 `vxor`. -/
  | vxor (h : Hints) (d a : Opnd) (b : SrcB)
  /-- R201 `vshl`. -/
  | vshl (h : Hints) (d a : Opnd) (b : SrcB)
  /-- R201 `vshr`. -/
  | vshr (h : Hints) (d a : Opnd) (b : SrcB)
  /-- R201 `vsar`. -/
  | vsar (h : Hints) (d a : Opnd) (b : SrcB)
  /-- R201 `vmin`; `lt` is LT. -/
  | vmin (h : Hints) (lt : Bool) (d a : Opnd) (b : SrcB)
  /-- R201 `vmax`; `lt` is LT. -/
  | vmax (h : Hints) (lt : Bool) (d a : Opnd) (b : SrcB)
  /-- R201 `vcmp`. -/
  | vcmp (h : Hints) (lt : Bool) (cond : BitVec 4) (d a : Opnd) (b : SrcB)
  /-- R201 `vsel`. -/
  | vsel (h : Hints) (d a b c : Opnd)
  /-- R202 `vbcast`. -/
  | vbcast (h : Hints) (d a : Opnd)
  /-- R202 `vext`. -/
  | vext (h : Hints) (lt : Bool) (d a : Opnd) (b : SrcB)
  /-- R202 `vins`. -/
  | vins (h : Hints) (d a : Opnd) (b : SrcB)
  /-- R202 `vperm`. -/
  | vperm (h : Hints) (d a b : Opnd)
  /-- R203 `vredadd`. -/
  | vredadd (h : Hints) (lt : Bool) (d a : Opnd)
  /-- R203 `vredmin`. -/
  | vredmin (h : Hints) (lt : Bool) (d a : Opnd)
  /-- R203 `vredmax`. -/
  | vredmax (h : Hints) (lt : Bool) (d a : Opnd)
  /-- R203 `vscan`. -/
  | vscan (h : Hints) (ex : Bool) (d a : Opnd)
  /-- R202 `viota`. -/
  | viota (h : Hints) (d a : Opnd) (b : SrcB)
  /-- R205 `vfadd`. -/
  | vfadd (h : Hints) (rnd : BitVec 3) (d a : Opnd) (b : SrcB)
  /-- R205 `vfsub`. -/
  | vfsub (h : Hints) (rnd : BitVec 3) (d a : Opnd) (b : SrcB)
  /-- R205 `vfmul`. -/
  | vfmul (h : Hints) (rnd : BitVec 3) (d a : Opnd) (b : SrcB)
  /-- R205 `vffma`. -/
  | vffma (h : Hints) (rnd : BitVec 3) (d a b c : Opnd)
  /-- R205 `vfmin`; RND has no effect (R204). -/
  | vfmin (h : Hints) (p : Bool) (rnd : BitVec 3) (d a : Opnd) (b : SrcB)
  /-- R205 `vfmax`; RND has no effect (R204). -/
  | vfmax (h : Hints) (p : Bool) (rnd : BitVec 3) (d a : Opnd) (b : SrcB)
  /-- R206 `vfcmp`. -/
  | vfcmp (h : Hints) (cond : BitVec 4) (d a : Opnd) (b : SrcB)
  /-- R207 `vfred`. -/
  | vfred (h : Hints) (op : BitVec 4) (rnd : BitVec 3) (d a : Opnd)
  /-- R208 `vfcvt`. -/
  | vfcvt (h : Hints) (rnd : BitVec 3) (d a : Opnd) (src dst : BitVec 5)
  /-- R209 `vfpack`. -/
  | vfpack (h : Hints) (rnd : BitVec 3) (d a b : Opnd) (fcode : BitVec 4) (sel : BitVec 2) (sc cnt : Bool) (acc : BitVec 2)
  /-- R209 `vfunpk`. -/
  | vfunpk (h : Hints) (rnd : BitVec 3) (d a b : Opnd) (fcode : BitVec 4) (sel : BitVec 2) (sc : Bool)
  /-- R205 `vfscale`. -/
  | vfscale (h : Hints) (rnd : BitVec 3) (d a : Opnd) (b : SrcB)
  /-- R210 `vfex2`. -/
  | vfex2 (h : Hints) (rnd : BitVec 3) (d a : Opnd)
  /-- R211 `vfrsq`. -/
  | vfrsq (h : Hints) (rnd : BitVec 3) (d a : Opnd)
  /-- R107: the P-form word whose scalar half is `add`, with its vector half `v`. -/
  | addPform (h : Hints) (sd sa : BitVec 8) (sb : Opnd) (v : VHalf)
  /-- R107: the P-form word whose scalar half is `sub`, with its vector half `v`. -/
  | subPform (h : Hints) (sd sa : BitVec 8) (sb : Opnd) (v : VHalf)
  /-- R107: the P-form word whose scalar half is `mul`, with its vector half `v`. -/
  | mulPform (h : Hints) (sd sa : BitVec 8) (sb : Opnd) (v : VHalf)
  /-- R107: the P-form word whose scalar half is `mulh`, with its vector half `v`. -/
  | mulhPform (h : Hints) (sd sa : BitVec 8) (sb : Opnd) (v : VHalf)
  /-- R107: the P-form word whose scalar half is `mulhn`, with its vector half `v`. -/
  | mulhnPform (h : Hints) (sd sa : BitVec 8) (sb : Opnd) (v : VHalf)
  /-- R107: the P-form word whose scalar half is `div`, with its vector half `v`. -/
  | divPform (h : Hints) (sd sa : BitVec 8) (sb : Opnd) (v : VHalf)
  /-- R107: the P-form word whose scalar half is `divn`, with its vector half `v`. -/
  | divnPform (h : Hints) (sd sa : BitVec 8) (sb : Opnd) (v : VHalf)
  /-- R107: the P-form word whose scalar half is `rem`, with its vector half `v`. -/
  | remPform (h : Hints) (sd sa : BitVec 8) (sb : Opnd) (v : VHalf)
  /-- R107: the P-form word whose scalar half is `remn`, with its vector half `v`. -/
  | remnPform (h : Hints) (sd sa : BitVec 8) (sb : Opnd) (v : VHalf)
  /-- R107: the P-form word whose scalar half is `and`, with its vector half `v`. -/
  | andPform (h : Hints) (sd sa : BitVec 8) (sb : Opnd) (v : VHalf)
  /-- R107: the P-form word whose scalar half is `or`, with its vector half `v`. -/
  | orPform (h : Hints) (sd sa : BitVec 8) (sb : Opnd) (v : VHalf)
  /-- R107: the P-form word whose scalar half is `xor`, with its vector half `v`. -/
  | xorPform (h : Hints) (sd sa : BitVec 8) (sb : Opnd) (v : VHalf)
  /-- R107: the P-form word whose scalar half is `andn`, with its vector half `v`. -/
  | andnPform (h : Hints) (sd sa : BitVec 8) (sb : Opnd) (v : VHalf)
  /-- R107: the P-form word whose scalar half is `orn`, with its vector half `v`. -/
  | ornPform (h : Hints) (sd sa : BitVec 8) (sb : Opnd) (v : VHalf)
  /-- R107: the P-form word whose scalar half is `shl`, with its vector half `v`. -/
  | shlPform (h : Hints) (sd sa : BitVec 8) (sb : Opnd) (v : VHalf)
  /-- R107: the P-form word whose scalar half is `shr`, with its vector half `v`. -/
  | shrPform (h : Hints) (sd sa : BitVec 8) (sb : Opnd) (v : VHalf)
  /-- R107: the P-form word whose scalar half is `sar`, with its vector half `v`. -/
  | sarPform (h : Hints) (sd sa : BitVec 8) (sb : Opnd) (v : VHalf)
  /-- R107: the P-form word whose scalar half is `rol`, with its vector half `v`. -/
  | rolPform (h : Hints) (sd sa : BitVec 8) (sb : Opnd) (v : VHalf)
  /-- R107: the P-form word whose scalar half is `min`, with its vector half `v`. -/
  | minPform (h : Hints) (sd sa : BitVec 8) (sb : Opnd) (v : VHalf)
  /-- R107: the P-form word whose scalar half is `max`, with its vector half `v`. -/
  | maxPform (h : Hints) (sd sa : BitVec 8) (sb : Opnd) (v : VHalf)
  /-- R107: the P-form word whose scalar half is `minn`, with its vector half `v`. -/
  | minnPform (h : Hints) (sd sa : BitVec 8) (sb : Opnd) (v : VHalf)
  /-- R107: the P-form word whose scalar half is `maxn`, with its vector half `v`. -/
  | maxnPform (h : Hints) (sd sa : BitVec 8) (sb : Opnd) (v : VHalf)
  /-- R107: the P-form word whose scalar half is `clz`, with its vector half `v`. -/
  | clzPform (h : Hints) (sd sa : BitVec 8) (sb : Opnd) (v : VHalf)
  /-- R107: the P-form word whose scalar half is `ctz`, with its vector half `v`. -/
  | ctzPform (h : Hints) (sd sa : BitVec 8) (sb : Opnd) (v : VHalf)
  /-- R107: the P-form word whose scalar half is `popc`, with its vector half `v`. -/
  | popcPform (h : Hints) (sd sa : BitVec 8) (sb : Opnd) (v : VHalf)
  /-- R107: the P-form word whose scalar half is `brev`, with its vector half `v`. -/
  | brevPform (h : Hints) (sd sa : BitVec 8) (sb : Opnd) (v : VHalf)
  /-- R107: the P-form word whose scalar half is `bswap`, with its vector half `v`. -/
  | bswapPform (h : Hints) (sd sa : BitVec 8) (sb : Opnd) (v : VHalf)
  /-- R107: the P-form word whose scalar half is `mov`, with its vector half `v`. -/
  | movPform (h : Hints) (sd sa : BitVec 8) (sb : Opnd) (v : VHalf)
  /-- R107: the P-form word whose scalar half is `mad`, with its vector half `v`. -/
  | madPform (h : Hints) (sd sa : BitVec 8) (sb : Opnd) (v : VHalf)
  /-- R108: the P-form word whose vector half is `vadd`, with its scalar half `x`. -/
  | vaddPform (h : Hints) (vd va vb vc : BitVec 5) (ty : BitVec 4) (rm : BitVec 2) (x : SHalf)
  /-- R108: the P-form word whose vector half is `vsub`, with its scalar half `x`. -/
  | vsubPform (h : Hints) (vd va vb vc : BitVec 5) (ty : BitVec 4) (rm : BitVec 2) (x : SHalf)
  /-- R108: the P-form word whose vector half is `vmul`, with its scalar half `x`. -/
  | vmulPform (h : Hints) (vd va vb vc : BitVec 5) (ty : BitVec 4) (rm : BitVec 2) (x : SHalf)
  /-- R108: the P-form word whose vector half is `vmad`, with its scalar half `x`. -/
  | vmadPform (h : Hints) (vd va vb vc : BitVec 5) (ty : BitVec 4) (rm : BitVec 2) (x : SHalf)
  /-- R108: the P-form word whose vector half is `vand`, with its scalar half `x`. -/
  | vandPform (h : Hints) (vd va vb vc : BitVec 5) (ty : BitVec 4) (rm : BitVec 2) (x : SHalf)
  /-- R108: the P-form word whose vector half is `vor`, with its scalar half `x`. -/
  | vorPform (h : Hints) (vd va vb vc : BitVec 5) (ty : BitVec 4) (rm : BitVec 2) (x : SHalf)
  /-- R108: the P-form word whose vector half is `vxor`, with its scalar half `x`. -/
  | vxorPform (h : Hints) (vd va vb vc : BitVec 5) (ty : BitVec 4) (rm : BitVec 2) (x : SHalf)
  /-- R108: the P-form word whose vector half is `vshl`, with its scalar half `x`. -/
  | vshlPform (h : Hints) (vd va vb vc : BitVec 5) (ty : BitVec 4) (rm : BitVec 2) (x : SHalf)
  /-- R108: the P-form word whose vector half is `vshr`, with its scalar half `x`. -/
  | vshrPform (h : Hints) (vd va vb vc : BitVec 5) (ty : BitVec 4) (rm : BitVec 2) (x : SHalf)
  /-- R108: the P-form word whose vector half is `vsar`, with its scalar half `x`. -/
  | vsarPform (h : Hints) (vd va vb vc : BitVec 5) (ty : BitVec 4) (rm : BitVec 2) (x : SHalf)
  /-- R108: the P-form word whose vector half is `vmin`, with its scalar half `x`. -/
  | vminPform (h : Hints) (vd va vb vc : BitVec 5) (ty : BitVec 4) (rm : BitVec 2) (x : SHalf)
  /-- R108: the P-form word whose vector half is `vmax`, with its scalar half `x`. -/
  | vmaxPform (h : Hints) (vd va vb vc : BitVec 5) (ty : BitVec 4) (rm : BitVec 2) (x : SHalf)
  /-- R108: the P-form word whose vector half is `vperm`, with its scalar half `x`. -/
  | vpermPform (h : Hints) (vd va vb vc : BitVec 5) (ty : BitVec 4) (rm : BitVec 2) (x : SHalf)
  /-- R108: the P-form word whose vector half is `vscan`, with its scalar half `x`. -/
  | vscanPform (h : Hints) (vd va vb vc : BitVec 5) (ty : BitVec 4) (rm : BitVec 2) (x : SHalf)
  /-- R108: the P-form word whose vector half is `vfadd`, with its scalar half `x`. -/
  | vfaddPform (h : Hints) (vd va vb vc : BitVec 5) (ty : BitVec 4) (rm : BitVec 2) (x : SHalf)
  /-- R108: the P-form word whose vector half is `vfsub`, with its scalar half `x`. -/
  | vfsubPform (h : Hints) (vd va vb vc : BitVec 5) (ty : BitVec 4) (rm : BitVec 2) (x : SHalf)
  /-- R108: the P-form word whose vector half is `vfmul`, with its scalar half `x`. -/
  | vfmulPform (h : Hints) (vd va vb vc : BitVec 5) (ty : BitVec 4) (rm : BitVec 2) (x : SHalf)
  /-- R108: the P-form word whose vector half is `vffma`, with its scalar half `x`. -/
  | vffmaPform (h : Hints) (vd va vb vc : BitVec 5) (ty : BitVec 4) (rm : BitVec 2) (x : SHalf)
  /-- R108: the P-form word whose vector half is `vfmin`, with its scalar half `x`. -/
  | vfminPform (h : Hints) (vd va vb vc : BitVec 5) (ty : BitVec 4) (rm : BitVec 2) (x : SHalf)
  /-- R108: the P-form word whose vector half is `vfmax`, with its scalar half `x`. -/
  | vfmaxPform (h : Hints) (vd va vb vc : BitVec 5) (ty : BitVec 4) (rm : BitVec 2) (x : SHalf)
  /-- R108: the P-form word whose vector half is `vfscale`, with its scalar half `x`. -/
  | vfscalePform (h : Hints) (vd va vb vc : BitVec 5) (ty : BitVec 4) (rm : BitVec 2) (x : SHalf)
  /-- R108: the P-form word whose vector half is `vfex2`, with its scalar half `x`. -/
  | vfex2Pform (h : Hints) (vd va vb vc : BitVec 5) (ty : BitVec 4) (rm : BitVec 2) (x : SHalf)
  /-- R108: the P-form word whose vector half is `vfrsq`, with its scalar half `x`. -/
  | vfrsqPform (h : Hints) (vd va vb vc : BitVec 5) (ty : BitVec 4) (rm : BitVec 2) (x : SHalf)
  /-- R249 `ld`. -/
  | ld (h : Hints) (f : MemFn) (d a : Opnd) (disp : BitVec 32)
  /-- R250 `st`. -/
  | st (h : Hints) (f : MemFn) (a b : Opnd) (disp : BitVec 32)
  /-- R251 `vld`. -/
  | vld (h : Hints) (f : MemFn) (d a : Opnd) (disp : BitVec 32)
  /-- R251 `vst`. -/
  | vst (h : Hints) (f : MemFn) (a b : Opnd) (disp : BitVec 32)
  /-- R251 `vlds`. -/
  | vlds (h : Hints) (f : MemFn) (d a b : Opnd) (disp : BitVec 32)
  /-- R251 `vsts`. -/
  | vsts (h : Hints) (f : MemFn) (d a b : Opnd) (disp : BitVec 32)
  /-- R255 `hold`. -/
  | hold (h : Hints) (a : Opnd) (disp : BitVec 32)
  /-- R256 `pin`. -/
  | pin (h : Hints) (d a : Opnd) (disp : BitVec 32)
  /-- R256 `unpin`. -/
  | unpin (h : Hints) (d a : Opnd) (disp : BitVec 32)
  /-- R257 `lsfmt`; `n1` is n − 1. -/
  | lsfmt (h : Hints) (a : Opnd) (fcode : BitVec 4) (n1 : BitVec 5)
  /-- R345 `ldf`. -/
  | ldf (h : Hints) (scope : BitVec 3) (l : Bool) (d a : Opnd) (disp : BitVec 32)
  /-- R345 `lde`. -/
  | lde (h : Hints) (scope : BitVec 3) (l : Bool) (d a : Opnd) (disp : BitVec 32)
  /-- R345 `stf`. -/
  | stf (h : Hints) (scope : BitVec 3) (l : Bool) (a b : Opnd) (disp : BitVec 32)
  /-- R345 `sto`. -/
  | sto (h : Hints) (scope : BitVec 3) (l : Bool) (a b : Opnd) (disp : BitVec 32)
  /-- R345 `clrf`. -/
  | clrf (h : Hints) (l : Bool) (a : Opnd) (disp : BitVec 32)
  /-- R350 `aadd`. -/
  | aadd (h : Hints) (f : AtomFn) (d a b : Opnd) (disp : BitVec 32)
  /-- R350 `acas`. -/
  | acas (h : Hints) (f : AtomFn) (d a b : Opnd) (disp : BitVec 32)
  /-- R350 `axchg`. -/
  | axchg (h : Hints) (f : AtomFn) (d a b : Opnd) (disp : BitVec 32)
  /-- R350 `amin`. -/
  | amin (h : Hints) (f : AtomFn) (d a b : Opnd) (disp : BitVec 32)
  /-- R350 `amax`. -/
  | amax (h : Hints) (f : AtomFn) (d a b : Opnd) (disp : BitVec 32)
  /-- R350 `aand`. -/
  | aand (h : Hints) (f : AtomFn) (d a b : Opnd) (disp : BitVec 32)
  /-- R350 `aor`. -/
  | aor (h : Hints) (f : AtomFn) (d a b : Opnd) (disp : BitVec 32)
  /-- R350 `axor`. -/
  | axor (h : Hints) (f : AtomFn) (d a b : Opnd) (disp : BitVec 32)
  /-- R353 `fence`. -/
  | fence (h : Hints) (kind : BitVec 2) (scope : BitVec 3)
  /-- R353 `xfence`. -/
  | xfence (h : Hints) (scope : BitVec 3) (mask : BitVec 6)
  /-- R355 `bexp`. -/
  | bexp (h : Hints) (scope : BitVec 3) (l : Bool) (d a b : Opnd) (disp : BitVec 32)
  /-- R355 `barv`. -/
  | barv (h : Hints) (scope : BitVec 3) (l : Bool) (a b : Opnd) (disp : BitVec 32)
  /-- R355 `bwait`. -/
  | bwait (h : Hints) (scope : BitVec 3) (l : Bool) (a b : Opnd) (disp : BitVec 32)
  /-- R260 `wbind`. -/
  | wbind (h : Hints) (l : Bool) (d a : Opnd) (disp : BitVec 32)
  /-- R261 `wret`. -/
  | wret (h : Hints) (a : Opnd)
  /-- R262 `wld`. -/
  | wld (h : Hints) (mty : BitVec 4) (raw : Bool) (d a b : Opnd)
  /-- R262 `wst`. -/
  | wst (h : Hints) (mty : BitVec 4) (raw : Bool) (d a b : Opnd)
  /-- R263 `wvld`; `n1` is n − 1. -/
  | wvld (h : Hints) (mty : BitVec 4) (raw : Bool) (d a b : Opnd) (n1 : BitVec 4)
  /-- R263 `wvst`. -/
  | wvst (h : Hints) (mty : BitVec 4) (raw : Bool) (d a b : Opnd) (n1 : BitVec 4)
  /-- R264 `wqry`. -/
  | wqry (h : Hints) (d a : Opnd) (sel : BitVec 4)
  /-- R265 `wadj`. -/
  | wadj (h : Hints) (d a : Opnd)
  /-- R266 `wfoot`. -/
  | wfoot (h : Hints) (d a : Opnd) (sel : BitVec 2)
  /-- R297 `mzero`. -/
  | mzero (h : Hints) (d : Opnd) (tg : TileGuard)
  /-- R298, R299 `mma`; `ng1` is NG − 1. -/
  | mma (h : Hints) (d a b : Opnd) (ta tb : BitVec 2) (l : Bool) (ng1 : BitVec 4) (kg : BitVec 9) (tg : TileGuard)
  /-- R298, R299 `mmas`; `ng1` is NG − 1. -/
  | mmas (h : Hints) (d a b : Opnd) (ta tb : BitVec 2) (l : Bool) (ng1 : BitVec 4) (kg : BitVec 9) (tg : TileGuard)
  /-- R300 `mld`. -/
  | mld (h : Hints) (d a b : Opnd) (ty : BitVec 2) (tg : TileGuard)
  /-- R301 `mst`. -/
  | mst (h : Hints) (d a b : Opnd) (rnd : BitVec 3) (ty : BitVec 2) (tg : TileGuard)
  /-- R302 `msst`. -/
  | msst (h : Hints) (d a b c : Opnd) (rnd : BitVec 3) (ty : BitVec 2) (l : Bool) (tg : TileGuard)
  /-- R303 `madd`. -/
  | madd (h : Hints) (d a : Opnd) (kg : BitVec 9) (tg : TileGuard)
  /-- R304 `mstat`. -/
  | mstat (h : Hints) (d a : Opnd)
  /-- R304 `mclrs`. -/
  | mclrs (h : Hints) (a : Opnd)
  /-- R305 `mtm`, the write form. -/
  | mtm (h : Hints) (d a : Opnd)
  /-- R305 `mtm.rd`. -/
  | mtmRd (h : Hints) (d a : Opnd)
  /-- R305 `mtmg.set`. -/
  | mtmgSet (h : Hints) (d a : Opnd) (n : BitVec 6)
  /-- R305 `mtmg.clr`. -/
  | mtmgClr (h : Hints) (d a : Opnd) (n : BitVec 6)
  /-- R306 `msync`. -/
  | msync (h : Hints)
  /-- R268 `cpy`. -/
  | cpy (h : Hints) (d a b : Opnd) (out l bc : Bool) (bar : BitVec 19)
  /-- R271 `cpyq`. -/
  | cpyq (h : Hints) (d a b : Opnd)
  /-- R272 `gath`. -/
  | gath (h : Hints) (mty : BitVec 4) (raw : Bool) (d a b : Opnd) (mask : BitVec 16)
  /-- R273 `scat`. -/
  | scat (h : Hints) (mty : BitVec 4) (raw : Bool) (d a b : Opnd) (mask : BitVec 16)
  /-- R274 `scadd`. -/
  | scadd (h : Hints) (ty : BitVec 4) (d a b : Opnd) (mask : BitVec 16)
  /-- R275 `rbar`. -/
  | rbar (h : Hints) (ty : BitVec 4) (scope : BitVec 3) (a b : Opnd) (n : BitVec 24)
  /-- R276 `ship`. -/
  | ship (h : Hints) (rout : BitVec 4) (w u : Bool) (d a b c : Opnd)
  /-- R358 `qpush`. -/
  | qpush (h : Hints) (d a b : Opnd) (disp : BitVec 32)
  /-- R358 `qpop`. -/
  | qpop (h : Hints) (d a b : Opnd) (disp : BitVec 32)
  /-- R358 `qpeek`. -/
  | qpeek (h : Hints) (d a b : Opnd) (disp : BitVec 32)
  /-- R359 `qclose`. -/
  | qclose (h : Hints) (a : Opnd)
  /-- R359 `qstat`. -/
  | qstat (h : Hints) (d a : Opnd)
  /-- R361 `chbind`. -/
  | chbind (h : Hints) (d a : Opnd)
  /-- R363 `chstat`. -/
  | chstat (h : Hints) (d a : Opnd)
  /-- R366 `semw`. -/
  | semw (h : Hints) (scope : BitVec 3) (a b : Opnd)
  /-- R366 `sems`. -/
  | sems (h : Hints) (scope : BitVec 3) (a b : Opnd)
  /-- R367 `bar`. -/
  | bar (h : Hints) (scope : BitVec 3) (l : Bool) (a b : Opnd) (disp : BitVec 32)
  /-- R389 `trap`. -/
  | trap (h : Hints) (code : BitVec 32)
  /-- R391 `sys`. -/
  | sys (h : Hints) (d a : Opnd) (svc : BitVec 12)
  /-- R390 `rfe`. -/
  | rfe (h : Hints)
  /-- R394 `cwget`. -/
  | cwget (h : Hints) (d a : Opnd) (idx : BitVec 8)
  /-- R394 `cwset`. -/
  | cwset (h : Hints) (a b : Opnd) (idx : BitVec 8)
  /-- R392 `feat`. -/
  | feat (h : Hints) (d : Opnd)
  /-- R395 `exrd`. -/
  | exrd (h : Hints) (d a : Opnd) (idx : BitVec 8)
  /-- R395 `exwr`. -/
  | exwr (h : Hints) (a b : Opnd) (idx : BitVec 8)
  /-- R395 `exres`; `fin` is END. -/
  | exres (h : Hints) (a : Opnd) (fin : Bool)
  /-- R393 `seed`. -/
  | seed (h : Hints) (a : Opnd)
  /-- R396 `idle`. -/
  | idle (h : Hints) (d b : Opnd)
  /-- R437: power-good. -/
  | powerGood
  /-- R442: the tamper (0), voltage (1) or clock (2) detector raises the alarm. -/
  | securityAlarm
  /-- R443: a stack's refresh sequencer takes over. -/
  | refreshTakeover
  /-- R445: a flit of a port is replayed. -/
  | narelFlitReplay
  /-- R445: a port goes down after 8 failed replays. -/
  | narelPortDown
  /-- R436: the last 1 ms power average is `watts`. -/
  | powerPacing
  /-- R50: a DMWr (or, with `read`, a memory read) at an offset of a notify page. -/
  | notifyDmwr
  /-- R50: a posted memory write to a notify page. -/
  | notifyPostedWrite
  /-- R54: the 8-byte write into a PASID table that clears the last VALID entry of a PASID. -/
  | pasidRevocation
  /-- R46, R439: an 8-byte write to an interface or management register. -/
  | registerWrite
  /-- R59: intake of the INTAKE packet at the head of an interface. -/
  | intake
  /-- R60: the START packet at the head of an interface. -/
  | start
  /-- R63: the LAYOUT packet at the head of an interface. -/
  | layout
  /-- R63: the FORMAT packet at the head of an interface. -/
  | format
  /-- R63: the CANCEL packet at the head of an interface. -/
  | cancel
  /-- R67: firmware binds the cores (by pcid; one list per stage, per pipeline) of a job. -/
  | placement
  /-- R448: firmware places an urgent job on shadow banks. -/
  | urgentPlacement
  /-- R76: a core with a free slot takes work and starts a frond. -/
  | frondStart
  /-- R121: the head of a core's ready list takes a slot. -/
  | readyListPlace
  /-- R80: a thief reads a victim's top word and the entry at TOP. -/
  | stealRead
  /-- R80: the victim's port performs the thief's compare-and-swap. -/
  | stealCas
  /-- R79: a thief's next pass begins. -/
  | stealPassRetry
  /-- R82: a pipeline's balancer interval ends. -/
  | balancerInterval
  /-- R85: a decided move takes effect and the core begins to drain. -/
  | balancerMove
  /-- R85 step 4: a draining core rebinds. -/
  | coreRebind
  /-- R85 step 1: one deque entry of a draining core passes to another core. -/
  | dequeTransfer
  /-- R32: a stream source pushes its next element, or closes its queue. -/
  | streamSourcePush
  /-- R32: a stream sink writes or discards an element. -/
  | streamSinkWrite
  /-- R92: a fill of an instruction-cache line and the next lands. -/
  | icacheFill
  /-- R222: a page walk ends. -/
  | pageWalkDone
  /-- R125: an outstanding result lands. -/
  | resultLanding
  /-- R319: element `k` of a store, or of an atomic or synchronising operation, is performed at its home. -/
  | storePerformed
  /-- R450: the acknowledgement of a performed store arrives. -/
  | storeAck
  /-- R326: a die applies element `k` of a cross-die store. -/
  | crossDieStoreApply
  /-- R231: a mobile frond leaves for a block's home. -/
  | migrate
  /-- R232: a migrating record arrives. -/
  | migrationArrival
  /-- R236: the arbiter of a core picks a block. -/
  | fillPick
  /-- R238, R269: a line of a fill or a copy lands. -/
  | lineArrival
  /-- R239: the last line of a fill lands. -/
  | fillLanding
  /-- R241: a fill fails. -/
  | fillFailure
  /-- R270: every byte of a copy has been performed. -/
  | copyComplete
  /-- R271: the copy engine pushes the next element of a `cpyq`. -/
  | cpyqPush
  /-- R306: the oldest word of an engine finishes its effects. -/
  | matrixWordComplete
  /-- R362: a flit moves from a send queue to the peer. -/
  | channelFlitDelivery
  /-- R346: an operation refused by a full waiting list is sent again. -/
  | syncResend
  /-- R348: a waiting operation passes its timeout. -/
  | felimitTimeout
  /-- R160: a sleeping frond's count expires. -/
  | sleepEnd
  /-- R131: a swap request reaches a core. -/
  | swapRequest
  /-- R381: an urgent quantum ends with live fronds. -/
  | urgentQuantumEnd
  /-- R133: the shadow bank swaps back. -/
  | swapBack
  /-- R383: a suspension that has drained is written and its cores released. -/
  | gangSuspend
  /-- R385: a suspended job is restored. -/
  | gangResume
  /-- R387: a job takes HANG. -/
  | hang
  /-- R373: a waiting message is delivered to a supervisor slot. -/
  | supervisorMessage
  /-- R374: a frond halts on a pending cause that has no handler. -/
  | frondhalt
  /-- R371: a frond enters its handler on a pending cause. -/
  | handlerEntry
  /-- R376, R378: control firmware ends a halted frond under its fault domain. -/
  | faultDomainEnd
  /-- R377: control firmware deals with a FEATURE. -/
  | featureMigrate
  /-- R401: a job retires. -/
  | jobRetirement
  /-- R391: control firmware answers a `sys`. -/
  | sysAnswer
  /-- R396: an `idle` ends. -/
  | idleWake
  /-- R341: a host CXL.mem access, at a byte of the HDM range. -/
  | hostCxlMemAccess
  /-- R440: the STATUS mailbox command. -/
  | status
  /-- R441: the LOADFW mailbox command. -/
  | loadfw
  /-- R442: the ATTEST mailbox command. -/
  | attest
  /-- R440: the SETPKG mailbox command. -/
  | setpkg
  /-- R224: the INVAL mailbox command. -/
  | inval
  /-- R223: the XLANS mailbox command. -/
  | xlans
  /-- R447: the POISON mailbox command. -/
  | poison
  /-- R227: the SETTHR mailbox command. -/
  | setthr
  /-- R440: the CLRCNT mailbox command. -/
  | clrcnt
  /-- R440: a mailbox command finishes. -/
  | mailboxDone
  /-- R275: a reduction phase merges. -/
  | reductionMergeDone
  /-- R283: a group-0xA word reaches its check point. -/
  | matrixCheckPoint
  deriving DecidableEq, Repr

end Sys2Proof
end

