-- ==== Sys2Proof/Machine/State.lean ====
section
/-! DEFINITION. The state of the N9 as plain data, the reasons a step can stop, and the state after
reset. INVENTORY.md, '## State', gives the rule and the reset value of every field. -/

namespace Sys2Proof.Machine

/-- Sparse data by key: strictly rising keys, and no entry equal to what an unlisted key reads as. -/
abbrev SMap (α : Type) := List (Nat × α)

/-! ## Fronds -/

/-- One hardware-loop level (R134). -/
structure Level where
  start : Nat
  blen : Nat
  maxt : Nat
  pass : Nat
  count : Nat
  /-- KIND: false `loop`, true `loopw`. -/
  while_ : Bool
  deriving DecidableEq, Repr

/-- Where a result is written. -/
inductive Dest where
  | none
  /-- `zero`: discarded. -/
  | zero
  | g (n : Nat)
  | v (n : Nat)
  | q (n : Nat)
  deriving DecidableEq, Repr

/-- One outstanding result of a frond (R125): the flight or engine word it comes from, and where it goes. -/
structure OutRes where
  id : Nat
  dest : Dest
  deriving DecidableEq, Repr

/-- A trap cause with its information (R369). -/
structure Cause where
  code : Nat
  info : Nat
  deriving DecidableEq, Repr

/-- A flit of a channel (R362): its size (64 B when `wide`) and its bits. -/
structure Flit where
  wide : Bool
  bits : Nat
  deriving DecidableEq, Repr

/-- The states of a channel port (R361). -/
inductive ChanState where
  | unbound
  | binding
  | bound
  | closed
  deriving DecidableEq, Repr

/-- A channel port (R361, R362): its peer is a frond and a port number. -/
structure Chan where
  state : ChanState
  key : Nat
  peer : Option (Nat × Nat)
  send : List Flit
  recv : List Flit
  deriving DecidableEq, Repr

/-- A held operand (R452): which port field of the word, and what it took. -/
structure Held where
  field : Nat
  bits : Nat
  deriving DecidableEq, Repr

/-- Where a frond is (R117, R121, R231, R233). -/
inductive Loc where
  /-- In slot `n` of its core's main or shadow bank. -/
  | slot (n : Nat)
  /-- On its core's ready list. -/
  | ready
  /-- In a hold record of its core's hold storage. -/
  | hold
  /-- Travelling as a record; it arrives at `clk` = `at_` or later, for the block `block` of its job, or for a
  feature that its old core lacks (R377). -/
  | transit (at_ : Nat) (block : Option Nat)
  /-- In the suspension image of its job; `inSlot` is the slot it held. -/
  | image (inSlot : Option Nat)
  deriving DecidableEq, Repr

/-- What a frond that is not Running waits for (R118). -/
inductive Wait where
  | run
  /-- Waiting for the answer of flight `id`: a synchronising word, a remote WALK request, a `join`. -/
  | port (id : Nat)
  /-- Parked with a reason and an object of R233; the word at PC has not issued. `info` is the VA that
  missed (reason 1). -/
  | park (reason obj info : Nat)
  /-- Blocked on a receive from channel port `n` (R129). -/
  | chan (n : Nat)
  /-- Blocked by `sleep` to the end of cycle `until_` (R160). -/
  | sleep (until_ : Nat)
  /-- Blocked by `sys` (R391), whose word completes with the answer. -/
  | sys (svc : Nat) (a : Word) (d : Dest) (hints : Hints)
  /-- Blocked by `idle` (R396); `until_` is none without a timeout. -/
  | idle (until_ : Option Nat) (d : Dest) (hints : Hints)
  /-- Halted (R374). -/
  | halted
  /-- Waiting for an instruction-cache fill of these lines (R92). -/
  | icache
  /-- Waiting to send again a synchronising operation refused by a full list (R346). -/
  | resend (at_ id : Nat)
  /-- Waiting for the check point of engine word `id` (R283). -/
  | engine (id : Nat)
  /-- FEATURE taken: control firmware deals with it (R377). -/
  | feature (bit : Nat)
  /-- An `exit` that has issued (R158). -/
  | exiting
  /-- A `join` that has decremented its counter and ends its frond (R157). -/
  | joined
  /-- Blocked until its stores are acknowledged, to migrate to the home of this block (R231). -/
  | migrate (block : Nat)
  deriving DecidableEq, Repr

/-- A halt's own values (R374, R395 window indices 0x88 to 0x8A, 0x98 and 0x99). -/
structure Halt where
  cause : Nat
  info : Nat
  pc : Nat
  word : Nat
  deriving DecidableEq, Repr

/-- A frond: its context of R117, its place, and what it waits for. -/
structure Frond where
  /-- The model's own name of the frond. -/
  uid : Nat
  /-- `fid` bits 47:0 (R110). -/
  fid : Nat
  jid : Nat
  /-- Pipeline number. -/
  pl : Nat
  /-- `sid`, SNUM of its stage. -/
  stage : Nat
  urgent : Bool
  /-- A frond of a control core (R100). -/
  control : Bool
  pcid : Nat
  loc : Loc
  /-- The number of its hold record in the hold storage of its core, while it lies there (R233). -/
  record : Nat
  /-- Base of its register window (R123). -/
  base : Nat
  /-- REGS of its stage, 8 to 128. -/
  regs : Nat
  g : List Word
  pc : Nat
  /-- Bit n is `q`n; bit 0 is true. -/
  preds : BitVec 16
  /-- `fst` bits 6:0. -/
  flags : BitVec 7
  hnd : Bool
  rooted : Bool
  /-- LDEPTH at handler entry (R371). -/
  entryDepth : Nat
  /-- Active hardware-loop levels, outermost first. -/
  loops : List Level
  epc : Word
  ecause : Word
  einfo : Word
  sseed : Word
  ix : Word
  /-- `w0` to `w3`: the descriptor of a live view (R40). -/
  views : List (Option (BitVec 512))
  outs : List OutRes
  held : List Held
  heldPc : Nat
  /-- The same for the words of its handler (log entry 12). -/
  heldH : List Held
  heldHPc : Nat
  chans : List Chan
  wait : Wait
  /-- The first cycle in which it may issue (R119, R121, R371, R395). -/
  notBefore : Nat
  /-- Claims on carrels of its core, by carrel number (R235). -/
  claims : List Nat
  /-- Carrel of its most recent WALK access, for LU (R98). -/
  lastWalk : Option Nat
  /-- Pending late DATAFAULTs and SHIPERRs, in landing order (R254). -/
  late : List Cause
  /-- Pending deferred STOREERRs, in detection order (R372). -/
  storeErrs : List Nat
  /-- A precise cause pending at the word at PC (R94, R223, R241, R348, R115). -/
  cause : Option Cause
  /-- The PC of the word of that cause; and the same of a cause at a word of its handler (R370). -/
  causePc : Nat := 0
  causeH : Option Cause := none
  causeHPc : Nat := 0
  /-- Waiting at a switch marker for its outstanding results (R126). -/
  swMark : Bool
  /-- A STOREERR was recorded in its latest Waiting state of R126 (R372). -/
  errWait : Bool
  /-- The PC of the first word after such a state, while the handler of a cause taken at it runs: the STOREERRs left are taken
  when the frond returns to it (R372). -/
  errBack : Option Nat := none
  /-- `clk` when it was listed in its cluster's wait table (R386). -/
  since : Nat
  /-- The block to whose home it has come, in the cycle `since`, when the hold storage there was full (R232, R237). -/
  reached : Option Nat := none
  /-- Order number of its park, ready-list or waiting-list place. -/
  seq : Nat
  /-- It is the first frond of an element of its feed queue: the element its first pop yields (R15). -/
  feed : Option (Nat × List Byte)
  halt : Option Halt
  deriving DecidableEq, Repr

/-! ## Accesses in flight -/

/-- Where the bytes of an element access lie (R319). -/
inductive Place where
  /-- Local store, at pcid × 2^20 + offset. -/
  | ls (addr : Nat)
  /-- HBM of this or another package, at a PA. -/
  | hbm (pa : Nat)
  /-- Host memory (HOST = 1). -/
  | host (addr : Nat)
  /-- Byte `off` of a WALK block (VA bits 55:14) of a job, whose memory lies at `pa`. -/
  | walk (jid block off pa : Nat)
  deriving DecidableEq, Repr

/-- How an element is decoded or encoded (R186, R187, R248). -/
inductive Coding where
  /-- Bytes as they are. -/
  | raw
  /-- binary32 through the code of its region or page, as it stands when performed; `page` is FCODE. -/
  | place (page : Nat)
  /-- binary32 through the nonzero FCODE of a view. -/
  | fixed (code : Nat)
  /-- An element of accumulator `a` that `mst` stores (R301): FCODE of its view and of its page, RND, TY, and the random
  bits of its conversion (R173). -/
  | acc (code page a rnd ty bits : Nat)
  deriving DecidableEq, Repr

/-- One element access (R319). -/
structure Elem where
  place : Place
  /-- The VA or window address, for traps. -/
  va : Nat
  size : Nat
  lane : Nat
  coding : Coding
  /-- A store's value, or what a load or read-modify-write has read. -/
  val : Nat
  performed : Bool
  /-- A cross-die store that the destination die has applied (R326). -/
  applied : Bool
  /-- The issuing die's vector clock that a cross-die store carries (R326). -/
  clock : List Nat := []
  /-- TIER of the leaf that reached it, when that leaf has CNT = 1 (R227). -/
  cnt : Option Bool
  deriving DecidableEq, Repr

/-- The footprint of R333: byte interval, lattice step and offset, element size. -/
structure Foot where
  lo : Nat
  hi : Nat
  step : Nat
  off : Nat
  esz : Nat
  deriving DecidableEq, Repr

/-- The synchronising operations of a port (R345, R355, R367). -/
inductive SyncOp where
  | ldf
  | lde
  | stf
  | sto
  | clrf
  | bexp
  | barv
  | bwait
  | bar
  deriving DecidableEq, Repr

/-- What a flight does at its homes. -/
inductive FlightOp where
  /-- Reads; the result is formed by MTY (R249, R251); lanes `n` and above read 0. -/
  | load (mty : Nat) (vec : Bool)
  | store
  /-- Read-modify-write by routine (R276, R350); the result is sign-extended when `sx`. -/
  | rmw (rout : Nat) (u : Bool) (b c : Nat) (sx : Bool)
  /-- The decrement of a `join` (R157). -/
  | join
  /-- A synchronising operation with its operand. -/
  | sync (op : SyncOp) (b : Nat)
  /-- `scadd` (R274): the addends are the elements' values. -/
  | scadd (f32 : Bool)
  /-- A descriptor read of `wbind` into `w`n (R260). -/
  | bind (w : Nat)
  /-- A residency request (R255): performed when the block is resident. -/
  | touch
  /-- A `pin` (true) or `unpin` (false) request at a home port (R256). -/
  | pin (add : Bool)
  /-- A result already formed: `mstat`, `mtm.rd`, `mtmg`, `exrd`. -/
  | value (v : Nat)
  /-- `qstat` of a queue of a pipeline (R359). -/
  | qstat (pl q : Nat)
  /-- The operand reads of engine word `word` (R292, R300). -/
  | operand (word : Nat)
  deriving DecidableEq, Repr

/-- The accesses of one word in flight. -/
structure Flight where
  id : Nat
  uid : Nat
  jid : Nat
  /-- Path code of R244. -/
  path : Nat
  /-- The core it was issued from. -/
  pcid : Nat
  dest : Dest
  op : FlightOp
  elems : List Elem
  /-- The elements of one aligned 8-byte piece are performed together (R251). -/
  piece : Bool
  /-- `clk` at issue. -/
  issued : Nat
  /-- The least `clk` at which an element may be performed (R450). -/
  due : Nat
  /-- Idle time from performing to landing or acknowledgement (R450). -/
  back : Nat
  /-- The least `clk` of landing or acknowledgement, once every element is performed. -/
  done : Option Nat
  /-- The job's format table as the operation read it when it began (R64, R186). -/
  fmts : List (BitVec 32) := []
  /-- Scope of an acquire (R253), or none. -/
  acq : Option Nat
  /-- Footprint and mode of the view it goes through (R334), with the view register. -/
  view : Option (Foot × Nat)
  /-- Failed re-examinations, the cycle of the first answer of no match, and frozen cycles since (R348). Of a
  `join`, `first` is the cycle in which its waits ended (R157, R450). -/
  tries : Nat
  first : Option Nat
  frozen : Nat
  /-- The cause of the first error met (R254, R277). -/
  failed : Option Cause
  /-- The word at PC waits until the flight is performed or answered (R230, R346): its hints. -/
  blocks : Option Hints
  /-- Elements of operand lines that have been read before the rest of their lines (R319, R321): the line, the first bit and
  the number of bits in it, and what was read. -/
  got : List (Nat × Nat × Nat × Nat) := []
  deriving DecidableEq, Repr

/-- A copy in flight (R268 to R270). -/
structure Copy where
  id : Nat
  uid : Nat
  jid : Nat
  pcid : Nat
  out : Bool
  /-- PA and VA of region byte (0, 0, 0). -/
  pa : Nat
  va : Nat
  /-- EXT0, E1, E2, STR1, STR2. -/
  ext0 : Nat
  e1 : Nat
  e2 : Nat
  str1 : Nat
  str2 : Nat
  /-- Local-store address, pcid × 2^20 + offset. -/
  ls : Nat
  /-- Local-store lines (address / 128) that have not landed. -/
  lines : List Nat
  /-- Barrier word of BC = 1. -/
  bar : Option Nat
  failed : Option Nat
  due : Nat
  /-- The aligned pieces of the region, by PA / 8, that a copy out has written (R319, R321). -/
  moved : List Nat := []
  /-- Bytes, by number in local-store order, that have been read at their source and not yet written (R319, R321). -/
  got : List (Nat × Byte) := []
  /-- The clock that the stores of a copy bound for other dies carry (R326). -/
  clock : List Nat := []
  deriving DecidableEq, Repr

/-- A `cpyq` with elements left to push (R271). -/
structure CopyQ where
  id : Nat
  uid : Nat
  jid : Nat
  pcid : Nat
  pl : Nat
  stage : Nat
  q : Nat
  pa : Nat
  va : Nat
  ext0 : Nat
  e1 : Nat
  e2 : Nat
  str1 : Nat
  str2 : Nat
  /-- Bytes already pushed. -/
  pos : Nat
  due : Nat
  /-- Bytes, by number, that have been read and not yet pushed (R321). -/
  got : List (Nat × Byte) := []
  deriving DecidableEq, Repr

/-- A reduction phase (R275). -/
structure Phase where
  id : Nat
  jid : Nat
  pl : Nat
  stage : Nat
  scope : Nat
  f32 : Bool
  /-- The core of the first arrival. -/
  opener : Nat
  target : Nat
  /-- Where the elements of the target lie. -/
  places : List Place
  copy : Nat
  n : Nat
  parts : List Nat
  arrived : List Nat
  /-- Fronds in arrival order, with the hints of their words. -/
  waiters : List (Nat × Hints)
  due : Nat
  /-- The cycle of the latest arrival (R320). -/
  begun : Nat := 0
  /-- Target elements that have been merged (R319). -/
  merged : List Nat := []
  /-- The clock that its stores bound for other dies carry (R326). -/
  clock : List Nat := []
  deriving DecidableEq, Repr

/-- A page walk (R222, R223): `fault` once it has ended with a fault (R444 kinds). -/
structure Walk where
  id : Nat
  die : Nat
  jid : Nat
  va : Nat
  write : Bool
  fault : Option Nat
  /-- The walk belongs to a fill of this core. -/
  fill : Option Nat
  due : Nat
  deriving DecidableEq, Repr

/-- An entry of a translation store (R220, R221). -/
structure Trans where
  die : Nat
  jid : Nat
  va : Nat
  size : Nat
  pa : Nat
  host : Bool
  wr : Bool
  walk : Bool
  tier : Bool
  fcode : Nat
  spl : Bool
  cnt : Bool
  deriving DecidableEq, Repr

/-! ## Cores and tiles -/

/-- A carrel (R236 to R241, R256, R291). -/
inductive CarrelState where
  | empty
  | filling
  | resident
  deriving DecidableEq, Repr

structure Carrel where
  state : CarrelState
  jid : Nat
  block : Nat
  pa : Nat
  /-- SPL of the page of its block; none when it carries none (R291). -/
  spl : Option Bool
  cnt : Bool
  tier : Bool
  pins : Nat
  /-- Dirty lines 0 to 127. -/
  dirty : List Nat
  /-- Its place in the spent order. -/
  spent : Option Nat
  /-- The cycle in which it became spent last: a fill may take it in a later one (R236, R407). -/
  spentAt : Nat := 0
  deriving DecidableEq, Repr

/-- A waiter of a hold queue (R234): a frond, or a proxy hold for a flight. -/
structure Waiter where
  uid : Nat
  /-- The flight of a proxy hold. -/
  proxy : Option Nat
  placed : Nat
  /-- Frozen cycles that do not count (R132). -/
  frozen : Nat
  deriving DecidableEq, Repr

/-- A hold queue (R234): one block of one job. -/
structure HoldQ where
  jid : Nat
  block : Nat
  waiters : List Waiter
  deriving DecidableEq, Repr

/-- The fill in flight from a core (R238). -/
structure Fill where
  jid : Nat
  block : Nat
  carrel : Nat
  /-- Lines of the block not yet landed. -/
  lines : List Nat
  /-- VA of a granule that failed, or of the block when its translation was aborted (R241). -/
  failed : Option Nat
  /-- The translation has been read. -/
  ready : Bool
  due : Nat
  /-- The cycle of the pick, and the job and block that it evicted (R237). -/
  picked : Nat := 0
  evicted : Option (Nat × Nat) := none
  deriving DecidableEq, Repr

/-- What the model keeps beside the bytes of a deque entry: the forking frond's `ix`, and the stores and
atomics that must be performed before the entry may be taken (R156). -/
structure SporeMeta where
  index : Nat
  ix : Word
  deps : List Nat
  /-- The cycle from which it may be taken: the one after its `fork` (R76, R156, R419). -/
  from_ : Nat := 0
  deriving DecidableEq, Repr

/-- A steal in progress (R79, R80). -/
inductive Steal where
  | idle
  /-- Next victim to read: level 0 to 3 and the victims left at that level. -/
  | trying (level : Nat) (left : List Nat) (due : Nat)
  /-- Top word and entry read from `victim`; the compare-and-swap is on its way. -/
  | swapping (level : Nat) (left : List Nat) (victim tag top : Nat) (due : Nat)
  /-- What a compare-and-swap took, the bits of an entry and its `ix`, is on its way to the thief (R80, R418). -/
  | carrying (bits : Nat) (ix : Word) (due : Nat)
  /-- A full pass found no spore; the next begins at `at_`. -/
  | resting (at_ : Nat)
  deriving DecidableEq, Repr

/-- A core's binding to a stage (R67). -/
structure Bind where
  jid : Nat
  pl : Nat
  stage : Nat
  deriving DecidableEq, Repr

/-- A balancer move of a core (R83, R85). -/
structure Move where
  stage : Nat
  /-- `clk` at which the move takes effect. -/
  at_ : Nat
  began : Bool
  deriving DecidableEq, Repr

/-- A waiting operation of a port (R346, R348). -/
structure PortWait where
  id : Nat
  uid : Nat
  /-- Address of the word, pcid × 2^20 + offset. -/
  word : Nat
  deriving DecidableEq, Repr

/-- An urgent context on a shadow bank (R130 to R133, R448). -/
structure Urgent where
  jid : Nat
  pl : Nat
  stage : Nat
  /-- Swap request cycle t; none while no request has reached the core. -/
  t : Option Nat
  /-- Offsets of the argument copy, and the end, of its local-store areas. -/
  args : Nat
  top : Nat
  begin_ : Nat
  /-- The work items of its range that no frond has taken yet: `lo` up to `hi` (R75). -/
  lo : Nat
  hi : Nat
  deriving DecidableEq, Repr

/-- A compute core. -/
structure Core where
  pcid : Nat
  bind : Option Bind
  /-- Offset of the argument copy, areas of R72. -/
  args : Nat
  carrels : List Carrel
  /-- Offset and length of the hold storage, the deque and the end of the lower areas. -/
  holdOff : Nat
  holdLen : Nat
  dequeOff : Nat
  dequeLen : Nat
  segOff : Nat
  lowEnd : Nat
  /-- The deque words (R74). -/
  top : Nat
  bot : Nat
  tag : Nat
  spores : List SporeMeta
  steal : Steal
  /-- Victim tried last, by level, as a logical core (R79). -/
  lastVictim : List (Option Nat)
  move : Option Move
  holds : List HoldQ
  fill : Option Fill
  /-- The first cycle in which its arbiter may pick again (R236, R237). -/
  pickFrom : Nat := 0
  /-- Requests that found no hold-table entry for a block, in arrival order: the flight, the block, and the place in that
  order, which fronds parked in their slots share (R234). -/
  turned : List (Nat × Nat × Nat) := []
  /-- Waiting operations of the port, in parking order (R346). -/
  waitList : List PortWait
  /-- Forwarding entries (R231): the flights whose replies they forward. -/
  fwd : List Nat
  urgent : Option Urgent
  /-- The main bank is Frozen since this cycle (R131). -/
  frozen : Option Nat
  /-- The latest swap back u (R133). -/
  swapBack : Option Nat
  /-- Feature bits lost in service (R21). -/
  lost : BitVec 4
  /-- Fronds created on it, per job: jid and count (R110 `fid`). -/
  created : List (Nat × Nat)
  /-- Cycle in which the core last placed or started a frond (R76, R121). -/
  placedAt : Option Nat
  /-- Cycle of the last compare-and-swap on its deque (R81). -/
  swapAt : Option Nat
  /-- Quadrant pipes: the cycle from which each is free (R122). -/
  pipes : List Nat
  /-- Owed slots per quadrant, in the order they became owed (R122). -/
  owed : List Nat
  deriving DecidableEq, Repr

/-- What an engine word does after its check point. -/
inductive EngOp where
  | zero (d : Nat)
  /-- `mma`, or `mmas` when `sparse`: accumulator, T of both tiles, NG, KG, the width class in bits, and the
  lines read for A and for B. -/
  | mma (d : Nat) (sparse : Bool) (ta tb ng kg width na nb : Nat)
  | load (d ty : Nat)
  | store (a rnd ty : Nat)
  /-- `msst`: accumulator, RND, TY, the destination's format code, resume count, lines that the buffer holds. -/
  | sst (a rnd ty code resume room : Nat)
  | add (d a kg : Nat)
  /-- `mstat`: its result lands as the flight of the word's own name. -/
  | stat (a : Nat)
  | clear (a : Nat)
  deriving DecidableEq, Repr

/-- A word accepted by an engine and not completed (R282). Its name is also that of the flight that carries its
operand reads, its stores or its result. -/
structure EngWord where
  id : Nat
  uid : Nat
  jid : Nat
  pcid : Nat
  /-- It belongs to the urgent set (R280). -/
  urgent : Bool
  /-- The logical core, for NaN payloads (R293). -/
  cid : Nat
  /-- SEED and `sseed` of the frond at acceptance (R173). -/
  seed : Word
  stream : Word
  hints : Hints
  op : EngOp
  /-- Format entries read at acceptance: A and B tiles, or the target (R285). -/
  fa : BitVec 32
  fb : BitVec 32
  /-- The job's format table as the word read it when it was accepted, for the elements of `mld` and `mst` (R64). -/
  fmts : List (BitVec 32)
  /-- Its check point has been reached. -/
  checked : Bool
  /-- Its accumulator effect is done and its stores are in flight. -/
  stored : Bool
  /-- The elements that it stores: of the view of `mst`, or lines of `msst`. -/
  elems : List Elem
  view : Option (Foot × Nat)
  /-- The least cycle of its effect, once checked (R449). -/
  due : Nat
  deriving DecidableEq, Repr

/-- The state of one set of an engine: accumulators (element (i, j) of `m`n at key 16384·n + 128·i + j,
unlisted +0), counters SAT, INF and NAN of each, and tile masks (R284). -/
structure EngSet where
  acc : SMap (BitVec 32)
  ctr : List (Nat × Nat × Nat)
  masks : List Word
  deriving DecidableEq, Repr

/-- A tile's matrix engine (R279, R280). -/
structure Engine where
  tile : Nat
  owner : Option Nat
  main : EngSet
  /-- The job whose values the main set holds; none when it is cleared (R279). -/
  mainJob : Option Nat
  /-- The engine has passed to another job since, which finds the main set cleared once it is empty of words (R279). -/
  passed : Bool
  /-- The urgent set, and the urgent job that used it last. -/
  urg : EngSet
  urgJob : Option Nat
  queue : List EngWord
  deriving DecidableEq, Repr

/-- An entry of a die's catalogue (R335). -/
structure CatEntry where
  die : Nat
  jid : Nat
  uid : Nat
  fid : Nat
  w : Nat
  foot : Foot
  write : Bool
  scope : Nat
  deriving DecidableEq, Repr

/-- A bind that waits at a catalogue, with the catalogues it has still to reach (R260, R336). -/
structure BindReq where
  uid : Nat
  w : Nat
  desc : BitVec 512
  dies : List Nat
  /-- The cycle in which it reached the first of them (R336). -/
  at_ : Nat
  /-- Hints of the `wbind`, which completes when the bind does. -/
  hints : Hints
  deriving DecidableEq, Repr

/-- An entry of a channel directory (R361): a key with its first port, or both ports once paired. -/
structure DirEntry where
  die : Nat
  jid : Nat
  key : Nat
  uid : Nat
  port : Nat
  deriving DecidableEq, Repr

/-- A `semw` on a waiting list (R366): semaphore index, frond, n, and the hints of its word. -/
structure SemWait where
  index : Nat
  uid : Nat
  n : Nat
  hints : Hints
  deriving DecidableEq, Repr

/-- A job's run of semaphores in a cluster (R365), with counts and waiting lists. -/
structure SemRun where
  cluster : Nat
  jid : Nat
  base : Nat
  size : Nat
  counts : List Nat
  /-- Waiters in order. -/
  waiters : List SemWait
  deriving DecidableEq, Repr

/-! ## Jobs -/

/-- A queue element: its acceptance number, and its bytes where no local store holds them. -/
structure QElem where
  bytes : List Byte
  num : Nat
  deriving DecidableEq, Repr

/-- A segment of a queue (R31): on a core, or in the base die of a sink. A core's segment is a ring of SEGN places in
its local store (R72): `off` is its offset there, and `head` the place of its oldest element. -/
structure Seg where
  pcid : Option Nat
  accepting : Bool
  off : Nat
  head : Nat
  elems : List QElem
  deriving DecidableEq, Repr

/-- A queue (R29 to R32, R87 to R90). -/
structure Queue where
  va : Nat
  esz : Nat
  segn : Nat
  cons : Nat
  prod : Nat
  sva : Nat
  slen : Nat
  closed : Bool
  accepted : Nat
  segs : List Seg
  /-- Bytes that the stream controller has pushed or written. -/
  streamed : Nat
  deriving DecidableEq, Repr

/-- A stage with its effective values (R22, R23, R27). -/
structure Stage where
  snum : Nat
  regs : Nat
  cmin : Nat
  cmax : Nat
  carr : Nat
  holdb : Nat
  deq : Nat
  feat : BitVec 4
  fdom : Nat
  traph : Nat
  supv : Nat
  entry : Nat
  /-- Fed, and the feed port. -/
  fed : Option Nat
  n0 : Nat
  n1 : Nat
  n2 : Nat
  args : List Byte
  /-- REGS, CMIN, CMAX, CARR, HOLDB and DEQ, rounded and before they are clamped (R23, R394). -/
  asked : List Nat
  completed : Bool
  deriving DecidableEq, Repr

structure Pipe where
  stages : List Stage
  queues : List Queue
  bint : Nat
  himark : Nat
  lomark : Nat
  moves : Nat
  /-- BINT, HIMARK, LOMARK and MOVES before they are clamped (R23, R394). -/
  asked : List Nat
  /-- P of R82. -/
  placedAt : Nat
  /-- Intervals ended. -/
  intervals : Nat
  deriving DecidableEq, Repr

/-- A layout record (R36). -/
structure Layout where
  handle : Nat
  bits : BitVec 512
  deriving DecidableEq, Repr

/-- A supervisor message that waits for its slot (R373, R375): slot VA and the 64 bytes but SEQ. -/
structure Msg where
  slot : Nat
  pcid : Nat
  bits : BitVec 512
  deriving DecidableEq, Repr

inductive JobPhase where
  | open_
  /-- Waiting for cores (R67). -/
  | waiting
  | running
  | suspending (image : Nat)
  | suspended (image : Nat)
  | resuming (image : Nat)
  /-- Retirement has begun with this status; none for an ending without a record (R54, R442). -/
  | retiring (status : Option Nat)
  deriving DecidableEq, Repr

/-- A live job (R16). -/
structure Job where
  jid : Nat
  aqi : Nat
  pasid : Nat
  /-- The entry of the interface's PASID table in whose address space it runs (R55). -/
  pent : Nat
  /-- The same for the packet whose CRA takes the job's record: its START, if it has one (R55, R60). -/
  cpent : Nat
  urgent : Bool
  phase : JobPhase
  prio : Nat
  /-- Acceptance order and cycle of the packet that begins it. -/
  order : Nat
  accepted : Nat
  cra : Nat
  tag : Nat
  irq : Bool
  vec : Nat
  seed : Word
  layn : Nat
  layouts : List Layout
  /-- Format table, entries 0 to 15 (R38). -/
  fmts : List (BitVec 32)
  wset : List Nat
  lone : Nat
  /-- LONE before it is clamped (R23, R394). -/
  askedLone : Nat
  supv : Nat
  clamp : Bool
  pipes : List Pipe
  /-- Logical cores in order: pcid (R68). -/
  cores : List Nat
  lsImage : List Byte
  /-- Control words QUANTUM, FERL, FET, HANGK (R394). -/
  quantum : Nat
  ferl : Nat
  fet : Nat
  hangk : Nat
  errors : Nat
  /-- `fst` bits 6:1 of ended fronds (R398). -/
  flt : BitVec 7
  satSum : Nat
  infSum : Nat
  nanSum : Nat
  /-- Work items whose fronds started (R403). -/
  items : Nat
  /-- Last cycle in which a hang condition failed (R387). -/
  progress : Nat
  hangSent : Bool
  /-- Snapshot entries, 256 bits each (R386, R387), and how many were omitted. -/
  snapshot : List (BitVec 256)
  msgs : List Msg
  /-- Messages delivered, by slot VA. -/
  delivered : List (Nat × Nat)
  deriving DecidableEq, Repr

/-! ## The host's side -/

/-- An accepted packet (R51). -/
structure Packet where
  bytes : List Byte
  off : Nat
  pasid : Nat
  at_ : Nat
  order : Nat
  /-- The entry of the PASID table that matched it (R55). -/
  pent : Nat
  /-- The job whose placement, or for a CANCEL whose retirement, it waits for. -/
  job : Option Nat
  deriving DecidableEq, Repr

/-- A PASID table entry (R48). -/
structure PasidEntry where
  root : Nat
  valid : Bool
  nest : Bool
  pasid : Nat
  deriving DecidableEq, Repr

/-- An assignable queue interface (R46 to R53). -/
structure Aqi where
  n : Nat
  en : Bool
  priv : Bool
  urg : Bool
  s2root : Nat
  errBase : Nat
  errHead : Nat
  errTail : Nat
  errVec : Word
  pasids : List PasidEntry
  /-- Vector remap table: VALID and MSIX. -/
  remap : List (Bool × Nat)
  ordinary : List Packet
  ahead : List Packet
  accepted : Nat
  retried : Nat
  refused : Nat
  deriving DecidableEq, Repr

/-- An MSI-X table entry (R45, R66). -/
structure Msix where
  addr : Nat
  data : Nat
  masked : Bool
  pending : Bool
  deriving DecidableEq, Repr

/-- The answer to a request at a notify page (R50). -/
inductive Reply where
  | none
  | accepted
  | retry
  | unsupported
  | completion (bytes : List Byte)
  deriving DecidableEq, Repr

/-- STATE of MSTAT (R439). -/
inductive PartState where
  | bringingUp
  | safe
  | operational
  deriving DecidableEq, Repr

/-- The management block (R439, R440). -/
structure Mgmt where
  dark : Bool
  step : Nat
  fail : Nat
  erased : Bool
  alarm : Bool
  fwok : Bool
  refseq : Bool
  state : PartState
  pkgnum : Nat
  pwr : Nat
  cmd : List Byte
  busy : Bool
  done : Bool
  /-- The response in preparation of a command whose effect has been made. -/
  answer : Option (List Byte)
  rsp : List Byte
  evBase : Nat
  evHead : Nat
  evTail : Nat
  evVec : Word
  evDrop : Nat
  /-- First VA and size of the page of an INVAL in progress (R224). -/
  inval : Option (Nat × Nat)
  /-- The digest of the running image (R442). -/
  image : List Byte
  /-- Pending firmware events per die (R396). -/
  events : List (BitVec 6)
  /-- A job has been placed (R440 SETPKG). -/
  placedAny : Bool
  deriving DecidableEq, Repr

/-- An instruction-cache line of a tile (R92). -/
structure ILine where
  tile : Nat
  jid : Nat
  line : Nat
  bytes : List Byte
  deriving DecidableEq, Repr

/-- An instruction-cache fill in flight (R92): its first line; `due`. -/
structure IFill where
  tile : Nat
  jid : Nat
  line : Nat
  due : Nat
  /-- The 8-byte pieces of the line and the next line that have been read, by VA, each as it was then (R93). -/
  got : List (Nat × Nat) := []
  deriving DecidableEq, Repr

/-- A swap request on its way to a core (R131, R380). -/
structure SwapReq where
  pcid : Nat
  jid : Nat
  deriving DecidableEq, Repr

/-- A `.ls` image, by the RCBVA of its job (log entry 8). -/
structure LsImage where
  rcbva : Nat
  bytes : List Byte
  deriving DecidableEq, Repr

/-- What the model saves for a suspended job beside the bytes of its image in memory (R384). -/
structure Image where
  jid : Nat
  addr : Nat
  cores : List Core
  fronds : List Frond
  ls : List (Nat × Byte)
  empties : List Nat
  /-- The marked granules of `ls`, by address / 64 (R292). -/
  marks : List Nat := []
  fmts : List (Nat × Nat)
  engines : List Engine
  sems : List SemRun
  /-- The job and its flights, phases, `cpyq` operations, entries and binds as they were, for a resume from a checkpoint that is
  not its latest image (R446). -/
  job : Option Job
  flights : List Flight
  phases : List Phase
  copyqs : List CopyQ
  catalogue : List CatEntry
  binds : List BindReq
  directory : List DirEntry
  deriving DecidableEq, Repr

/-- What happens during bring-up (R437): the fuse block and the host link, the four checked steps, the
Narel ports that do not train (die, port) and the matrix engines (by tile) that fail their check. -/
structure BringUp where
  fuseOk : Bool
  linkOk : Bool
  bistOk : Bool
  stacksOk : Bool
  dieLinksOk : Bool
  portsDown : List (Nat × Nat)
  enginesFailed : List Nat
  deriving DecidableEq, Repr

/-- A block of registers of the driver: the management block (R439), the configuration block of an interface
(R46), the MSI-X table of the function, or its configuration space (R45, R66). -/
inductive RegBlock where
  | mgmt
  | aqi (n : Nat)
  | msix
  | config
  deriving DecidableEq, Repr

/-- What an event happens to (95_what_each_step_holds.md; log entry 1). -/
inductive Subject where
  | none
  | bringUp (b : BringUp)
  /-- The tamper (0), voltage (1) or clock (2) detector. -/
  | detector (n : Nat)
  /-- A stack of HBM. -/
  | stack (n : Nat)
  /-- A granule of HBM in which an uncorrectable error is found (R447). -/
  | granule (pa : Nat)
  /-- A granule of local store, at pcid × 2^20 + offset, in which one is found (R292; log entry 105). -/
  | lsGranule (a : Nat)
  /-- Units 1 to 3 of a core that control firmware marks failed in service (R21). -/
  | units (pcid : Nat) (lost : BitVec 4)
  /-- A Narel port of a die. -/
  | narel (die port : Nat)
  /-- A replay of the flit at a Narel port, and whether it has failed (R445). -/
  | replay (die port : Nat) (failed : Bool)
  /-- The last power average. -/
  | watts (n : Nat)
  /-- A DMWr, or with `read` a memory read, at an offset of a notify page (R50). -/
  | notify (aqi off len : Nat) (read : Bool) (pasid : Option Nat) (data : List Byte)
  | posted (aqi off : Nat) (pasid : Option Nat)
  | pasidWrite (aqi off : Nat) (value : Word)
  | register (block : RegBlock) (off : Nat) (value : Word)
  /-- A read of 8 bytes of a block of registers (R5, R6, R46, R439). -/
  | registerRead (block : RegBlock) (off : Nat)
  | aqi (n : Nat)
  /-- The cores, by pcid, that firmware chooses for each stage of each pipeline. -/
  | placement (jid : Nat) (cores : List (List (List Nat)))
  | job (jid : Nat)
  /-- The checkpoint image of a job of another package, which has failed (R446; log entry 68). -/
  | spare (img : Image)
  | core (pcid : Nat)
  /-- A bank of a core: shadow when `urgent`. -/
  | bank (pcid : Nat) (urgent : Bool)
  | pipe (jid pl : Nat)
  | queue (jid pl q : Nat)
  | iline (tile jid line : Nat)
  /-- A walk, a flight, a copy or a reduction phase, by its name. -/
  | object (id : Nat)
  /-- Element `k` of a flight. -/
  | element (id k : Nat)
  | frond (uid : Nat)
  | line (pcid line : Nat)
  /-- The set of an engine that a word uses: urgent or main. -/
  | engine (tile : Nat) (urgent : Bool)
  | engineWord (tile id : Nat)
  | port (uid port : Nat)
  | swap (pcid jid : Nat)
  /-- An access over CXL.mem (R341). -/
  | hostAccess (write : Bool) (addr len : Nat) (data : List Byte)
  deriving DecidableEq, Repr

/-- A completion record on its way to memory (R65, R405). -/
structure RecWrite where
  place : Place
  /-- Its 32 bytes, and those of its pieces 1 to 3 that are still to be written. -/
  bits : Nat
  left : List Nat
  /-- CRA, the interface and PASID of its packet, VEC when its IRQ is 1, TAG and JID (R56, R66). -/
  va : Nat
  aqi : Nat
  pasid : Nat
  vec : Option Nat
  tag : Nat
  jid : Nat
  /-- It ends a packet of its own, rather than a job (R404). -/
  packet : Bool
  deriving DecidableEq, Repr

/-- An event with its subject. -/
structure Occur where
  ev : Instr
  subject : Subject
  deriving DecidableEq, Repr

/-- The whole machine. -/
structure State where
  /-- `clk`. -/
  clk : Nat
  /-- The model's own: choices made so far (log entry 2). -/
  choices : Nat
  /-- The model's own: the next name to give. -/
  fresh : Nat
  /-- The model's own: what the host, the driver, the detectors and the firmware's placement do, in order. -/
  inputs : List Occur
  /-- The model's own: what the event at hand happens to (log entry 1). -/
  subject : Subject
  /-- The model's own: the fronds whose issue chance in this cycle is over. -/
  offered : List Nat
  /-- The model's own: the frond whose word is at issue. -/
  issuing : Option Frond
  mgmt : Mgmt
  aqis : List Aqi
  /-- Error records dropped since the last one written (R53). -/
  errDrops : Nat
  /-- MSI-X Enable and Function Mask of the function's configuration space (R45, R66; log entry 7). -/
  msixOn : Bool
  msixHush : Bool
  msix : SMap Msix
  /-- MSI-X messages sent: table indices, oldest first. -/
  messages : List Nat
  /-- Completion records on their way, oldest first (R405). -/
  records : List RecWrite
  reply : Reply
  hostRead : List Byte
  hdmBase : Nat
  lsImages : List LsImage
  lastJid : Nat
  jobs : List Job
  images : List Image
  swaps : List SwapReq
  fronds : List Frond
  cores : List Core
  engines : List Engine
  /-- Tiles whose engine is disabled in fuses. -/
  fusedOff : List Nat
  /-- Local-store bytes, at pcid × 2^20 + offset. -/
  ls : SMap Byte
  /-- Local-store words whose sync bit is empty: address / 8, rising. -/
  empties : List Nat
  /-- Granules of local store that are marked uncorrectable: address / 64, rising (R292; log entry 105). -/
  lsPoison : List Nat
  /-- Format map (R184): region address / 0x4000 to a nonzero code. -/
  fmtMap : SMap Nat
  /-- HBM bytes, by 52-bit PA. -/
  hbm : SMap Byte
  /-- Host memory bytes. -/
  host : SMap Byte
  /-- Granules marked uncorrectable: PA / 64, rising (R447). -/
  poison : List Nat
  /-- Access counters: PA / 65536 (R227), and pages that have reported. -/
  counters : SMap Nat
  reported : List Nat
  /-- Pages whose counter was last advanced through a leaf with TIER = 1 (R227). -/
  farLeaf : List Nat
  /-- Granules, PA / 64, that were last reached through a leaf with CNT = 1 (R227). -/
  cntLeaf : List Nat
  /-- Thresholds T of the 24 stacks. -/
  thresholds : List Nat
  portsDown : List (Nat × Nat)
  /-- Base dies whose refresh sequencer has taken over (R443). -/
  refresh : List Nat
  /-- The last budget floors and ceilings of each die: die, index, value (R394). -/
  budgets : List (Nat × Nat × Nat)
  tstore : List Trans
  walks : List Walk
  ilines : List ILine
  ifills : List IFill
  flights : List Flight
  copies : List Copy
  copyqs : List CopyQ
  phases : List Phase
  catalogue : List CatEntry
  binds : List BindReq
  directory : List DirEntry
  /-- Local-store words at which a synchronising operation has arrived in this cycle (R347). -/
  arrivals : List Nat
  /-- Flits that an ended frond has sent and that are not delivered: receiving frond, port, flits (R361). -/
  orphans : List (Nat × Nat × List Flit)
  sems : List SemRun
  /-- Vector clocks: nine counters of each die (R326). -/
  clocks : List (List Nat)
  /-- Pacing is on: the last average exceeds the limit (R436). -/
  pacing : Bool
  /-- Failed replays of the flit at a Narel port, at 16 × die + port (R445). -/
  replays : SMap Nat
  /-- The body of the image whose routine table the base dies have loaded (R276, R441). -/
  routines : Option (List Byte)
  deriving DecidableEq, Repr

/-- The reasons for which the machine stops with a fault. -/
inductive Fault where
  /-- Raised by a copy whose PA lies in the range that R216 names as none, which only a layout record (R36)
  can name. Safe: nothing is performed. -/
  | noSuchMemory (pa : Nat)
  deriving DecidableEq, Repr

/-- The reasons for which a step has no meaning. -/
inductive Refusal where
  /-- Raised by an arm of `exec` that has no meaning yet. Safe: nothing is claimed. -/
  | notModelled (mnemonic : String)
  /-- Raised by `exec` for an event that cannot happen in this state, and for a word when no frond is at
  issue. Safe: the machine has no such step there, and `step` never takes it. -/
  | notEnabled
  deriving DecidableEq, Repr

/-- An empty set of engine state (R279). -/
def EngSet.clear : EngSet :=
  { acc := [], ctr := List.replicate 4 (0, 0, 0), masks := List.replicate 8 0 }

/-- An interface after reset (R47). -/
def Aqi.reset (n : Nat) : Aqi :=
  { n := n, en := false, priv := false, urg := false, s2root := 0, errBase := 0, errHead := 0
    errTail := 0, errVec := 0
    pasids := List.replicate 64 { root := 0, valid := false, nest := false, pasid := 0 }
    remap := List.replicate 64 (false, 0), ordinary := [], ahead := []
    accepted := 0, retried := 0, refused := 0 }

/-- The management block after reset (R439): it answers nothing before the host link has trained (R437). -/
def Mgmt.reset : Mgmt :=
  { dark := true, step := 0, fail := 0, erased := false, alarm := false, fwok := false
    refseq := false, state := .bringingUp, pkgnum := 0, pwr := 0, cmd := List.replicate 64 0
    busy := false, done := false, answer := none, rsp := List.replicate 64 0, evBase := 0
    evHead := 0, evTail := 0, evVec := 0, evDrop := 0, inval := none, image := [], events := List.replicate 9 0
    placedAny := false }

/-- The machine right after reset, before power-good's bring-up (R437, R439). -/
def State.reset : State :=
  { clk := 0, choices := 0, fresh := 1, inputs := [], subject := .none, offered := [], issuing := none
    mgmt := Mgmt.reset, aqis := (List.range 8).map Aqi.reset, errDrops := 0, msixOn := false, msixHush := false
    msix := [], messages := [], records := []
    reply := .none, hostRead := [], hdmBase := 0x100000000000, lsImages := [], lastJid := 0
    jobs := [], images := [], swaps := [], fronds := [], cores := [], engines := []
    fusedOff := [], ls := [], empties := [], lsPoison := [], fmtMap := [], hbm := [], host := [], poison := []
    counters := [], reported := [], farLeaf := [], cntLeaf := [], thresholds := List.replicate 24 0, portsDown := []
    refresh := [], budgets := [], tstore := [], walks := [], ilines := [], ifills := []
    flights := [], copies := [], copyqs := [], phases := [], catalogue := [], binds := []
    directory := [], arrivals := [], orphans := [], sems := [], clocks := List.replicate 9 (List.replicate 9 0)
    pacing := false, replays := [], routines := none }

end Sys2Proof.Machine
end

