-- ==== Sys2Proof/Machine/Map.lean ====
section
/-! DEFINITION. Sparse maps and rising sets in their canonical form, and bytes of memory as little-endian
numbers (R4). -/

namespace Sys2Proof.Machine

/-- The value of key `k`; an unlisted key reads as `d`. -/
def mapGet {α : Type} (d : α) (k : Nat) : SMap α → α
  | [] => d
  | e :: m => if e.1 = k then e.2 else mapGet d k m

/-- Entry `k` set to `v`, unless `v` is what an unlisted key reads as. -/
def mapCons {α : Type} [DecidableEq α] (d : α) (k : Nat) (v : α) (m : SMap α) : SMap α :=
  if v = d then m else (k, v) :: m

/-- Key `k` set to `v`; keys stay rising and no entry equals `d`. -/
def mapPut {α : Type} [DecidableEq α] (d : α) (k : Nat) (v : α) : SMap α → SMap α
  | [] => mapCons d k v []
  | e :: m =>
    if k < e.1 then mapCons d k v (e :: m)
    else if k = e.1 then mapCons d k v m
    else e :: mapPut d k v m

/-- The canonical form: keys rise strictly and no entry equals what an unlisted key reads as. -/
abbrev mapWf {α : Type} (d : α) (m : SMap α) : Prop :=
  m.Pairwise (fun x y => x.1 < y.1) ∧ ∀ e ∈ m, e.2 ≠ d

/-- Membership of a rising set. -/
def setHas (k : Nat) (m : List Nat) : Bool := m.contains k

/-- `k` added to a rising set. -/
def setAdd (k : Nat) : List Nat → List Nat
  | [] => [k]
  | x :: m => if k < x then k :: x :: m else if k = x then x :: m else x :: setAdd k m

/-- `k` taken out of a set. -/
def setDel (k : Nat) (m : List Nat) : List Nat := m.filter (· != k)

/-- The canonical form of a set: strictly rising. -/
abbrev setWf (m : List Nat) : Prop := m.Pairwise (· < ·)

/-- `n` bytes at `a`, little-endian. -/
def readNat (m : SMap Byte) (a : Nat) : Nat → Nat
  | 0 => 0
  | n + 1 => (mapGet 0 a m).toNat + 256 * readNat m (a + 1) n

/-- The low `n` bytes of `v` written at `a`, little-endian. -/
def writeNat (m : SMap Byte) (a : Nat) : Nat → Nat → SMap Byte
  | 0, _ => m
  | n + 1, v => writeNat (mapPut 0 a (BitVec.ofNat 8 v) m) (a + 1) n (v / 256)

/-- The number that a list of bytes holds, little-endian. -/
def bytesNat : List Byte → Nat
  | [] => 0
  | b :: bs => b.toNat + 256 * bytesNat bs

/-- The low `n` bytes of `v`, lowest first. -/
def natBytes : Nat → Nat → List Byte
  | 0, _ => []
  | n + 1, v => BitVec.ofNat 8 v :: natBytes n (v / 256)

/-- Element `i` of a list of numbers, 0 past its end. -/
def nth (l : List Nat) (i : Nat) : Nat := l.getD i 0

/-- Element `i` of a list replaced; a list that is too short is unchanged. -/
def setNth {α : Type} (l : List α) (i : Nat) (x : α) : List α := l.set i x

/-- The first element that meets `p` replaced by its image. -/
def updFirst {α : Type} (p : α → Bool) (f : α → α) : List α → List α
  | [] => []
  | x :: xs => if p x then f x :: xs else x :: updFirst p f xs

/-- The list without its first element that meets `p`. -/
def delFirst {α : Type} (p : α → Bool) : List α → List α
  | [] => []
  | x :: xs => if p x then xs else x :: delFirst p xs

/-- The first index at which `p` holds. -/
def findIdx {α : Type} (p : α → Bool) : List α → Option Nat
  | [] => none
  | x :: xs => if p x then some 0 else (findIdx p xs).map (· + 1)

/-- Insertion of `x` into a list ordered by `le`, after the elements that are not above it. -/
def insertBy {α : Type} (le : α → α → Bool) (x : α) : List α → List α
  | [] => [x]
  | y :: ys => if le y x then y :: insertBy le x ys else x :: y :: ys

/-- A stable sort by insertion. -/
def sortBy {α : Type} (le : α → α → Bool) (l : List α) : List α :=
  l.foldl (fun acc x => insertBy le x acc) []

end Sys2Proof.Machine
end

