-- ==== Sys2Proof/Machine/Flags.lean ====
section
/-! DEFINITION. The flags of `fst` bits 6:0 (R128) and the whole register as it reads and is written. -/

namespace Sys2Proof.Machine

/-- HAZ (R127). -/
abbrev flagHAZ : BitVec 7 := 0x01#7
/-- DZ: integer division by zero (R139). -/
abbrev flagDZ : BitVec 7 := 0x02#7
/-- FNV: invalid operation. -/
abbrev flagFNV : BitVec 7 := 0x04#7
/-- FDZ: float division by zero. -/
abbrev flagFDZ : BitVec 7 := 0x08#7
/-- FOF: overflow. -/
abbrev flagFOF : BitVec 7 := 0x10#7
/-- FUF: underflow. -/
abbrev flagFUF : BitVec 7 := 0x20#7
/-- FNX: inexact. -/
abbrev flagFNX : BitVec 7 := 0x40#7

/-- `f` when `b` holds, no flag otherwise. -/
def flagIf (b : Bool) (f : BitVec 7) : BitVec 7 := if b then f else 0

/-- `fst` as it reads (R128). -/
def fstRead (f : Frond) : Word :=
  BitVec.ofNat 64 (f.flags.toNat + 512 * f.rooted.toNat + 1024 * f.urgent.toNat + 2048 * f.hnd.toNat
    + 4096 * f.outs.length + 65536 * f.loops.length)

/-- A write to `fst` clears each W1C bit written as 1 and ignores every other bit (R128). -/
def fstWrite (f : Frond) (x : Word) : Frond := { f with flags := f.flags &&& ~~~(x.setWidth 7) }

/-- Sticky flags set. -/
def raiseFlags (f : Frond) (b : BitVec 7) : Frond := { f with flags := f.flags ||| b }

end Sys2Proof.Machine
end

