-- ==== Sys2Proof/Machine/Geometry.lean ====
section
/-! DEFINITION. Where things are: cores, tiles, clusters and dies by `pcid` (R110), HBM by physical address
(R216), the local-store window (R215), and the idle distances of R243 and R450. -/

namespace Sys2Proof.Machine

/-- Bytes of a local store: 384 KiB (R72, R215). -/
abbrev lsSize : Nat := 0x60000

/-- Bytes of a block of a WALK page (R229). -/
abbrev blockSize : Nat := 0x4000

/-- The start of the global local-store window (R215). -/
abbrev windowBase : Nat := 0x00F0000000000000

/-- The die of a core: `pcid` bits 12:9. A control core of the model has number 8192 + 4 × die + core
(log entry 13). -/
def dieOf (pcid : Nat) : Nat := if pcid < 8192 then pcid / 512 else (pcid - 8192) / 4

/-- The cluster of a core, with its die: `pcid` bits 12:5. The control cores of a die are a cluster of their own, so
that every cluster lies in one die (R7; log entry 13). -/
def clusterOf (pcid : Nat) : Nat := if pcid < 8192 then pcid / 32 else 256 + (pcid - 8192) / 4

/-- The tile of a core, with its cluster and die: `pcid` bits 12:2. -/
def tileOf (pcid : Nat) : Nat := pcid / 4

/-- A `pcid` of a compute core of the package. -/
def isCore (pcid : Nat) : Bool := decide (pcid < 4608)

/-- The die on which a near stack, or the near stack before a far one, sits (R216). -/
def dieOfStack (stack : Nat) : Nat := nth [0, 0, 1, 2, 2, 3, 5, 6, 6, 7, 8, 8] (stack % 12)

/-- The package number of a PA (R216). -/
def pkgOf (pa : Nat) : Nat := pa / 2 ^ 41 % 2048

/-- The stack of a PA: 0 to 11 near, 12 to 23 far, 24 and above none (R216). -/
def stackOf (pa : Nat) : Nat := pa % 2 ^ 41 / 2 ^ 36

/-- A PA names memory (R216). -/
def paExists (pa : Nat) : Bool := decide (stackOf pa < 24)

/-- A PA whose memory lies on a far stack. -/
def isFar (pa : Nat) : Bool := decide (12 ≤ stackOf pa)

/-- A VA inside the range whose bits 55:48 are 0xF0 (R215). -/
def inWindow (va : Nat) : Bool := va / 2 ^ 48 == 0xF0

/-- The window address of offset `off` of core `pcid` (R215). -/
def windowAddr (pcid off : Nat) : Nat := windowBase + pcid * 2 ^ 20 + off

/-- The distance classes of R243. -/
inductive Dist where
  | own
  | cluster
  | die
  | other
  | near
  | far
  | narel
  | host
  deriving DecidableEq, Repr

/-- Half the idle load latency (R243, R450). The manual gives no figure for host memory: the model takes
no lower bound but one cycle (log entry 10). -/
def Dist.half : Dist → Nat
  | .own => 12
  | .cluster => 32
  | .die => 80
  | .other => 160
  | .near => 320
  | .far => 480
  | .narel => 1200
  | .host => 1

/-- The distance from one core to another. -/
def distCore (a b : Nat) : Dist :=
  if a = b then .own
  else if clusterOf a = clusterOf b then .cluster
  else if dieOf a = dieOf b then .die
  else .other

/-- The distance to memory at a PA. -/
def distPa (pkg pa : Nat) : Dist :=
  if pkgOf pa ≠ pkg then .narel else if isFar pa then .far else .near

/-- The die whose base die serves a PA of this package (R216). -/
def diePa (pa : Nat) : Nat := dieOfStack (stackOf pa)

end Sys2Proof.Machine
end

