-- ==== Sys2Proof/Machine/Access.lean ====
section
/-! DEFINITION. Looking up and changing one part of the state: fronds, jobs, pipelines, stages, queues, cores,
engines and flights. -/

namespace Sys2Proof.Machine

/-! ## Fronds -/

/-- A frond by its name, the one at issue included. -/
def findFrond (s : State) (uid : Nat) : Option Frond :=
  match s.issuing with
  | some f => if f.uid = uid then some f else s.fronds.find? (fun x => x.uid == uid)
  | none => s.fronds.find? (fun x => x.uid == uid)

/-- One frond changed by `g`. -/
def updFrond (s : State) (uid : Nat) (g : Frond → Frond) : State :=
  { s with fronds := updFirst (fun x => x.uid == uid) g s.fronds
           issuing := s.issuing.map (fun f => if f.uid = uid then g f else f) }

/-- A frond taken out of the state. -/
def delFrond (s : State) (uid : Nat) : State :=
  { s with fronds := delFirst (fun x => x.uid == uid) s.fronds
           issuing := match s.issuing with
             | some f => if f.uid = uid then none else some f
             | none => none }

/-- The next name, and the state after giving it. -/
def takeFresh (s : State) : Nat × State := (s.fresh, { s with fresh := s.fresh + 1 })

/-! ## Jobs -/

/-- A job by its id. -/
def findJob (s : State) (jid : Nat) : Option Job := s.jobs.find? (fun j => j.jid == jid)

/-- One job changed by `g`. -/
def updJob (s : State) (jid : Nat) (g : Job → Job) : State :=
  { s with jobs := updFirst (fun j => j.jid == jid) g s.jobs }

/-- The stage numbered `snum` of pipeline `pl`. -/
def Job.stage? (j : Job) (pl snum : Nat) : Option Stage :=
  (j.pipes[pl]?).bind (fun p => p.stages.find? (fun x => x.snum == snum))

/-- The stage of a frond. -/
def stageOf (s : State) (f : Frond) : Option Stage := (findJob s f.jid).bind (fun j => j.stage? f.pl f.stage)

/-- Pipeline `pl` of a job changed by `g`. -/
def Job.updPipe (j : Job) (pl : Nat) (g : Pipe → Pipe) : Job :=
  { j with pipes := j.pipes.modify pl g }

/-- Queue `q` of pipeline `pl`. -/
def Job.queue? (j : Job) (pl q : Nat) : Option Queue := (j.pipes[pl]?).bind (fun p => p.queues[q]?)

/-- Queue `q` of pipeline `pl` changed by `g`. -/
def Job.updQueue (j : Job) (pl q : Nat) (g : Queue → Queue) : Job :=
  j.updPipe pl (fun p => { p with queues := p.queues.modify q g })

/-- The end `x` of a queue names stage `snum`; 0xF names a stream controller (R29). -/
def endNames (x snum : Nat) : Bool := x == snum && x != 0xF

/-- The queues of a pipeline, by number, that an end `e` of which is stage `snum` (R29): the ports of a stage. -/
def portQueues (p : Pipe) (snum : Nat) (e : Queue → Nat) : List Nat :=
  ((List.range p.queues.length).filter
    (fun i => match p.queues[i]? with
      | some q => endNames (e q) snum
      | none => false))

/-- The number of the queue on input port `n` of a stage (R29). -/
def inQueue (j : Job) (pl snum n : Nat) : Option Nat :=
  (j.pipes[pl]?).bind (fun p => (portQueues p snum Queue.cons)[n]?)

/-- The number of the queue on output port `n` of a stage (R29). -/
def outQueue (j : Job) (pl snum n : Nat) : Option Nat :=
  (j.pipes[pl]?).bind (fun p => (portQueues p snum Queue.prod)[n]?)

/-- The logical number of a core of a job (R68). -/
def Job.logical (j : Job) (pcid : Nat) : Option Nat := findIdx (fun c => c == pcid) j.cores

/-- The core of a logical number; numbers at or above N wrap (R69). -/
def Job.coreOf (j : Job) (n : Nat) : Option Nat := j.cores[n % j.cores.length]?

/-- `cid` of a frond (R110). -/
def cidOf (s : State) (f : Frond) : Nat :=
  match findJob s f.jid with
  | some j => (j.logical f.pcid).getD 0
  | none => 0

/-- The job runs: its fronds may issue (R67, R383). -/
def Job.runs (j : Job) : Bool := j.phase == .running

/-- The job of a frond runs; firmware's fronds have none (R67, R100, R383). -/
def mayRun (s : State) (f : Frond) : Bool :=
  f.control || ((findJob s f.jid).map Job.runs).getD false

/-- A job that is not retiring (R63). -/
def Job.live (j : Job) : Bool :=
  match j.phase with
  | .retiring _ => false
  | _ => true

/-! ## Cores and engines -/

/-- A core that no job has touched. -/
def Core.fresh (pcid : Nat) : Core :=
  { pcid := pcid, bind := none, args := 0, carrels := [], holdOff := lsSize, holdLen := 0
    dequeOff := lsSize, dequeLen := 0, segOff := lsSize, lowEnd := 0, top := 0, bot := 0, tag := 0
    spores := [], steal := .idle, lastVictim := List.replicate 4 none, move := none, holds := []
    fill := none, waitList := [], fwd := [], urgent := none, frozen := none, swapBack := none
    lost := 0, created := [], placedAt := none, swapAt := none, pipes := List.replicate 4 0, owed := [] }

/-- A core by its `pcid`. -/
def getCore (s : State) (pcid : Nat) : Core :=
  (s.cores.find? (fun c => c.pcid == pcid)).getD (Core.fresh pcid)

/-- A core put into a list that rises by `pcid`. -/
def insCore (c : Core) : List Core → List Core
  | [] => [c]
  | x :: xs =>
    if c.pcid < x.pcid then c :: x :: xs
    else if c.pcid = x.pcid then c :: xs
    else x :: insCore c xs

/-- A core stored in the state. -/
def setCore (s : State) (c : Core) : State := { s with cores := insCore c s.cores }

/-- One core changed by `g`. -/
def updCore (s : State) (pcid : Nat) (g : Core → Core) : State := setCore s (g (getCore s pcid))

/-- A tile's engine that no job owns. -/
def Engine.fresh (tile : Nat) : Engine :=
  { tile := tile, owner := none, main := EngSet.clear, mainJob := none, passed := false, urg := EngSet.clear
    urgJob := none, queue := [] }

/-- The engine of a tile. -/
def getEngine (s : State) (tile : Nat) : Engine :=
  (s.engines.find? (fun e => e.tile == tile)).getD (Engine.fresh tile)

/-- An engine put into a list that rises by tile. -/
def insEngine (e : Engine) : List Engine → List Engine
  | [] => [e]
  | x :: xs =>
    if e.tile < x.tile then e :: x :: xs
    else if e.tile = x.tile then e :: xs
    else x :: insEngine e xs

/-- One engine changed by `g`. -/
def updEngine (s : State) (tile : Nat) (g : Engine → Engine) : State :=
  { s with engines := insEngine (g (getEngine s tile)) s.engines }

/-- The engine is enabled in fuses (R21, R437). -/
def engineOn (s : State) (tile : Nat) : Bool := !s.fusedOff.contains tile

/-- The counters of a set of an engine are added into a job's sums (R401 to R403). -/
def addCounters (s : State) (jid : Nat) (e : EngSet) : State :=
  let cap := fun (x y : Nat) => Nat.min (2 ^ 22 - 1) (x + y)
  updJob s jid (fun j =>
    { j with satSum := cap j.satSum (e.ctr.map (fun c => c.1)).sum
             infSum := cap j.infSum (e.ctr.map (fun c => c.2.1)).sum
             nanSum := cap j.nanSum (e.ctr.map (fun c => c.2.2)).sum })

/-- The feature bits of R21 that a core has for a job. Bit 0 follows R279: the tile's engine is enabled and
owned by the job, or the job is urgent on that core (R280). -/
def featBits (s : State) (pcid jid : Nat) (urgent : Bool) : BitVec 4 :=
  let c := getCore s pcid
  let e := getEngine s (tileOf pcid)
  let m := engineOn s (tileOf pcid) && (urgent || e.owner == some jid) && isCore pcid
  (BitVec.ofNat 4 (14 + m.toNat)) &&& ~~~c.lost

/-! ## Flights -/

/-- A flight by its name. -/
def findFlight (s : State) (id : Nat) : Option Flight := s.flights.find? (fun x => x.id == id)

/-- One flight changed by `g`. -/
def updFlight (s : State) (id : Nat) (g : Flight → Flight) : State :=
  { s with flights := updFirst (fun x => x.id == id) g s.flights }

/-- A flight taken out of the state. -/
def delFlight (s : State) (id : Nat) : State :=
  { s with flights := delFirst (fun x => x.id == id) s.flights }

/-- A frond at a slot of a bank of a core. -/
def inSlot (f : Frond) (pcid slot : Nat) (urgent : Bool) : Bool :=
  f.pcid == pcid && f.urgent == urgent && f.loc == .slot slot

/-- The fronds in slots of a bank of a core. -/
def slotFronds (s : State) (pcid : Nat) (urgent : Bool) : List Frond :=
  s.fronds.filter (fun f => f.pcid == pcid && f.urgent == urgent &&
    match f.loc with
    | .slot _ => true
    | _ => false)

/-- The frond has left its slot. -/
def Frond.slot? (f : Frond) : Option Nat :=
  match f.loc with
  | .slot n => some n
  | _ => none

/-- The main bank of a core is Frozen in cycle `clk`: from the cycle after the swap request to the end of the 32
cycles that follow the swap back (R131, R133). -/
def frozenAt (c : Core) (clk : Nat) : Bool :=
  match c.frozen with
  | none => false
  | some t => decide (t < clk) && !(match c.swapBack with
    | some u => decide (t ≤ u ∧ u + 32 ≤ clk)
    | none => false)

/-- A frond is Frozen (R131). -/
def isFrozen (s : State) (f : Frond) : Bool := !f.urgent && frozenAt (getCore s f.pcid) s.clk

end Sys2Proof.Machine
end

