-- ==== Sys2Proof/Machine/Memory.lean ====
section
/-! DEFINITION. Physical memory: local store, HBM and host memory (R215, R216, R319), the event and error logs
(R53, R439, R444), interrupts (R66), access counters (R227), and page tables (R217 to R220). -/

namespace Sys2Proof.Machine

/-! ## Host memory, logs and interrupts -/

/-- A host physical address lies in the range of the HDM decoder (R45, R217). -/
def inHdm (s : State) (a : Nat) : Bool := decide (s.hdmBase ≤ a ∧ a < s.hdmBase + 0x18000000000)

/-- The PA of a host physical address in the HDM range (R216). -/
def hdmPa (s : State) (a : Nat) : Nat := s.mgmt.pkgnum * 2 ^ 41 + (a - s.hdmBase)

/-- The granule of a PA is marked uncorrectable (R447). -/
def poisoned (s : State) (pa : Nat) : Bool := setHas (pa / 64) s.poison

/-- `n` bytes at a host physical address, none on an uncorrectable error. -/
def readHostPa (s : State) (a n : Nat) : Option Nat :=
  if inHdm s a then
    if poisoned s (hdmPa s a) then none else some (readNat s.hbm (hdmPa s a) n)
  else some (readNat s.host a n)

/-- `n` bytes written at a host physical address. Memory that is marked keeps its bytes (R447). -/
def writeHostPa (s : State) (a n v : Nat) : State :=
  if inHdm s a then
    if poisoned s (hdmPa s a) || poisoned s (hdmPa s a + n - 1) then s
    else { s with hbm := writeNat s.hbm (hdmPa s a) n v }
  else { s with host := writeNat s.host a n v }

/-- An MSI-X table entry as it reads before the driver writes it (log entry 7). -/
def msixZero : Msix := { addr := 0, data := 0, masked := true, pending := false }

/-- The message of an MSI-X table entry is sent; an entry that is masked, by itself or with its function, becomes
pending. A function without MSI-X Enable sends none (R66; log entries 7 and 71). -/
def sendMsix (s : State) (n : Nat) : State :=
  let e := mapGet msixZero n s.msix
  if !s.msixOn then s
  else if e.masked || s.msixHush then { s with msix := mapPut msixZero n { e with pending := true } s.msix }
  else
    { writeHostPa s e.addr 4 e.data with messages := s.messages ++ [n] }

/-- Bit 63 of a vector register enables it; bits 8:0 name the MSI-X entry. -/
def raiseVec (s : State) (v : Word) : State :=
  if v.toNat.testBit 63 then sendMsix s (v.toNat % 512) else s

/-- An entry of the event log: `low` is bytes 4 to 15 and `high` bytes 24 to 31 (R439, R444). -/
def postEvent (s : State) (kind low high : Nat) : State :=
  let m := s.mgmt
  if (m.evHead + 1) % 256 = m.evTail then
    { s with mgmt := { m with evDrop := Nat.min 255 (m.evDrop + 1) } }
  else
    let bits := kind + 2 ^ 24 * m.evDrop + 2 ^ 32 * (low % 2 ^ 96) + 2 ^ 128 * (s.clk % 2 ^ 64)
      + 2 ^ 192 * (high % 2 ^ 64)
    let s := writeHostPa s (m.evBase + 32 * m.evHead) 32 bits
    raiseVec { s with mgmt := { m with evHead := (m.evHead + 1) % 256, evDrop := 0 } } m.evVec

/-- A firmware event becomes pending on a die (R396). -/
def pendFirmware (s : State) (die bit : Nat) : State :=
  let ev := s.mgmt.events.modify die (fun x => x ||| BitVec.ofNat 6 (2 ^ bit))
  { s with mgmt := { s.mgmt with events := ev } }

/-- A firmware event becomes pending on every die. -/
def pendFirmwareAll (s : State) (bit : Nat) : State :=
  { s with mgmt := { s.mgmt with events := s.mgmt.events.map (fun x => x ||| BitVec.ofNat 6 (2 ^ bit)) } }

/-- An error record for interface `n`, in the log of the lowest-numbered privileged interface (R53). `what` is
bytes 8 to 15. -/
def errorRecord (s : State) (code n pasid what jid : Nat) : State :=
  match s.aqis.find? Aqi.priv with
  | none => { s with errDrops := Nat.min 255 (s.errDrops + 1) }
  | some l =>
    if (l.errHead + 1) % 256 = l.errTail then { s with errDrops := Nat.min 255 (s.errDrops + 1) }
    else
      let bits := code + 2 ^ 8 * n + 2 ^ 24 * s.errDrops + 2 ^ 32 * (pasid % 2 ^ 20)
        + 2 ^ 64 * (what % 2 ^ 64) + 2 ^ 128 * (s.clk % 2 ^ 64) + 2 ^ 192 * (jid % 2 ^ 16)
      let s := writeHostPa s (l.errBase + 32 * l.errHead) 32 bits
      let aqis := s.aqis.modify l.n (fun a => { a with errHead := (a.errHead + 1) % 256 })
      pendFirmwareAll (raiseVec { s with aqis := aqis, errDrops := 0 } l.errVec) 3

/-! ## Access counters -/

/-- The report of a page whose counter has reached its stack's threshold and has not reported (R227). -/
def reportPage (s : State) (pg : Nat) : State :=
  let n := mapGet 0 pg s.counters
  let t := nth s.thresholds (stackOf (pg * 65536))
  if t ≠ 0 ∧ t ≤ n ∧ setHas pg s.reported = false then
    pendFirmwareAll (postEvent { s with reported := setAdd pg s.reported } 1
      (n + 2 ^ 32 * (pg * 65536)) (setHas pg s.farLeaf).toNat) 3
  else s

/-- The granules that `n` bytes from a PA touch. -/
def granulesOf (pa n : Nat) : List Nat :=
  if n = 0 then [] else (List.range ((pa + n - 1) / 64 - pa / 64 + 1)).map (fun i => pa / 64 + i)

/-- `n` bytes at a PA have been reached through a leaf: its CNT is kept for accesses without one (R227). -/
def noteLeaf (s : State) (pa n : Nat) (cnt : Bool) : State :=
  let g := granulesOf pa n
  { s with cntLeaf := if cnt then g.foldl (fun m x => setAdd x m) s.cntLeaf
                      else s.cntLeaf.filter (fun x => !g.contains x) }

/-- `n` added to the access counter of a page of a local PA, with the report of R227; `tier` is TIER of the
leaf. -/
def countAccess (s : State) (pa n tier : Nat) : State :=
  if pkgOf pa ≠ s.mgmt.pkgnum then s
  else
    let pg := pa / 65536
    let old := mapGet 0 pg s.counters
    let new := Nat.min 0xFFFF (old + n)
    let far := if tier = 0 then setDel pg s.farLeaf else setAdd pg s.farLeaf
    reportPage { s with counters := mapPut 0 pg new s.counters, farLeaf := far } pg

/-- A device access of `n` bytes at a PA that goes through no leaf (a copy) counts each granule that was last reached
through a leaf with CNT = 1 (R227). -/
def countBare (s : State) (pa n : Nat) : State :=
  (granulesOf pa n).foldl (fun s g =>
    if s.cntLeaf.contains g then countAccess s (64 * g) 1 (setHas (64 * g / 65536) s.farLeaf).toNat else s) s

/-! ## Blocks and their home -/

/-- The walk-core set of a job is not empty (R229). -/
def Job.walks (j : Job) : Bool := !j.wset.isEmpty && !j.cores.isEmpty

/-- The home core of a block (R229, R69). -/
def homeCore (j : Job) (block : Nat) : Option Nat :=
  (j.wset[block % j.wset.length]?).bind j.coreOf

/-- The offset of carrel `c` (R72). -/
def carrelOff (c : Nat) : Nat := lsSize - (c + 1) * blockSize

/-- The carrel of a core that holds a block in the given state. -/
def findCarrel (c : Core) (st : CarrelState) (jid block : Nat) : Option Nat :=
  findIdx (fun k => k.state == st && k.jid == jid && k.block == block) c.carrels

/-- The home core of a block and the carrel in which it is resident. -/
def residentAt (s : State) (jid block : Nat) : Option (Nat × Nat) :=
  (findJob s jid).bind (fun j => (homeCore j block).bind (fun p =>
    (findCarrel (getCore s p) .resident jid block).map (fun k => (p, k))))

/-- The home core of a block and the carrel that a fill in flight brings it to, when the line of byte `off` has landed
there (R225, R230). -/
def landedAt (s : State) (jid block off : Nat) : Option (Nat × Nat) :=
  (findJob s jid).bind (fun j => (homeCore j block).bind (fun p =>
    match (getCore s p).fill with
    | some x =>
      if x.jid == jid && x.block == block && x.ready && x.failed.isNone && !x.lines.contains (off / 128) then
        some (p, x.carrel)
      else none
    | none => none))

/-- A fill of a block is in flight at its home. -/
def fillOf (s : State) (jid block : Nat) : Bool :=
  match (findJob s jid).bind (fun j => homeCore j block) with
  | some p =>
    match (getCore s p).fill with
    | some x => x.jid == jid && x.block == block
    | none => false
  | none => false

/-- A block was evicted by a pick of its home core in this cycle: a touch of it that comes in the same cycle would have come
first (R237). -/
def goneNow (s : State) (jid block : Nat) : Bool :=
  match (findJob s jid).bind (fun j => homeCore j block) with
  | some p =>
    match (getCore s p).fill with
    | some x => x.picked == s.clk && x.evicted == some (jid, block)
    | none => false
  | none => false

/-- Where an access to a place is performed now: a block that is resident, or whose line has landed, lies in its
carrel (R230, R319); an absent one lies in memory. -/
def resolve (s : State) : Place → Place
  | .walk jid block off pa =>
    match residentAt s jid block, landedAt s jid block off with
    | some (p, k), _ => .ls (p * 2 ^ 20 + carrelOff k + off)
    | none, some (p, k) => .ls (p * 2 ^ 20 + carrelOff k + off)
    | none, none => .hbm (pa + off)
  | p => p

/-- The core at whose port a place lies; none for memory and host memory. -/
def portOf (s : State) (p : Place) : Option Nat :=
  match p with
  | .ls a => some (a / 2 ^ 20)
  | .walk jid block _ _ => (findJob s jid).bind (fun j => homeCore j block)
  | _ => none

/-- The distance from a core to the home of a place (R243, R319). -/
def distPlace (s : State) (pcid : Nat) (p : Place) : Dist :=
  match p with
  | .ls a => distCore pcid (a / 2 ^ 20)
  | .hbm pa => distPa s.mgmt.pkgnum pa
  | .host _ => .host
  | .walk jid block _ pa =>
    match (findJob s jid).bind (fun j => homeCore j block) with
    | some h => distCore pcid h
    | none => distPa s.mgmt.pkgnum pa

/-- The die of the home of a place of this package (R326); none for other packages and the host. -/
def diePlace (s : State) (p : Place) : Option Nat :=
  match p with
  | .ls a => some (dieOf (a / 2 ^ 20))
  | .hbm pa => if pkgOf pa = s.mgmt.pkgnum then some (diePa pa) else none
  | .host _ => none
  | .walk jid block _ pa =>
    match (findJob s jid).bind (fun j => homeCore j block) with
    | some h => some (dieOf h)
    | none => if pkgOf pa = s.mgmt.pkgnum then some (diePa pa) else none

/-- The address by which an access to a place is known beyond its word: a local-store byte has its window address, whatever
form named it (R215, R254, R333). -/
def vaOf (p : Place) (a : Nat) : Nat :=
  match p with
  | .ls x => windowBase + x
  | _ => a

/-- Two places of `n` and `m` bytes share a byte. -/
def overlap (p : Place) (n : Nat) (q : Place) (m : Nat) : Bool :=
  match p, q with
  | .ls a, .ls b => decide (a < b + m ∧ b < a + n)
  | .hbm a, .hbm b => decide (a < b + m ∧ b < a + n)
  | .host a, .host b => decide (a < b + m ∧ b < a + n)
  | .walk j k a _, .walk j' k' b _ => j == j' && k == k' && decide (a < b + m ∧ b < a + n)
  | _, _ => false

/-! ## Bytes of a place -/

/-- Some granule that `n` bytes of local store touch is marked (R292). -/
def lsMarked (s : State) (a n : Nat) : Bool := (granulesOf a n).any (fun g => setHas g s.lsPoison)

/-- The granules of local store that `n` bytes hold whole are marked no longer: one operation has written them (R447; log
entry 105). -/
def lsWhole (s : State) (a n : Nat) : State :=
  { s with lsPoison := s.lsPoison.filter (fun g => !decide (a ≤ 64 * g ∧ 64 * g + 64 ≤ a + n)) }

/-- A granule of memory that `n` bytes at a place touch is marked, so that a write of a part of it is dropped (R250, R447).
Local store is written without being read. -/
def markedIn (s : State) (p : Place) (n : Nat) : Bool :=
  match p with
  | .hbm pa => poisoned s pa || poisoned s (pa + n - 1)
  | _ => false

/-- `n` bytes at a resolved place; none on an uncorrectable error. -/
def readPlace (s : State) (p : Place) (n : Nat) : Option Nat :=
  match p with
  | .ls a => if lsMarked s a n then none else some (readNat s.ls a n)
  | .hbm pa => if markedIn s (.hbm pa) n then none else some (readNat s.hbm pa n)
  | .host a => some (readNat s.host a n)
  | .walk _ _ off pa => if markedIn s (.hbm (pa + off)) n then none else some (readNat s.hbm (pa + off) n)

/-- The line of a carrel that a store to a local-store address dirties (R240). -/
def dirtyLine (s : State) (a : Nat) : State :=
  let p := a / 2 ^ 20
  let off := a % 2 ^ 20
  let c := getCore s p
  let k := (lsSize - 1 - off) / blockSize
  match c.carrels[k]? with
  | some x =>
    if off < lsSize ∧ x.state ≠ .empty then
      let x := { x with dirty := setAdd ((off - carrelOff k) / 128) x.dirty }
      setCore s { c with carrels := c.carrels.set k x }
    else s
  | none => s

/-- `n` bytes written at a resolved place. -/
def writePlace (s : State) (p : Place) (n v : Nat) : State :=
  match p with
  | .ls a => dirtyLine { s with ls := writeNat s.ls a n v } a
  | .hbm pa => { s with hbm := writeNat s.hbm pa n v }
  | .host a => { s with host := writeNat s.host a n v }
  | .walk _ _ off pa => { s with hbm := writeNat s.hbm (pa + off) n v }

/-- The format code of a local-store address (R184). -/
def regionCode (s : State) (a : Nat) : Nat := mapGet 0 (a / blockSize) s.fmtMap

/-- The format code of the region of a local-store address set (R185). -/
def setRegion (s : State) (a code : Nat) : State := { s with fmtMap := mapPut 0 (a / blockSize) code s.fmtMap }

/-! ## Page tables -/

/-- The attributes of a page (R218, R220). -/
structure Leaf where
  pa : Nat
  size : Nat
  host : Bool
  wr : Bool
  walk : Bool
  tier : Bool
  fcode : Nat
  spl : Bool
  cnt : Bool
  deriving DecidableEq, Repr

/-- The levels of the tree (R217): level, low VA bit, number of VA bits, alignment of the table. -/
def tableLevels : List (Nat × Nat × Nat × Nat) :=
  [(0, 48, 8, 2048), (1, 39, 9, 4096), (2, 30, 9, 4096), (3, 21, 9, 4096), (4, 16, 5, 256)]

/-- One walk through the levels (R217 to R219). `get` reads the 8 bytes at a table address, with a fault kind
of R444 on failure; `own` holds when a leaf's PA is a PA of R216, and `attr` when its attributes apply (R55). -/
def walkLevels (get : Nat → Except Nat Nat) (own attr : Bool) (va : Nat) :
    List (Nat × Nat × Nat × Nat) → Nat → Except Nat Leaf
  | [], _ => .error 2
  | (level, lo, n, _) :: rest, addr => do
    let e ← get (addr + 8 * Nat.field va lo n)
    if e % 2 = 0 then .error 0
    else if e.testBit 1 then
      let pa := Nat.field e 16 36 * 65536
      let host := e.testBit 7
      let size := 2 ^ lo
      if level ≤ 1 ∨ Nat.field e 52 12 ≠ 0 ∨ Nat.field e 8 4 ≠ 0 ∨ pa % size ≠ 0
          ∨ (own ∧ !host ∧ !paExists pa)
          ∨ (attr ∧ host ∧ (e.testBit 3 ∨ e.testBit 4 ∨ e.testBit 5)) then .error 2
      else
        .ok { pa := pa, size := size, host := host, wr := e.testBit 2, walk := e.testBit 3
              tier := e.testBit 4, fcode := Nat.field e 12 4, spl := e.testBit 6, cnt := e.testBit 5 }
    else
      let next := Nat.field e 8 44 * 256
      match rest with
      | [] => .error 2
      | (_, _, _, align) :: _ =>
        if Nat.field e 52 12 ≠ 0 ∨ Nat.field e 2 6 ≠ 0 ∨ next % align ≠ 0 then .error 2
        else walkLevels get own attr va rest next

/-- Eight bytes of a table at a host physical address (R217). -/
def getHostTable (s : State) (a : Nat) : Except Nat Nat :=
  match readHostPa s a 8 with
  | some x => .ok x
  | none => .error 3

/-- The stage-2 leaf of a guest physical address (R55, R217). Its WALK, tier and format attributes are ignored. -/
def stage2 (s : State) (s2root gpa : Nat) : Except Nat Leaf :=
  if s2root % 2048 ≠ 0 then .error 2
  else walkLevels (getHostTable s) true false gpa tableLevels s2root

/-- Eight bytes of a stage-1 table at a guest physical address (R217). -/
def getGuestTable (s : State) (s2root gpa : Nat) : Except Nat Nat := do
  let l ← stage2 s s2root gpa
  let a := l.pa + gpa % l.size
  if l.host then getHostTable s a
  else if poisoned s a then .error 3
  else .ok (readNat s.hbm a 8)

/-- The translation of a VA by the tables of an address space (R217 to R220), with the fault kind of R444. -/
def translateIn (s : State) (root : Nat) (nest : Bool) (s2root va : Nat) (write : Bool) : Except Nat Leaf := do
  if root % 2048 ≠ 0 then .error 2
  else if nest then
    let l1 ← walkLevels (getGuestTable s s2root) false true va tableLevels root
    let l2 ← stage2 s s2root (l1.pa + va % l1.size)
    let size := Nat.min l1.size l2.size
    let pa := l2.pa + (l1.pa + va % l1.size) % l2.size
    if l2.host ∧ (l1.walk ∨ l1.cnt ∨ l1.tier) then .error 2
    else if write ∧ (!l1.wr ∨ !l2.wr) then .error 1
    else
      .ok { pa := pa - va % size, size := size, host := l2.host, wr := l1.wr && l2.wr, walk := l1.walk
            tier := l1.tier, fcode := l1.fcode, spl := l1.spl, cnt := l1.cnt }
  else
    let l ← walkLevels (getHostTable s) true true va tableLevels root
    if write ∧ !l.wr then .error 1 else .ok l

/-- The size of the page that a leaf maps at a VA, present or not; 64 KiB where the tables do not reach one. -/
def leafSize (get : Nat → Except Nat Nat) (va : Nat) : List (Nat × Nat × Nat × Nat) → Nat → Nat
  | [], _ => 65536
  | (level, lo, n, _) :: rest, addr =>
    match get (addr + 8 * Nat.field va lo n) with
    | .error _ => 65536
    | .ok e =>
      if e.testBit 1 then (if level ≤ 1 then 65536 else 2 ^ lo)
      else if e % 2 = 0 then 65536
      else leafSize get va rest (Nat.field e 8 44 * 256)

/-- An entry of a PASID table holds a PASID. -/
def entryHolds (pasid : Nat) (e : PasidEntry) : Bool := e.valid && e.pasid == pasid

/-- The entry of an interface that matches a PASID: the lowest-numbered VALID one (R55). -/
def pasidEntry (a : Aqi) (pasid : Nat) : Option Nat := findIdx (entryHolds pasid) a.pasids

/-- An address space: an interface, its PASID, and the entry that matched (R55). -/
structure Space where
  aqi : Nat
  pasid : Nat
  pent : Nat
  deriving DecidableEq, Repr

/-- The address space of a job. -/
def Job.space (j : Job) : Space := { aqi := j.aqi, pasid := j.pasid, pent := j.pent }

/-- The address space in which the record of a job is written (R55, R60). -/
def Job.recordSpace (j : Job) : Space := { aqi := j.aqi, pasid := j.pasid, pent := j.cpent }

/-- The size of the page at a VA of an address space: that of its leaf, and with two stages the smaller one
(R220). A leaf whose P the driver has cleared keeps its size (R224). -/
def pageSize (s : State) (x : Space) (va : Nat) : Nat :=
  match (s.aqis[x.aqi]?).bind (fun a => (a.pasids[x.pent]?).map (fun e => (a, e))) with
  | none => 65536
  | some (a, e) =>
    if e.nest then
      let size := leafSize (getGuestTable s a.s2root) va tableLevels e.root
      match walkLevels (getGuestTable s a.s2root) false true va tableLevels e.root with
      | .ok l => Nat.min size (leafSize (getHostTable s) (l.pa + va % l.size) tableLevels a.s2root)
      | .error _ => size
    else leafSize (getHostTable s) va tableLevels e.root

/-- The translation of a VA in an address space (R55). The local-store window has none (R215). -/
def translatePasid (s : State) (x : Space) (va : Nat) (write : Bool) : Except Nat Leaf :=
  match s.aqis[x.aqi]? with
  | none => .error 0
  | some a =>
    match a.pasids[x.pent]? with
    | none => .error 0
    | some e =>
      if inWindow va then .error 0
      else if entryHolds x.pasid e then translateIn s e.root e.nest a.s2root va write else .error 0

/-- A device access of `n` bytes at a PA through a leaf is counted when its CNT is 1, and leaves that CNT for the granules
it touches (R227). -/
def countLeaf (s : State) (pa n : Nat) (l : Leaf) : State :=
  let s := noteLeaf s pa n l.cnt
  if l.cnt then countAccess s pa (granulesOf pa n).length l.tier.toNat else s

/-- `n` bytes at a VA that lie in one page and one granule, read through the tables: the state, and the bytes as a number.
A marked granule cannot be read, so that an intake has status XLATE (R59, R447; log entry 94, DESIGN CHOICE). -/
def readVaIn (s : State) (x : Space) (va n : Nat) : State × Option Nat :=
  match translatePasid s x va false with
  | .error _ => (s, none)
  | .ok l =>
    let a := l.pa + va % l.size
    if l.host then (s, readHostPa s a n)
    else
      (countLeaf s a n l,
        if poisoned s a || poisoned s (a + n - 1) then none else some (readNat s.hbm a n))

/-- The pieces of `n` bytes from an address on that lie in one granule each: the first byte, and how many. -/
def granulePieces (a n : Nat) : List (Nat × Nat) :=
  if n = 0 then []
  else (List.range ((a + n - 1) / 64 - a / 64 + 1)).map (fun i =>
    let lo := Nat.max a (64 * (a / 64 + i))
    (lo, Nat.min (a + n) (64 * (a / 64 + i) + 64) - lo))

/-- Pieces of an address space read in order, up to the first that cannot be read. -/
def readPieces (x : Space) : List (Nat × Nat) → State → State × Option (List Byte)
  | [], s => (s, some [])
  | p :: ps, s =>
    if 2 ^ 56 ≤ p.1 then (s, none)
    else
      match readVaIn s x p.1 p.2 with
      | (s, none) => (s, none)
      | (s, some v) =>
        let r := readPieces x ps s
        (r.1, r.2.map (fun bs => natBytes p.2 v ++ bs))

/-- `n` bytes at a VA, read granule by granule through the tables; none when one cannot be translated (R59). -/
def readVaBytes (s : State) (x : Space) (va n : Nat) : State × Option (List Byte) := readPieces x (granulePieces va n) s

end Sys2Proof.Machine
end

