-- ==== Sys2Proof/Machine/Ops.lean ====
section
/-! DEFINITION. The operations that instructions and events share: traps and halts (R369 to R375), the return
from a handler (R390), the loop-end test (R153), the completion of a word, parks and releases (R120, R121),
claims and spent carrels (R235, R240), and the monad in which the body of a word runs. -/

namespace Sys2Proof.Machine

/-! ## Trap causes (R369) -/

abbrev causeILLEGAL : Nat := 0x01
abbrev causeOPERAND : Nat := 0x02
abbrev causeALIGN : Nat := 0x03
abbrev causeFEATURE : Nat := 0x04
abbrev causePRIV : Nat := 0x05
abbrev causeVIEWBOUND : Nat := 0x06
abbrev causeLOOPTRIP : Nat := 0x07
abbrev causeSPARSELINE : Nat := 0x08
abbrev causeOVERRUN : Nat := 0x09
abbrev causeDATAFAULT : Nat := 0x0A
abbrev causeXLATE : Nat := 0x0B
abbrev causeHANDLE : Nat := 0x0C
abbrev causeFELIMIT : Nat := 0x0D
abbrev causeQCLOSED : Nat := 0x0E
abbrev causeHANG : Nat := 0x0F
abbrev causeSTOREERR : Nat := 0x10
abbrev causeUSER : Nat := 0x11
abbrev causeCHANNEL : Nat := 0x12
abbrev causeSHIPERR : Nat := 0x13

/-- A cause that the table of R369 gives to the handler. -/
def handlerCause (code : Nat) : Bool := code != causeILLEGAL && code != causeFEATURE && code != causeHANG

/-- `einfo` of OPERAND (R112). -/
def operandInfo (reason pos value : Nat) : Nat := reason * 2 ^ 20 + pos * 2 ^ 16 + value % 512

/-! ## Contexts of a job on a core, and supervisors -/

/-- A core holds a binding or an urgent context of a job (R215). -/
def holdsContext (s : State) (pcid jid : Nat) : Bool :=
  let c := getCore s pcid
  (match c.bind with
    | some b => b.jid == jid
    | none => false) ||
  (match c.urgent with
    | some u => u.jid == jid
    | none => false)

/-- A window address that an access of a job may use: its core and offset (R215). -/
def windowOk (s : State) (jid va : Nat) : Option (Nat × Nat) :=
  if va < windowBase ∨ windowBase + 2 ^ 33 ≤ va then none
  else
    let p := (va - windowBase) / 2 ^ 20
    let o := va % 2 ^ 20
    if o < lsSize ∧ p / 512 < 9 ∧ holdsContext s p jid then some (p, o) else none

/-- The message slot of a user supervisor; none when control firmware is the supervisor (R373). -/
def supervisorSlot (s : State) (jid supv : Nat) : Option Nat :=
  if supv = 0 then none else (windowOk s jid supv).map (fun _ => supv)

/-- The message slot of the supervisor of a frond. -/
def slotOf (s : State) (f : Frond) : Option Nat :=
  match stageOf s f with
  | some g => supervisorSlot s f.jid g.supv
  | none => none

/-- A supervisor message about a frond, SEQ excepted (R375). -/
def messageBits (f : Frond) (kind cause info epc word : Nat) (nest : Bool) : BitVec 512 :=
  BitVec.ofNat 512 (kind + 2 ^ 8 * cause + 2 ^ 16 * f.jid + 2 ^ 64 * f.fid + 2 ^ 128 * (epc % 2 ^ 64)
    + 2 ^ 192 * (info % 2 ^ 64) + 2 ^ 256 * (word % 2 ^ 96) + 2 ^ 384 * f.pcid + 2 ^ 397 * f.rooted.toNat
    + 2 ^ 398 * nest.toNat + 2 ^ 399 * f.urgent.toNat + 2 ^ 400 * f.stage)

/-- A message on its way to a user supervisor, or to the firmware of the frond's die (R373, R396). -/
def sendMessage (s : State) (f : Frond) (bits : BitVec 512) : State :=
  match slotOf s f with
  | some slot =>
    let m : Msg := { slot := slot, pcid := (slot - windowBase) / 2 ^ 20, bits := bits }
    updJob s f.jid (fun j => { j with msgs := j.msgs ++ [m] })
  | none => pendFirmware s (dieOf f.pcid) 1

/-! ## Taking a cause -/

/-- `epc`, `ecause` and `einfo` set (R371). -/
def setTrapRegs (f : Frond) (code info epc : Nat) : Frond :=
  { f with epc := BitVec.ofNat 64 epc, ecause := BitVec.ofNat 64 code, einfo := BitVec.ofNat 64 info }

/-- The PC that an address gives: its bits 55:2 (R95; log entry 88, DESIGN CHOICE, for a TRAPH that no check refuses). -/
def pcOf (a : Nat) : Nat := a % 2 ^ 56 / 4 * 4

/-- The frond enters its handler at `traph` (R371). -/
def enterHandler (clk : Nat) (f : Frond) (traph code info epc : Nat) : Frond :=
  { setTrapRegs f code info epc with
      hnd := true, entryDepth := f.loops.length, pc := pcOf traph, wait := .run, notBefore := clk + 1 }

/-- The frond halts (R374). With HND = 1 the three trap registers keep their values. -/
def haltFrond (f : Frond) (code info epc word : Nat) : Frond :=
  let f' := if f.hnd then f else setTrapRegs f code info epc
  { f' with pc := epc, wait := .halted
            halt := some { cause := code, info := info, pc := epc, word := word } }

/-- The PC of the handler of a frond: TRAPH of its stage, 0 for none (R371). -/
def traphOf (s : State) (f : Frond) : Nat :=
  match stageOf s f with
  | some g => g.traph
  | none => 0

/-- A cause is taken at a frond: it enters its handler, goes to control firmware, or halts with a message
(R115, R371, R374, R377). `epc` is the PC saved and `word` the word as fetched. -/
def takeCause (s : State) (f : Frond) (code info epc word : Nat) : State × Frond :=
  if code = causeFEATURE ∧ f.hnd = false then
    (pendFirmware s (dieOf f.pcid) 1, { f with wait := .feature info })
  else if handlerCause code ∧ f.hnd = false ∧ traphOf s f ≠ 0 then
    (s, enterHandler s.clk f (traphOf s f) code info epc)
  else
    (sendMessage s f (messageBits f 0 code info epc word f.hnd), haltFrond f code info epc word)

/-- Return from a handler (R390): the loop levels above the entry depth are discarded, HND is cleared and the
PC is `epc`; or the trap that the return raises. -/
def returnFromHandler (f : Frond) : Except Cause Frond :=
  if f.hnd = false then .error { code := causeOPERAND, info := operandInfo 4 0xA 0 }
  else if f.epc.toNat % 4 ≠ 0 then .error { code := causeALIGN, info := f.epc.toNat }
  else .ok { f with hnd := false, loops := f.loops.take f.entryDepth, pc := f.epc.toNat % 2 ^ 56 }

/-! ## Errors of a job (R398) -/

/-- `n` added to the error count of a job. -/
def addErrors (s : State) (jid n : Nat) : State :=
  updJob s jid (fun j => { j with errors := j.errors + n })

/-! ## Claims and spent carrels (R235, R240) -/

/-- A frond's context lies on a core, in a slot or on its ready list. -/
def onCore (f : Frond) (pcid : Nat) : Bool :=
  f.pcid == pcid && match f.loc with
    | .slot _ => true
    | .ready => true
    | _ => false

/-- A frond of a core holds a claim on carrel `k`. -/
def claimed (s : State) (pcid k : Nat) : Bool :=
  s.fronds.any (fun f => onCore f pcid && f.claims.contains k) ||
  (match s.issuing with
    | some f => onCore f pcid && f.claims.contains k
    | none => false)

/-- A core has a hold queue of a block. -/
def hasQueue (c : Core) (jid block : Nat) : Bool := c.holds.any (fun q => q.jid == jid && q.block == block)

/-- Whether carrel `k` of a core is spent now. -/
def spentNow (s : State) (c : Core) (k : Nat) (x : Carrel) : Bool :=
  x.state == .resident && x.pins == 0 && !hasQueue c x.jid x.block && !claimed s c.pcid k

/-- The spent order of a core brought up to date. -/
def refreshSpent (s : State) (pcid : Nat) : State :=
  let c := getCore s pcid
  if c.carrels.isEmpty then s
  else
    let ks := c.carrels.zipIdx
    let upd := ks.foldl (fun (acc : List Carrel × Nat) (e : Carrel × Nat) =>
      let x := e.1
      match spentNow s c e.2 x, x.spent with
      | true, none => (acc.1 ++ [{ x with spent := some acc.2, spentAt := s.clk }], acc.2 + 1)
      | true, some _ => (acc.1 ++ [x], acc.2)
      | false, _ => (acc.1 ++ [{ x with spent := none }], acc.2)) ([], s.fresh)
    setCore { s with fresh := upd.2 } { c with carrels := upd.1 }

/-- Carrel `k` of a core is the one that a pick would evict: none is empty, and it is longest spent (R236). -/
def nextEvicted (c : Core) (k : Nat) : Bool :=
  match c.carrels[k]?.bind (fun x => x.spent) with
  | some n => c.carrels.all (fun x => x.state != .empty && decide (n ≤ x.spent.getD n))
  | none => false

/-- Carrel `k` of a core is touched: a spent one leaves its place in the spent order (R240), and a pick that would have
evicted it is made again from the next cycle (R237). -/
def touchCarrel (s : State) (pcid k : Nat) : State :=
  let s := updCore s pcid (fun c =>
    { c with carrels := c.carrels.modify k (fun x => { x with spent := none })
             pickFrom := if nextEvicted c k then s.clk + 1 else c.pickFrom })
  refreshSpent s pcid

/-! ## Parks and releases (R120, R121) -/

/-- Records in use in the hold storage of a core (R234). -/
def holdsUsed (s : State) (pcid : Nat) : Nat :=
  (s.fronds.filter (fun f => f.pcid == pcid && f.loc == .hold)).length

/-- A loop level as its 128 bits (R134). -/
def levelBits (l : Level) : Nat :=
  l.while_.toNat + l.count * 2 + l.pass * 2 ^ 22 + l.maxt * 2 ^ 42 + l.blen * 2 ^ 62 + l.start / 4 * 2 ^ 74

/-- Bit `n` of OMASK: `g`n has an outstanding result (R233). -/
def outBit (f : Frond) (n : Nat) : Bool :=
  f.outs.any (fun o => match o.dest with
    | .g m => m == n
    | .v m => m == n / 8
    | _ => false)

/-- Bit `n` of the predicates that have an outstanding result (QMASK of R233). -/
def outPredBit (f : Frond) (n : Nat) : Bool := f.outs.any (fun o => o.dest == .q n)

/-- The 2,048 bits of a hold record (R233). -/
def holdRecord (f : Frond) (reason obj : Nat) : Nat :=
  let bits := fun (b : Nat → Bool) (n : Nat) => ((List.range n).map (fun i => (b i).toNat * 2 ^ i)).sum
  obj % 2 ^ 48 + reason * 2 ^ 51 + f.regs / 8 * 2 ^ 55 + f.stage * 2 ^ 59
    + bits (outPredBit f) 16 / 2 * 2 ^ 63 + bits (outBit f) 16 * 2 ^ 78 + (fstRead f).toNat % 2 ^ 19 * 2 ^ 94
    + f.preds.toNat / 2 * 2 ^ 113 + f.fid * 2 ^ 128 + f.jid * 2 ^ 176 + f.ix.toNat * 2 ^ 192
    + f.sseed.toNat * 2 ^ 256 + f.einfo.toNat * 2 ^ 320 + f.epc.toNat * 2 ^ 384 + f.ecause.toNat % 256 * 2 ^ 448
    + f.pc * 2 ^ 456 + (f.loops.zipIdx.map (fun l => levelBits l.1 * 2 ^ (512 + 128 * l.2))).sum
    + ((List.range 16).map (fun n => if n < f.regs then (f.g.getD n 0).toNat * 2 ^ (1024 + 64 * n) else 0)).sum

/-- The lowest record of a core's hold storage that no frond uses (log entry 74). -/
def freeRecord (s : State) (pcid : Nat) : Nat :=
  let used := (s.fronds.filter (fun f => f.pcid == pcid && f.loc == .hold)).map (fun f => f.record)
  ((List.range (used.length + 1)).find? (fun n => !used.contains n)).getD 0

/-- The record of a frond in hold storage written in the local store of its core (R72, R233). -/
def layRecord (s : State) (f : Frond) : State :=
  match f.loc, f.wait with
  | .hold, .park reason obj _ =>
    { s with ls := writeNat s.ls (f.pcid * 2 ^ 20 + (getCore s f.pcid).holdOff + 256 * f.record) 256
               (holdRecord f reason obj) }
  | _, _ => s

/-- A frond may leave its slot: it is mobile, holds no held operand, and the hold storage of its core has room
(R120, R452). -/
def mayLeave (s : State) (f : Frond) : Bool :=
  !f.rooted && f.held.isEmpty && f.heldH.isEmpty &&
    decide (holdsUsed s f.pcid < (getCore s f.pcid).holdLen / 256)

/-- A waiter joins the hold queue of a block; none when the hold table has no entry for it (R234). -/
def joinHold (c : Core) (jid block : Nat) (w : Waiter) : Option Core :=
  if hasQueue c jid block then
    let add := fun (q : HoldQ) => if q.jid = jid ∧ q.block = block then { q with waiters := q.waiters ++ [w] } else q
    some { c with holds := c.holds.map add }
  else if 512 ≤ c.holds.length then none
  else some { c with holds := c.holds ++ [{ jid := jid, block := block, waiters := [w] }] }

/-- A frond that parks on an absent block takes its place in the block's queue (R230, R234). -/
def placeHold (s : State) (f : Frond) (block : Nat) : State :=
  let w : Waiter := { uid := f.uid, proxy := none, placed := s.clk, frozen := 0 }
  match joinHold (getCore s f.pcid) f.jid block w with
  | some c => setCore s c
  | none => s

/-- The hold table of a core has no entry for a further block. -/
def noHoldEntry (s : State) (f : Frond) (block : Nat) : Bool :=
  let c := getCore s f.pcid
  !hasQueue c f.jid block && decide (512 ≤ c.holds.length)

/-- A frond parks in its slot, Blocked, with a reason and an object of R233; its claims end (R120, R235). -/
def parkStay (s : State) (f : Frond) (reason obj info : Nat) : State × Frond :=
  ({ s with fresh := s.fresh + 1 },
    { f with wait := .park reason obj info, claims := [], since := s.clk, seq := s.fresh })

/-- A frond parks with a reason and an object of R233: into a hold record, or in its slot (R120). -/
def parkFrond (s : State) (f : Frond) (reason obj info : Nat) : State × Frond :=
  let stays := !mayLeave s f || (reason == 0 && noHoldEntry s f obj)
  let p := parkStay (if reason = 0 then placeHold s f obj else s) f reason obj info
  if stays then p
  else
    let f' := { p.2 with loc := .hold, record := freeRecord s f.pcid }
    (layRecord p.1 f', f')

/-- A parked or Blocked frond becomes ready: in its slot, or on its core's ready list (R119, R121). -/
def releaseFrond (s : State) (uid : Nat) : State :=
  let n := s.fresh
  updFrond { s with fresh := n + 1 } uid (fun f =>
    match f.loc with
    | .hold => { f with loc := .ready, wait := .run, seq := n, notBefore := s.clk + 1 }
    | _ => { f with wait := .run, notBefore := s.clk + 1 })

/-- A precise cause becomes pending at the word at the PC of a frond: at a word of its own, or of its handler (R370). -/
def pendCause (f : Frond) (c : Cause) : Frond :=
  if f.hnd then { f with causeH := some c, causeHPc := f.pc } else { f with cause := some c, causePc := f.pc }

/-- The precise cause that is pending at the word at the PC of a frond (R370). -/
def wordCause (f : Frond) : Option Cause :=
  if f.hnd then if f.causeHPc = f.pc then f.causeH else none
  else if f.causePc = f.pc then f.cause else none

/-- A frond without the precise cause of its level: it has been taken, or another word than its own issues (R370). Outside a
handler no STOREERR is left by then to be taken at this word as the first after a Waiting state (R372). -/
def dropCause (f : Frond) : Frond := if f.hnd then { f with causeH := none } else { f with cause := none, errBack := none }

/-- A precise cause becomes pending at a frond, which is then released (R94, R223, R241, R348). -/
def releaseWithCause (s : State) (uid : Nat) (c : Cause) : State :=
  releaseFrond (updFrond s uid (fun f => pendCause f c)) uid

/-- The fronds that are parked with a reason, and meet `p`, in parking order. -/
def parkedFor (s : State) (reason : Nat) (p : Frond → Nat → Bool) : List Frond :=
  sortBy (fun a b => decide (a.seq ≤ b.seq)) (s.fronds.filter (fun f =>
    match f.wait with
    | .park r obj _ => r == reason && p f obj
    | _ => false))

/-! ## Hold tables (R234) -/

/-- A frond is a waiter of some hold queue of a core. -/
def isWaiter (c : Core) (uid : Nat) : Bool := c.holds.any (fun q => q.waiters.any (fun w => w.uid == uid))

/-- A frond that stays in its slot for want of a hold-table entry is examined again: it becomes a waiter, or is
released to a block that is resident by now (R234). -/
def retryHold (s : State) (uid : Nat) : State :=
  match findFrond s uid with
  | none => s
  | some f =>
    match f.wait with
    | .park 0 block _ =>
      if isWaiter (getCore s f.pcid) uid then s
      else if (residentAt s f.jid block).isSome then releaseFrond s uid
      else placeHold s f block
    | _ => s

/-- A flight has a place in a queue of a core's hold table for a block (R234). -/
def hasPlace (c : Core) (jid block id : Nat) : Bool :=
  c.holds.any (fun q => q.jid == jid && q.block == block && q.waiters.any (fun w => w.proxy == some id))

/-- A flight is the proxy hold of some queue, or waits for a hold-table entry: its frond is listed (R234, R386). -/
def isListed (s : State) (id : Nat) : Bool :=
  s.cores.any (fun c => c.holds.any (fun q => q.waiters.any (fun w => w.proxy == some id))
    || c.turned.any (fun x => x.1 == id))

/-- A flight takes its place in the queue of a block at its home, or in the order of those that find no hold-table entry;
its frond is listed from this cycle (R230, R234, R386). -/
def placeProxy (s : State) (pcid : Nat) (g : Flight) (block : Nat) : State :=
  let t := if isListed s g.id then s else updFrond s g.uid (fun f => { f with since := s.clk })
  match joinHold (getCore s pcid) g.jid block { uid := g.uid, proxy := some g.id, placed := s.clk, frozen := 0 } with
  | some c => setCore t c
  | none =>
    if (getCore s pcid).turned.any (fun x => x.1 == g.id && x.2.1 == block) then t
    else updCore { t with fresh := t.fresh + 1 } pcid (fun c => { c with turned := c.turned ++ [(g.id, block, s.fresh)] })

/-- A request that found no hold-table entry is examined again, while its block is absent (R234). -/
def retryRequest (pcid : Nat) (s : State) (id block : Nat) : State :=
  match findFlight s id with
  | some g => if (residentAt s g.jid block).isSome then s else placeProxy s pcid g block
  | none => s

/-- A request still waits for a hold-table entry. -/
def stillTurned (s : State) (c : Core) (x : Nat × Nat × Nat) : Bool :=
  match findFlight s x.1 with
  | some g => (residentAt s g.jid x.2.1).isNone && !hasPlace c g.jid x.2.1 x.1
  | none => false

/-- What waits for a hold-table entry of a core, in arrival order: fronds, and requests with their blocks (R234). -/
def holdSeekers (s : State) (pcid : Nat) : List (Nat × Nat × Option Nat) :=
  sortBy (fun a b => decide (a.1 ≤ b.1))
    ((parkedFor s 0 (fun f _ => f.pcid == pcid)).map (fun f => (f.seq, f.uid, none))
      ++ (getCore s pcid).turned.map (fun x => (x.2.2, x.1, some x.2.1)))

/-- What waits for a hold-table entry of a core is examined again in arrival order (R234). -/
def retryHolds (s : State) (pcid : Nat) : State :=
  let s := (holdSeekers s pcid).foldl (fun s x => match x.2.2 with
    | none => retryHold s x.2.1
    | some block => retryRequest pcid s x.2.1 block) s
  updCore s pcid (fun c => { c with turned := c.turned.filter (stillTurned s c) })

/-- The hold queues of a core that no waiter and no fill keeps leave its hold table (R234). -/
def trimHolds (s : State) (pcid : Nat) : State :=
  updCore s pcid (fun c => { c with holds := c.holds.filter (fun q => !q.waiters.isEmpty ||
    match c.fill with
    | some x => x.jid == q.jid && x.block == q.block
    | none => false) })

/-- Every core's hold table without its empty queues; the fronds of a core that wait for an entry are examined again
when one has freed (R234). -/
def trimAll (s : State) : State :=
  (s.cores.map (fun c => c.pcid)).foldl (fun s p =>
    let t := trimHolds s p
    if (getCore t p).holds.length = (getCore s p).holds.length then s else retryHolds t p) s

/-! ## Deferred store errors (R250, R372) -/

/-- The flight of a `join` that a frond waits at. -/
def joinFlight (s : State) (uid : Nat) : Option Flight := s.flights.find? (fun g => g.uid == uid && g.op == .join)

/-- A `join` of a frond that has not decremented, if it waits, is taken back, so that a STOREERR is taken at it (R157,
R161). -/
def recallJoin (s : State) (uid : Nat) : State :=
  match joinFlight s uid with
  | none => s
  | some g =>
    if g.elems.any (fun e => e.performed) then s
    else
      let drop := fun (q : HoldQ) => { q with waiters := q.waiters.filter (fun w => w.proxy != some g.id) }
      let s := delFlight { s with cores := s.cores.map (fun c => { c with holds := c.holds.map drop }) } g.id
      trimAll (updFrond s uid (fun f => { f with wait := .run, notBefore := s.clk + 1 }))

/-- A deferred STOREERR is recorded at its frond, or counted when the frond has ended (R250, R372). A `join` acts as
if SW = 1, so its frond is Waiting from its issue to its landing (R126, R157). -/
def noteStoreErr (s : State) (uid jid info : Nat) : State :=
  match findFrond s uid with
  | some f =>
    let waiting := f.swMark || (joinFlight s uid).isSome
    let s := updFrond s uid (fun f =>
      { f with storeErrs := f.storeErrs ++ [info], errWait := f.errWait || waiting })
    if f.hnd then s else recallJoin s uid
  | none => addErrors s jid 1

/-! ## The end of a word -/

/-- The loop-end test of R153 at a word that transfers nothing: the frond with its next PC, and `einfo` of the
LOOPTRIP that the test raises (R155). -/
def advance (f : Frond) : Frond × Option Nat :=
  let next := (f.pc + 12) % 2 ^ 56
  match f.loops.getLast? with
  | none => ({ f with pc := next }, none)
  | some l =>
    if (f.hnd && decide (f.loops.length ≤ f.entryDepth)) || f.pc != (l.start + 12 * (l.blen - 1)) % 2 ^ 56 then
      ({ f with pc := next }, none)
    else if !l.while_ && decide (l.count ≤ l.pass) then
      ({ f with pc := next, loops := f.loops.dropLast }, none)
    else if l.pass = l.maxt then
      ({ f with pc := next, loops := f.loops.dropLast },
        some ((f.loops.length - 1) * 2 ^ 56 + l.start))
    else
      ({ f with pc := l.start, loops := f.loops.dropLast ++ [{ l with pass := l.pass + 1 }] }, none)

/-- LU ends the claim on the carrel of the latest WALK access (R98, R235). -/
def lastUse (h : Hints) (f : Frond) : Frond :=
  if h.lu then
    match f.lastWalk with
    | some k => { f with claims := f.claims.filter (fun x => x != k), lastWalk := none }
    | none => f
  else f

/-- SW makes the frond Waiting while it has outstanding results (R126). -/
def switchMark (h : Hints) (f : Frond) : Frond :=
  if h.sw && !f.outs.isEmpty then { f with swMark := true } else f

/-- The held operands of a word that has issued whole are used up (R452). -/
def useHeld (hnd : Bool) (f : Frond) : Frond := if hnd then { f with heldH := [] } else { f with held := [] }

/-- A word that has issued whole completes: its hints act, and the PC moves on, by the end test or to `target`
(R96, R98, R126, R153). `word` is the word as fetched. -/
def complete (s : State) (f : Frond) (h : Hints) (target : Option Nat) (word : Nat) : State × Frond :=
  let f := lastUse h { f with errWait := false }
  match target with
  | some t => (s, switchMark h { f with pc := t })
  | none =>
    match advance f with
    | (f, none) => (s, switchMark h f)
    | (f, some info) =>
      let r := takeCause s f causeLOOPTRIP info f.pc word
      (r.1, switchMark h r.2)

/-- The instruction-cache lines of a frond that hold the 12 bytes at its PC (R92). -/
def cachedBytes (s : State) (f : Frond) (a : Nat) : Nat → Option (List Byte)
  | 0 => some []
  | n + 1 =>
    match s.ilines.find? (fun l => l.tile == tileOf f.pcid && l.jid == f.jid && l.line == a / 128 * 128) with
    | none => none
    | some l => (cachedBytes s f (a + 1) n).map (fun bs => l.bytes.getD (a % 128) 0 :: bs)

/-- The 96-bit word at the PC of a frond, when its lines are present. -/
def fetchedWord (s : State) (f : Frond) : Option Nat :=
  (cachedBytes s f f.pc 12).map bytesNat

/-- A frond inside a word that has been performed or released goes on: in its slot, or from its record on the
ready list (R119, R121). The word completes with its hints; claims that it ends may leave carrels spent (R240). -/
def resumeWord (s : State) (uid : Nat) (h : Hints) : State :=
  match findFrond s uid with
  | none => s
  | some f =>
    let c := complete s (useHeld f.hnd { f with wait := .run, notBefore := s.clk + 1 }) h none
      ((fetchedWord s f).getD 0)
    refreshSpent (match f.loc with
      | .hold => updFrond { c.1 with fresh := c.1.fresh + 1 } uid (fun _ =>
          { c.2 with loc := .ready, seq := c.1.fresh })
      | _ => updFrond c.1 uid (fun _ => c.2)) f.pcid

/-! ## The body of a word -/

/-- Why the body of a word stops before the word has issued. -/
inductive Stop where
  | trap (code info : Nat)
  | park (reason obj info : Nat)
  /-- A park that never leaves its slot (R157). -/
  | stay (reason obj info : Nat)
  /-- The chance passes without issue (R118). -/
  | stall
  /-- The frond becomes Waiting or Blocked; the word issues again whole (R118, R129). -/
  | gate (w : Wait)
  deriving DecidableEq, Repr

/-- What the body of a word works on: the frond, the machine without it, and the flags it will set. -/
structure Ctx where
  f : Frond
  s : State
  flags : BitVec 7
  deriving DecidableEq, Repr

/-- The body of a word. -/
abbrev M (α : Type) := ExceptT Stop (StateM Ctx) α

/-- The frond. -/
def getF : M Frond := do return (← get).f

/-- The machine. -/
def getS : M State := do return (← get).s

/-- The frond changed by `g`. -/
def modF (g : Frond → Frond) : M Unit := modify (fun c => { c with f := g c.f })

/-- The machine changed by `g`. -/
def modS (g : State → State) : M Unit := modify (fun c => { c with s := g c.s })

/-- Flags that the word's computation raises, before its result is written: a D of `fst` clears them (R128, R139, R175). -/
def raiseNow (b : BitVec 7) : M Unit := modF (fun f => raiseFlags f b)

/-- Flags that the word will set when it issues, after what it writes: HAZ, and those of vector lanes (log entry 100). -/
def setFlags (b : BitVec 7) : M Unit := modify (fun c => { c with flags := c.flags ||| b })

/-- The frond stands in the state while `g` acts on both, and is then taken out again. -/
def viaState (g : State → State) : M Unit := modify (fun c =>
  let s := g { c.s with issuing := some c.f }
  { c with s := { s with issuing := none }, f := s.issuing.getD c.f })

/-- The word traps (R99). -/
def raise (code info : Nat) : M Unit := throw (.trap code info)

/-- The word traps when `b` holds. -/
def trapIf (b : Bool) (code info : Nat) : M Unit := if b then throw (.trap code info) else pure ()

/-- The chance passes without issue when `b` holds. -/
def stallIf (b : Bool) : M Unit := if b then throw .stall else pure ()

end Sys2Proof.Machine
end

