-- ==== Sys2Proof/Machine/Sync.lean ====
section
/-! DEFINITION. The synchronising operations that wait at a local-store port (R345 to R348, R355), and what a write to
local store sets going there: every writer of local store ends in `lsWritten`. -/

namespace Sys2Proof.Machine

/-! ## Arrival bits -/

/-- A line of a local store, by address / 128, whose arrival bit is clear for an access of frond `uid` with
name `id` (R225, R269): a fill or a copy in flight has still to land there. An access that the frond issued
before its own copy is not held by that copy. -/
def lineClear (s : State) (uid id line : Nat) : Bool :=
  s.copies.any (fun c => !c.out && c.lines.contains line && !(c.uid == uid && decide (id < c.id)))
  || match (getCore s (line * 128 / 2 ^ 20)).fill with
    | some f =>
      let off := line * 128 % 2 ^ 20
      decide (carrelOff f.carrel ≤ off ∧ off < carrelOff f.carrel + blockSize)
        && f.lines.contains ((off - carrelOff f.carrel) / 128)
    | none => false

/-- The numbers of `n` units of `size` bytes that a range of local store touches. -/
def unitsOf (a n size : Nat) : List Nat :=
  if n = 0 then [] else (List.range ((a + n - 1) / size - a / size + 1)).map (fun i => a / size + i)

/-- The arrival bits of the lines of an access are set (R225). -/
def arrived (s : State) (uid id : Nat) (p : Place) (n : Nat) : Bool :=
  match resolve s p with
  | .ls a => (unitsOf a n 128).all (fun l => !lineClear s uid id l)
  | _ => true

/-! ## Answers -/

/-- An access of a job is performed in this cycle (R387). -/
def noteProgress (s : State) (jid : Nat) : State := updJob s jid (fun j => { j with progress := s.clk })

/-- An element of a flight changed. -/
def setElem (g : Flight) (k : Nat) (e : Elem) : Flight := { g with elems := g.elems.set k e }

/-- The answer of a flight whose elements are all performed sets out (R450). -/
def settleFlight (s : State) (id : Nat) : State :=
  updFlight s id (fun g =>
    if g.done.isNone && g.elems.all (fun e => e.performed) then { g with done := some (s.clk + g.back) } else g)

/-- A synchronising word that traps at its port: the flight leaves, and the cause is pending at the word. -/
def syncTrap (s : State) (id uid : Nat) (c : Cause) : State :=
  let s := updCore (delFlight s id) ((findFlight s id).elim 0 (fun g => match g.elems with
    | [] => 0
    | e :: _ => match e.place with
      | .ls a => a / 2 ^ 20
      | _ => 0)) (fun k => { k with waitList := k.waitList.filter (fun w => w.id != id) })
  releaseWithCause s uid c

/-! ## Synchronising words -/

/-- The sync bit of a local-store word is full (R226). -/
def syncFull (s : State) (word : Nat) : Bool := !setHas (word / 8) s.empties

/-- The sync bit of a word set. -/
def setSync (s : State) (word : Nat) (full : Bool) : State :=
  { s with empties := if full then setDel (word / 8) s.empties else setAdd (word / 8) s.empties }

/-- The 8 bytes of a local-store word written. -/
def setLsWord (s : State) (word v : Nat) : State := writePlace s (.ls word) 8 v

/-- COUNT of a barrier word clamped, with OVER (R354, R355). -/
def clampCount (n : Int) : Int × Bool :=
  if n < -(2 ^ 47) then (-(2 ^ 47), true) else if 2 ^ 47 - 1 < n then (2 ^ 47 - 1, true) else (n, false)

/-- A barrier word after `n` is added to COUNT, posted when `post` (R355). -/
def barrierAdd (w : Nat) (n : Int) (post : Bool) : Nat :=
  let c := clampCount (Nat.signed (Nat.field w 0 48) 48 + n)
  let posted := post || w.testBit 63
  let excess := w.testBit 62 || c.2
  let phase := Nat.field w 48 14
  if posted ∧ 0 ≤ c.1 then
    (phase + 1) % 2 ^ 14 * 2 ^ 48 + (if excess ∨ 0 < c.1 then 2 ^ 62 else 0)
  else
    Int.wrap c.1 48 + phase * 2 ^ 48 + (if excess then 2 ^ 62 else 0) + (if posted then 2 ^ 63 else 0)

/-- What a synchronising operation does to its word when it matches: the value it returns and the state; none
when it does not match (R345, R355). `gen` is the generation a frond barrier waits on, once it has arrived. -/
def syncStep (s : State) (op : SyncOp) (b : Nat) (gen : Option Nat) (word : Nat) : Option (Nat × State) :=
  let w := readNat s.ls word 8
  match op with
  | .ldf => if syncFull s word then some (w, s) else none
  | .lde => if syncFull s word then some (w, setSync s word false) else none
  | .stf => if syncFull s word then none else some (0, setSync (setLsWord s word b) word true)
  | .sto => some (0, setSync (setLsWord s word b) word true)
  | .clrf => some (0, setSync s word false)
  | .bexp => some (Nat.field w 48 14, setLsWord s word (barrierAdd w (-(b : Int)) true))
  | .barv => some (0, setLsWord s word (barrierAdd w b false))
  | .bwait => if Nat.field w 48 14 = b % 2 ^ 14 then none else some (0, s)
  | .bar =>
    match gen with
    | some n => if Nat.field w 48 16 = n then none else some (0, s)
    | none => none

/-- A matching operation is a write to its word (R347). -/
def syncWrites (op : SyncOp) : Bool := op != .bwait

/-- An operation that FELIMIT limits (R348, R355). -/
def limited (op : SyncOp) : Bool := op == .ldf || op == .lde || op == .stf

/-- RL and T of a job (R348, R394): FERL, default 1,024, and FET. -/
def retryLimit (s : State) (jid : Nat) : Nat :=
  match findJob s jid with
  | some j => j.ferl
  | none => 1024

/-- `einfo` of FELIMIT (R348). -/
def felimitInfo (timeout : Bool) (word : Nat) : Nat :=
  (if timeout then 2 ^ 63 else 0) + windowBase + word

/-- The generation that the operation of a flight waits on, once a frond barrier has arrived. -/
def waitGen (g : Flight) : Option Nat :=
  match g.elems with
  | e :: _ => if e.applied then some e.val else none
  | [] => none

/-- The one element of a synchronising flight is performed, with a value (R346). The flight stands behind those that were
performed before it, so that the fronds of one core go on in that order (R355, R367). -/
def syncDone (s : State) (id v : Nat) : State :=
  match findFlight s id with
  | none => s
  | some g =>
    let s := delFlight (noteProgress s g.jid) id
    let g := { g with elems := g.elems.map (fun e => { e with val := v, performed := true }) }
    settleFlight { s with flights := s.flights ++ [g] } id

/-- One operation of a waiting list is examined (R347, R348). A match waits at the port while the line of its word has
still to land (R225). -/
def examine (s : State) (w : PortWait) : State :=
  match findFlight s w.id with
  | none => s
  | some g =>
    match g.op with
    | .sync op b =>
      match syncStep s op b (waitGen g) w.word with
      | some (v, t) =>
        if lineClear s w.uid w.id (w.word / 128) then s else
        let s := updCore t (w.word / 2 ^ 20) (fun k => { k with waitList := k.waitList.filter (fun x => x.id != w.id) })
        syncDone s w.id v
      | none =>
        if limited op && decide (retryLimit s g.jid ≤ g.tries + 1) then
          syncTrap s w.id w.uid { code := causeFELIMIT, info := felimitInfo false w.word }
        else if limited op then updFlight s w.id (fun g => { g with tries := g.tries + 1 })
        else s
    | _ => s

/-- The frond of a waiting operation is Frozen. -/
def waitFrozen (s : State) (w : PortWait) : Bool :=
  match findFrond s w.uid with
  | some f => isFrozen s f
  | none => false

/-- The operations that wait on a word are examined in parking order, each once, but for those of Frozen fronds
(R132, R347). -/
def reexamine (s : State) (word : Nat) : State :=
  ((getCore s (word / 2 ^ 20)).waitList.filter (fun w => w.word == word && !waitFrozen s w)).foldl examine s

/-- The words that `n` bytes at a local-store address touch have been written (R347). -/
def lsWritten (s : State) (a n : Nat) : State :=
  (List.range ((a + n - 1) / 8 - a / 8 + 1)).foldl (fun s i => reexamine s (8 * (a / 8 + i))) s

/-- An operation of a waiting list matches its word now. -/
def matchesNow (s : State) (w : PortWait) : Bool :=
  match findFlight s w.id with
  | none => false
  | some g =>
    match g.op with
    | .sync op b => (syncStep s op b (waitGen g) w.word).isSome
    | _ => false

/-- An operation of a waiting list would be performed now: it matches, and the line of its word has landed (R225, R345). -/
def performsNow (s : State) (w : PortWait) : Bool := matchesNow s w && !lineClear s w.uid w.id (w.word / 128)

/-- The arrival bit of a line is set: the operations that it has held at the port are performed (R225, R347). -/
def lineSet (s : State) (line : Nat) : State :=
  ((getCore s (line * 128 / 2 ^ 20)).waitList.filter (fun w => w.word / 128 == line && !waitFrozen s w)).foldl
    (fun s w => if performsNow s w then examine s w else s) s

/-- `n` bytes are written at a resolved place, and the operations that wait there are examined. -/
def writeHome (s : State) (p : Place) (n v : Nat) : State :=
  match p with
  | .ls a => lsWritten (writePlace s p n v) a n
  | _ => writePlace s p n v

end Sys2Proof.Machine
end

