-- ==== Sys2Proof/Machine/Queues.lean ====
section
/-! DEFINITION. Queues under back-pressure (R31, R87 to R89): pushes, pops, closing, and the fronds parked on
them. -/

namespace Sys2Proof.Machine

/-- A segment accepts one more element. -/
def Seg.hasRoom (q : Queue) (g : Seg) : Bool := g.accepting && decide (g.elems.length < q.segn)

/-- Capacity: SEGN times the number of accepting segments (R31). -/
def Queue.capacity (q : Queue) : Nat := q.segn * (q.segs.filter (fun g => g.accepting)).length

/-- Elements held. -/
def Queue.occupancy (q : Queue) : Nat := (q.segs.map (fun g => g.elems.length)).sum

/-- Free places of the accepting segments. -/
def Queue.room (q : Queue) : Nat :=
  ((q.segs.filter (fun g => g.accepting)).map (fun g => q.segn - g.elems.length)).sum

/-- Every accepting segment is full (R87). -/
def Queue.full (q : Queue) : Bool := !q.segs.any (fun g => g.hasRoom q)

/-- OBJ of a park on a queue (R358). -/
def Queue.obj (q : Queue) : Nat := q.va % 2 ^ 48

/-- The index with the best mark among those that meet `ok`, the first one on a tie. -/
def bestIdx {α : Type} (ok : α → Bool) (better : α → α → Bool) : List α → Nat → Option (Nat × α) → Option Nat
  | [], _, best => best.map (·.1)
  | x :: xs, i, best =>
    match best with
    | none => bestIdx ok better xs (i + 1) (if ok x then some (i, x) else none)
    | some (j, y) => bestIdx ok better xs (i + 1) (if ok x && better x y then some (i, x) else some (j, y))

/-- The segment that a push goes to: the accepting one with the most free room, then the lowest logical core
(R87). Segments stand in the order of their cores. -/
def Queue.pushSeg (q : Queue) : Option Nat :=
  bestIdx (fun g => g.hasRoom q) (fun x y => decide (x.elems.length < y.elems.length)) q.segs 0 none

/-- The segment that a pop takes from: the popping core's own, or the fullest (R88). -/
def Queue.popSeg (q : Queue) (pcid : Nat) : Option Nat :=
  match findIdx (fun g => g.pcid == some pcid && !g.elems.isEmpty) q.segs with
  | some i => some i
  | none =>
    bestIdx (fun g => !g.elems.isEmpty) (fun x y => decide (y.elems.length < x.elems.length)) q.segs 0 none

/-- The first `n` fronds of a list released, in order. -/
def releaseFirst : List Frond → Nat → State → State
  | [], _, s => s
  | _ :: _, 0, s => s
  | f :: fs, n + 1, s => releaseFirst fs n (releaseFrond s f.uid)

/-- The fronds parked on a queue for a pop, as many as can be served, are released in parking order (R89). -/
def wakePops (s : State) (jid pl : Nat) (q : Queue) : State :=
  let ws := parkedFor s 3 (fun f obj => f.jid == jid && f.pl == pl && obj == q.obj)
  releaseFirst ws (if q.closed then ws.length else q.occupancy) s

/-- The fronds parked on a queue for a push, as many as can be served, are released in parking order (R87). -/
def wakePushes (s : State) (jid pl : Nat) (q : Queue) : State :=
  let ws := parkedFor s 2 (fun f obj => f.jid == jid && f.pl == pl && obj == q.obj)
  releaseFirst ws (if q.closed then ws.length else q.room) s

/-- Queue `q` of a pipeline of a job. -/
def theQueue (s : State) (jid pl q : Nat) : Option Queue := (findJob s jid).bind (fun j => j.queue? pl q)

/-- The local-store address of place `i` after the oldest element of a core's segment (R31, R72; log entry 74). -/
def Seg.cell (q : Queue) (g : Seg) (i : Nat) : Option Nat :=
  g.pcid.map (fun p => p * 2 ^ 20 + g.off + (g.head + i) % q.segn * 2 ^ q.esz)

/-- An element put at the end of a segment: its bytes go to the ring in the core's local store, or, in a sink, stay
with the element (R31). A write of the ring sets going what waits at its words (R347). -/
def putElem (s : State) (q : Queue) (g : Seg) (bytes : List Byte) : State × QElem :=
  match g.cell q g.elems.length with
  | some a => (writeHome s (.ls a) (2 ^ q.esz) (bytesNat bytes), { bytes := [], num := q.accepted })
  | none => (s, { bytes := bytes, num := q.accepted })

/-- The oldest element of a segment with its bytes, as its ring holds them. -/
def firstElem (s : State) (q : Queue) (g : Seg) (e : QElem) : QElem :=
  match g.cell q 0 with
  | some a => { e with bytes := natBytes (2 ^ q.esz) (readNat s.ls a (2 ^ q.esz)) }
  | none => e

/-- A segment without its oldest element. -/
def Seg.advance (q : Queue) (g : Seg) : Seg := { g with elems := g.elems.drop 1, head := (g.head + 1) % q.segn }

/-- A push under R87; none when the queue is full. -/
def pushElem (s : State) (jid pl qn : Nat) (bytes : List Byte) : Option State :=
  (theQueue s jid pl qn).bind (fun q =>
    q.pushSeg.bind (fun i =>
      (q.segs[i]?).map (fun g =>
        let p := putElem s q g bytes
        let q' := { q with segs := q.segs.set i { g with elems := g.elems ++ [p.2] }, accepted := q.accepted + 1 }
        wakePops (updJob p.1 jid (fun j => j.updQueue pl qn (fun _ => q'))) jid pl q')))

/-- A pop under R88 by a core; none when the queue is empty. -/
def popElem (s : State) (jid pl qn pcid : Nat) : Option (QElem × State) :=
  (theQueue s jid pl qn).bind (fun q =>
    (q.popSeg pcid).bind (fun i =>
      (q.segs[i]?).bind (fun g =>
        g.elems.head?.map (fun e =>
          let q' := { q with segs := q.segs.set i (g.advance q) }
          (firstElem s q g e, wakePushes (updJob s jid (fun j => j.updQueue pl qn (fun _ => q'))) jid pl q')))))

/-- The element that a pop would take now (R358 `qpeek`). -/
def peekElem (s : State) (jid pl qn pcid : Nat) : Option QElem :=
  (theQueue s jid pl qn).bind (fun q =>
    (q.popSeg pcid).bind (fun i => (q.segs[i]?).bind (fun g => g.elems.head?.map (firstElem s q g))))

/-- A queue closes (R89): parked pushers wake, and parked poppers once it is also empty. -/
def closeQueue (s : State) (jid pl qn : Nat) : State :=
  match theQueue s jid pl qn with
  | none => s
  | some q =>
    if q.closed then s
    else
      let q' := { q with closed := true }
      let s := wakePushes (updJob s jid (fun j => j.updQueue pl qn (fun _ => q'))) jid pl q'
      if q'.occupancy = 0 then wakePops s jid pl q' else s

/-- The last pop from a closed queue wakes the poppers that are left (R89). -/
def wakeIfDone (s : State) (jid pl qn : Nat) : State :=
  match theQueue s jid pl qn with
  | some q => if q.closed ∧ q.occupancy = 0 then wakePops s jid pl q else s
  | none => s

end Sys2Proof.Machine
end

