-- ==== Sys2Proof/Machine/Catalogue.lean ====
section
/-! DEFINITION. View descriptors (R40 to R42), the meet test (R333) and the catalogues (R260, R335, R336). -/

namespace Sys2Proof.Machine

/-! ## Descriptors -/

def viewBase (d : BitVec 512) : Nat := Nat.field d.toNat 0 56
def viewEsz (d : BitVec 512) : Nat := Nat.field d.toNat 64 8
def viewFcode (d : BitVec 512) : Nat := Nat.field d.toNat 72 4
def viewRank (d : BitVec 512) : Nat := Nat.field d.toNat 80 8
def viewWrite (d : BitVec 512) : Bool := d.toNat.testBit 88
def viewScope (d : BitVec 512) : Nat := Nat.field d.toNat 89 3
def viewExt (d : BitVec 512) (k : Nat) : Nat := Nat.field d.toNat (128 + 32 * k) 32
def viewStr (d : BitVec 512) (k : Nat) : Int := Nat.signed (Nat.field d.toNat (256 + 32 * k) 32) 32
def viewOrg (d : BitVec 512) (k : Nat) : Nat := Nat.field d.toNat (384 + 32 * k) 32

/-- The dimensions below the rank. -/
def viewDims (d : BitVec 512) : List Nat := List.range (Nat.min 4 (viewRank d))

/-- A view with a zero extent below its rank has an empty footprint (R41). -/
def viewEmpty (d : BitVec 512) : Bool := (viewDims d).any (fun k => viewExt d k == 0)

/-- The lowest element address, exact (R41, R42). -/
def viewLow (d : BitVec 512) : Int :=
  (viewBase d : Int) + (viewEsz d : Int) *
    ((viewDims d).map (fun k => Min.min 0 (((viewExt d k : Int) - 1) * viewStr d k))).sum

/-- The highest byte address, exact (R41, R42). -/
def viewHigh (d : BitVec 512) : Int :=
  (viewBase d : Int) + (viewEsz d : Int) *
    ((viewDims d).map (fun k => Max.max 0 (((viewExt d k : Int) - 1) * viewStr d k))).sum
    + (viewEsz d : Int) - 1

/-- The lattice step of R266. -/
def viewStep (d : BitVec 512) : Nat :=
  if viewRank d = 1 ∧ 2 ≤ viewExt d 0 then (viewStr d 0).natAbs * viewEsz d else 0

/-- The footprint of a view (R41, R266, R333). -/
def footOf (d : BitVec 512) : Foot :=
  let lo := (viewLow d).toNat
  let g := viewStep d
  { lo := lo, hi := (viewHigh d).toNat, step := g, off := if g = 0 then 0 else lo % g, esz := viewEsz d }

/-- The reserved bits of a descriptor are zero (R40). -/
def viewReservedOk (d : BitVec 512) : Bool :=
  Nat.field d.toNat 92 36 == 0 && Nat.field d.toNat 76 4 == 0 && Nat.field d.toNat 56 8 == 0

/-- The OPERAND conditions of R42. -/
def viewBad (d : BitVec 512) : Bool :=
  !(decide (1 ≤ viewRank d ∧ viewRank d ≤ 4)) || !([1, 2, 4, 8].contains (viewEsz d))
    || decide (6 ≤ viewScope d) || !viewReservedOk d
    || (List.range 4).any (fun k => decide (viewRank d ≤ k) && (viewExt d k != 0 || viewStr d k != 0))
    || (viewDims d).any (fun k => viewExt d k != 0 && decide (viewExt d k ≤ viewOrg d k))

/-- The trap of R42 that binding a descriptor raises: cause and `einfo`, in the order of R42. `einfo` of XLATE is the highest
byte address of a footprint that passes 2^56 - 1, and else the lowest element address, modulo 2^64 (log entry 106, DESIGN
CHOICE: R369 says only that it is the VA, and R42 does not say which condition comes first). -/
def viewCheck (d : BitVec 512) : Option Cause :=
  if viewBad d then some { code := causeOPERAND, info := operandInfo 5 0xE 0 }
  else if viewBase d % viewEsz d ≠ 0 then some { code := causeALIGN, info := viewBase d }
  else if viewEmpty d then none
  else if (2 ^ 56 - 1 : Int) < viewHigh d then
    some { code := causeXLATE, info := Int.wrap (viewHigh d) 64 }
  else if viewLow d < 0 then some { code := causeXLATE, info := Int.wrap (viewLow d) 64 }
  else none

/-! ## The meet test -/

/-- The lattices of two footprints share a point (R333). -/
def latticesMeet (x y : Foot) : Bool :=
  if x.step = 0 ∨ y.step = 0 then true
  else
    let g := Nat.gcd x.step y.step
    let d := (((y.off : Int) - (x.off : Int)) % (g : Int)).toNat
    decide (d < x.esz) || decide (g - d < y.esz)

/-- Two footprints may meet (R333). -/
def mayMeet (x y : Foot) : Bool := decide (x.lo ≤ y.hi ∧ y.lo ≤ x.hi) && latticesMeet x y

/-- The footprint of `n` contiguous bytes at a VA (R333). -/
def plainFoot (va n : Nat) : Foot := { lo := va, hi := va + n - 1, step := 0, off := 0, esz := n }

/-! ## The catalogues -/

/-- The distinct granule homes that a footprint meets, by the VA of the first granule of each (R260). At most
nine homes exist, so nine granules show every home. -/
def footDies (f : Foot) : List Nat :=
  let g0 := f.lo / 2 ^ 30
  let n := f.hi / 2 ^ 30 - g0 + 1
  (List.range (Nat.min 9 n)).map (fun i => (g0 + i) % 9)

/-- The entry of a catalogue that a bind meets first (R260). -/
def blocking (s : State) (die jid uid : Nat) (foot : Foot) (write : Bool) : Option CatEntry :=
  s.catalogue.find? (fun e =>
    e.die == die && e.jid == jid && e.uid != uid && (write || e.write) && mayMeet e.foot foot)

/-- Entries of a catalogue (R335). -/
def catCount (s : State) (die : Nat) : Nat := (s.catalogue.filter (fun e => e.die == die)).length

/-- A bind registers in the catalogues that are left, in order, until one makes it wait (R260): the state, the
dies left, and the reason and object of the wait. -/
def registerIn (f : Frond) (w : Nat) (d : BitVec 512) : List Nat → State → State × List Nat × Option (Nat × Nat)
  | [], s => (s, [], none)
  | die :: dies, s =>
    let foot := footOf d
    match blocking s die f.jid f.uid foot (viewWrite d) with
    | some e => (s, die :: dies, some (4, e.fid % 2 ^ 48))
    | none =>
      if 4096 ≤ catCount s die then (s, die :: dies, some (5, die))
      else
        let e : CatEntry := { die := die, jid := f.jid, uid := f.uid, fid := f.fid, w := w, foot := foot
                              write := viewWrite d, scope := viewScope d }
        registerIn f w d dies { s with catalogue := s.catalogue ++ [e] }

/-- View register `w` of a frond holds a descriptor. -/
def setView (f : Frond) (w : Nat) (d : Option (BitVec 512)) : Frond := { f with views := f.views.set w d }

/-- The descriptor of view register `w`, when it is live. -/
def viewOf (f : Frond) (w : Nat) : Option (BitVec 512) := (f.views[w]?).join

/-- The frond of a bind that waits at a catalogue, with the reason and the object of its wait: its claims end (R235, R260). -/
def bindParked (clk : Nat) (f : Frond) (x : Nat × Nat) : Frond :=
  { f with wait := .park x.1 x.2 0, claims := [], since := if f.wait == .park x.1 x.2 0 then f.since else clk }

/-- A bind goes on: it completes its `wbind`, or its frond is parked on what makes it wait; `some r` is the
request that still waits. -/
def tryBind (s : State) (f : Frond) (r : BindReq) : State × Frond × Option BindReq :=
  match registerIn f r.w r.desc r.dies s with
  | (s, dies, some x) =>
    (s, bindParked s.clk f x, some { r with dies := dies, at_ := if dies = r.dies then r.at_ else s.clk })
  | (s, _, none) =>
    let f := { setView f r.w (some r.desc) with wait := .run, notBefore := s.clk + 1 }
    let c := complete s (useHeld f.hnd f) r.hints none ((fetchedWord s f).getD 0)
    (c.1, c.2, none)

/-- The order in which requests have reached a catalogue: by cycle, then by `pcid` (R336). -/
def bindOrder (s : State) (a b : BindReq) : Bool :=
  let core := fun (r : BindReq) => ((findFrond s r.uid).map (fun f => f.pcid)).getD 0
  decide (a.at_ < b.at_) || (a.at_ == b.at_ && decide (core a ≤ core b))

/-- The binds that wait at one catalogue are examined again in their order, each against the catalogue as those before
it have left it: the state without those that registered there, which are listed (R336). -/
def reexamineAt (die : Nat) : List BindReq → State → List BindReq → State × List BindReq
  | [], s, moved => (s, moved)
  | r :: rs, s, moved =>
    match findFrond s r.uid with
    | none => reexamineAt die rs { s with binds := s.binds.filter (fun b => b != r) } moved
    | some f =>
      match registerIn f r.w r.desc [die] s with
      | (s, _, some x) => reexamineAt die rs (updFrond s r.uid (fun _ => bindParked s.clk f x)) moved
      | (s, _, none) =>
        reexamineAt die rs { s with binds := s.binds.filter (fun b => b != r) }
          (moved ++ [{ r with dies := r.dies.drop 1 }])

/-- The binds that have registered go on to the catalogues that they have still to reach. -/
def moveBinds : List BindReq → State → State
  | [], s => s
  | r :: rs, s =>
    match findFrond s r.uid with
    | none => moveBinds rs s
    | some f =>
      let (s, f', r') := tryBind s f r
      let s := { updFrond s r.uid (fun _ => f') with binds := s.binds ++ r'.toList }
      moveBinds rs (refreshSpent s f.pcid)

/-- The waiting binds examined again after an entry has left: those of each catalogue in its own order, and then those
that go on to a further one, which they reach in this cycle (R336). -/
def wakeBinds (s : State) : State :=
  let p := (List.range 9).foldl (fun (p : State × List BindReq) die =>
    let here := sortBy (bindOrder p.1) (p.1.binds.filter (fun r => r.dies.head? == some die))
    reexamineAt die here p.1 p.2) (s, [])
  moveBinds (sortBy (bindOrder p.1) (p.2.map (fun r => { r with at_ := p.1.clk }))) p.1

/-- The entries of view register `w` of a frond leave every catalogue (R261, R336). -/
def dropEntries (s : State) (uid w : Nat) : State :=
  let keep := s.catalogue.filter (fun e => !(e.uid == uid && e.w == w))
  if keep.length = s.catalogue.length then s else wakeBinds { s with catalogue := keep }

end Sys2Proof.Machine
end

