-- ==== Sys2Proof/Machine/Channels.lean ====
section
/-! DEFINITION. Channels (R361 to R364): binding, sending, receiving, delivery and closing. -/

namespace Sys2Proof.Machine

/-- An unbound port. -/
def Chan.unboundPort : Chan := { state := .unbound, key := 0, peer := none, send := [], recv := [] }

/-- Channel port `n` of a frond. -/
def chanOf (f : Frond) (n : Nat) : Chan := f.chans.getD n Chan.unboundPort

/-- Channel port `n` of a frond changed. -/
def setChan (f : Frond) (n : Nat) (c : Chan) : Frond := { f with chans := f.chans.set n c }

/-- `einfo` of CHANNEL (R364). -/
def channelInfo (reason port : Nat) : Nat := reason * 2 ^ 12 + 0x90 + port

/-- The code of a port state (R361, R363). -/
def ChanState.code : ChanState → Nat
  | .unbound => 0
  | .binding => 1
  | .bound => 2
  | .closed => 3

/-- A frond Blocked on a receive from port `n` may issue again (R119, R129). -/
def wakeReceiver (s : State) (uid n : Nat) : State :=
  match findFrond s uid with
  | some f => if f.wait == .chan n then releaseFrond s uid else s
  | none => s

/-- A port is closed by its peer; a frond Blocked on it wakes and takes CHANNEL (R361, R362). -/
def closePort (s : State) (uid n : Nat) : State :=
  wakeReceiver (updFrond s uid (fun f => setChan f n { chanOf f n with state := .closed, peer := none })) uid n

/-- A key that two ports of a job hold already. -/
def keyPaired (s : State) (jid key : Nat) : Bool :=
  let has := fun (f : Frond) => f.jid == jid && f.chans.any (fun c => c.state == .bound && c.key == key)
  s.fronds.any has ||
  match s.issuing with
  | some f => has f
  | none => false

/-- `chbind` of port `n` of frond `f` to a nonzero key: the new state, or the reason of a CHANNEL (R361). -/
def bindPort (s : State) (f : Frond) (n key : Nat) : Except Nat State :=
  let die := key % 9
  if (chanOf f n).state == .bound || (chanOf f n).state == .binding then .error 2
  else if keyPaired s f.jid key then .error 1
  else
    match s.directory.find? (fun e => e.die == die && e.jid == f.jid && e.key == key) with
    | some e =>
      let join := fun (c : Chan) (peer : Nat × Nat) => { c with state := .bound, key := key, peer := some peer }
      let s := { s with directory := s.directory.filter (fun x => x != e) }
      let s := updFrond s e.uid (fun g => setChan g e.port (join (chanOf g e.port) (f.uid, n)))
      .ok (updFrond s f.uid (fun g => setChan g n (join Chan.unboundPort (e.uid, e.port))))
    | none =>
      if 1024 ≤ (s.directory.filter (fun e => e.die == die)).length then .error 5
      else
        let s := { s with directory := s.directory ++
          [{ die := die, jid := f.jid, key := key, uid := f.uid, port := n }] }
        .ok (updFrond s f.uid (fun g => setChan g n { Chan.unboundPort with state := .binding, key := key }))

/-- `chbind` with key 0: the port is unbound, its flits are discarded and its peer's port closes (R361). -/
def unbindPort (s : State) (f : Frond) (n : Nat) : State :=
  let c := chanOf f n
  let s := { s with directory := s.directory.filter (fun e => !(e.uid == f.uid && e.port == n)) }
  let s := { s with orphans := s.orphans.filter (fun o => !(o.1 == f.uid && o.2.1 == n)) }
  let s := updFrond s f.uid (fun g => setChan g n Chan.unboundPort)
  match c.state, c.peer with
  | .bound, some (u, p) => closePort s u p
  | _, _ => s

/-- The ports of an ending frond: binding ports leave the directory, and a bound port closes its peer once its
send queue has delivered (R361). -/
def endPort (s : State) (f : Frond) (n : Nat) : State :=
  let c := chanOf f n
  let s := { s with directory := s.directory.filter (fun e => !(e.uid == f.uid && e.port == n)) }
  let s := { s with orphans := s.orphans.filter (fun o => !(o.1 == f.uid && o.2.1 == n)) }
  match c.state, c.peer with
  | .bound, some (u, p) =>
    if u = f.uid then s
    else if c.send.isEmpty then closePort s u p
    else { s with orphans := s.orphans ++ [(u, p, c.send)] }
  | _, _ => s

/-- A flit moves to the receive queue of port `n` of a frond, if one waits and there is room (R362). -/
def deliverFlit (s : State) (uid n : Nat) : Option State :=
  (findFrond s uid).bind (fun f =>
    let c := chanOf f n
    if 8 ≤ c.recv.length then none
    else
      let put := fun (s : State) (x : Flit) =>
        wakeReceiver (updFrond s uid (fun g => setChan g n { chanOf g n with recv := (chanOf g n).recv ++ [x] })) uid n
      match s.orphans.find? (fun o => o.1 == uid && o.2.1 == n) with
      | some (_, _, x :: xs) =>
        let rest := s.orphans.filter (fun o => !(o.1 == uid && o.2.1 == n))
        if xs.isEmpty then some (closePort (put { s with orphans := rest } x) uid n)
        else some (put { s with orphans := (uid, n, xs) :: rest } x)
      | _ =>
        match c.state, c.peer with
        | .bound, some (u, p) =>
          (findFrond s u).bind (fun g =>
            match (chanOf g p).send with
            | [] => none
            | x :: xs =>
              some (put (updFrond s u (fun g => setChan g p { chanOf g p with send := xs })) x))
        | _, _ => none)

/-- A flit sent on port `n` of a frond: the frond with it queued, or the reason of a CHANNEL, or none when the
send queue is full (R129, R362). -/
def sendFlit (f : Frond) (n : Nat) (x : Flit) : Except Nat (Option Frond) :=
  let c := chanOf f n
  match c.state with
  | .unbound => .error 0
  | .closed => .error 3
  | _ => if 8 ≤ c.send.length then .ok none else .ok (some (setChan f n { c with send := c.send ++ [x] }))

/-- A flit received from port `n` of a frond: the bits and the frond, or the reason of a CHANNEL, or none when
the queue is empty (R129, R362). -/
def recvFlit (f : Frond) (n : Nat) (wide : Bool) : Except Nat (Option (Nat × Frond)) :=
  let c := chanOf f n
  match c.state, c.recv with
  | .unbound, _ => .error 0
  | .closed, [] => .error 3
  | _, [] => .ok none
  | _, x :: xs => if x.wide == wide then .ok (some (x.bits, setChan f n { c with recv := xs })) else .error 4

end Sys2Proof.Machine
end

