-- ==== Sys2Proof/Machine/Ends.lean ====
section
/-! DEFINITION. How fronds, stages and jobs end (R89, R158, R378, R398 to R401). -/

namespace Sys2Proof.Machine

/-- Every frond of the state, the one at issue included. -/
def allFronds (s : State) : List Frond :=
  match s.issuing with
  | some f => f :: s.fronds
  | none => s.fronds

/-- Elements that a frond holds (R452). -/
def heldCount (f : Frond) : Nat := f.held.length + f.heldH.length

/-! ## Semaphores (R366) -/

/-- A job's run of semaphores in a cluster. -/
def findRun (s : State) (cluster jid : Nat) : Option SemRun :=
  s.sems.find? (fun r => r.cluster == cluster && r.jid == jid)

/-- A job's run of semaphores changed. -/
def updRun (s : State) (cluster jid : Nat) (g : SemRun → SemRun) : State :=
  { s with sems := updFirst (fun r => r.cluster == cluster && r.jid == jid) g s.sems }

/-- The head of a semaphore's waiting list is granted while its count suffices (R366). -/
def semGrant (cluster jid index : Nat) : Nat → State → State
  | 0, s => s
  | fuel + 1, s =>
    match findRun s cluster jid with
    | none => s
    | some r =>
      match r.waiters.find? (fun w => w.index == index) with
      | none => s
      | some w =>
        let n := nth r.counts index
        if n < w.n then s
        else
          let s := updRun s cluster jid (fun r =>
            { r with counts := r.counts.set index (n - w.n), waiters := delFirst (fun x => x == w) r.waiters })
          semGrant cluster jid index fuel (resumeWord s w.uid w.hints)

/-- The semaphores on which a frond waited are granted again once it has left their lists (R366). -/
def grantAfter (s : State) (uid : Nat) (runs : List SemRun) : State :=
  (runs.flatMap (fun r => (r.waiters.filter (fun w => w.uid == uid)).map (fun w => (r, w)))).foldl
    (fun s x => semGrant x.1.cluster x.1.jid x.2.index x.1.waiters.length s) s

/-! ## Deques (R78) -/

/-- Entries that a core's deque can hold (R74). -/
def dequeCap (c : Core) : Nat := c.dequeLen / 32

/-- Entries in a core's deque (R74). -/
def dequeCount (c : Core) : Nat := (c.bot + 2 ^ 16 - c.top) % 2 ^ 16

/-- The fronds parked on a full deque, as many as it has room for, go on (R78). -/
def wakeForks (s : State) (pcid : Nat) : State :=
  let c := getCore s pcid
  releaseFirst (parkedFor s 7 (fun f obj => f.pcid == pcid && obj == pcid)) (dequeCap c - dequeCount c) s

/-! ## Fronds -/

/-- A frond's places in hold queues, semaphore lists, waiting lists and waiting binds are given up (R378). -/
def leaveQueues (s : State) (f : Frond) : State :=
  let drop := fun (c : Core) =>
    { c with holds := c.holds.map (fun q => { q with waiters := q.waiters.filter (fun w => w.uid != f.uid) })
             waitList := c.waitList.filter (fun w => w.uid != f.uid) }
  { s with
      cores := s.cores.map drop
      binds := s.binds.filter (fun b => b.uid != f.uid)
      sems := s.sems.map (fun r => { r with waiters := r.waiters.filter (fun w => w.uid != f.uid) })
      phases := s.phases.map (fun p => { p with waiters := p.waiters.filter (fun w => w.1 != f.uid) }) }

/-- A flight whose word has not issued, or waits at a port, ends with its frond (R230, R346, R378). -/
def endsWith (uid : Nat) (g : Flight) : Bool :=
  g.uid == uid && g.blocks.isSome && g.elems.any (fun e => !e.performed) && match g.op with
    | .sync _ _ => g.first.isSome
    | _ => true

/-- A frond ends (R378, R398, R399): its flags and errors go to its job, its ports are retired, its claims end, and
its slot and window are freed. The entries of views that it still has leave the catalogues once their releases allow
(R158). `count` is false when no further error is counted (R401). -/
def endFrond (s : State) (f : Frond) (count : Bool) : State :=
  let errs := f.storeErrs.length + heldCount f
  let s := updJob s f.jid (fun j =>
    { j with flt := j.flt ||| (f.flags &&& 0x7E#7), errors := j.errors + if count then errs else 0 })
  let s := (List.range 8).foldl (fun s n => endPort s f n) s
  let s := grantAfter (leaveQueues (delFrond s f.uid) f) f.uid s.sems
  let s := { s with flights := s.flights.filter (fun g => !endsWith f.uid g) }
  let s := updCore s f.pcid (fun c =>
    match f.slot? with
    | some n => { c with owed := c.owed.filter (fun x => x != n + 64 * f.urgent.toNat) }
    | none => c)
  refreshSpent (trimAll s) f.pcid

/-- The deque of a core holds an entry (R74). -/
def dequeNonempty (c : Core) : Bool := c.top != c.bot

/-- A core is bound to a stage. -/
def boundTo (c : Core) (jid pl snum : Nat) : Bool := c.bind == some { jid := jid, pl := pl, stage := snum }

/-- An urgent context of a core is of a stage. -/
def urgentOf (c : Core) (jid pl snum : Nat) : Bool :=
  match c.urgent with
  | some u => u.jid == jid && u.pl == pl && u.stage == snum
  | none => false

/-- The urgent context of a core has an item that no frond has taken. -/
def urgentItems (c : Core) : Bool :=
  match c.urgent with
  | some u => decide (u.lo < u.hi)
  | none => false

/-- A spore that a compare-and-swap has taken is on its way to the thief (R80). -/
def Steal.carries : Steal → Bool
  | .carrying _ _ _ => true
  | _ => false

/-- An untaken spore or item of a stage exists (R89). -/
def hasSpores (s : State) (jid pl snum : Nat) : Bool :=
  s.cores.any (fun c => (boundTo c jid pl snum && (dequeNonempty c || c.steal.carries)) || (urgentOf c jid pl snum && urgentItems c))

/-- The conditions of R89 and R400 for the completion of a stage. -/
def stageDone (s : State) (j : Job) (pl : Nat) (g : Stage) : Bool :=
  match j.pipes[pl]? with
  | none => false
  | some p =>
    !hasSpores s j.jid pl g.snum
    && !(allFronds s).any (fun f => f.jid == j.jid && f.pl == pl && f.stage == g.snum)
    && !s.copyqs.any (fun c => c.jid == j.jid && c.pl == pl && c.stage == g.snum)
    && p.queues.all (fun q =>
      (!endNames q.cons g.snum || (q.closed && q.occupancy == 0))
      && (!endNames q.prod g.snum || q.cons != 0xF || q.occupancy == 0))

/-- Stage `snum` completes and closes its output queues (R89). -/
def completeStage (s : State) (jid pl snum : Nat) : State :=
  let mark := fun (g : Stage) => if g.snum = snum then { g with completed := true } else g
  let s := updJob s jid (fun j => j.updPipe pl (fun p => { p with stages := p.stages.map mark }))
  match (findJob s jid).bind (fun j => j.pipes[pl]?) with
  | none => s
  | some p => (portQueues p snum Queue.prod).foldl (fun s q => closeQueue s jid pl q) s

/-- One pass over the stages of a job: each that meets its conditions completes. -/
def completeOnce (s : State) (jid : Nat) : State :=
  match findJob s jid with
  | none => s
  | some j =>
    (List.range j.pipes.length).foldl (fun s pl =>
      match j.pipes[pl]? with
      | none => s
      | some p => p.stages.foldl (fun s g =>
          match (findJob s jid).bind (fun j => (j.stage? pl g.snum).map (fun g => (j, g))) with
          | some (j, g) => if !g.completed && stageDone s j pl g then completeStage s jid pl g.snum else s
          | none => s) s) s

/-- Completions that follow one another: a pipeline has at most 16 stages. -/
def completeMany (jid : Nat) : Nat → State → State
  | 0, s => s
  | n + 1, s => completeMany jid n (completeOnce s jid)

/-- Every stage of a job has completed (R400). -/
def jobDone (j : Job) : Bool := j.pipes.all (fun p => p.stages.all (fun g => g.completed))

/-- The fronds of a job end one after another. -/
def endFronds (count : Bool) : List Frond → State → State
  | [], s => s
  | f :: fs, s =>
    match findFrond s f.uid with
    | some f => endFronds count fs (endFrond s f count)
    | none => endFronds count fs s

/-- What is left of a suspended job when a CANCEL retires it (R402): the counters of its latest image go into its sums, and
its images, its fronds and their waiting operations are discarded. -/
def dropImage (s : State) (jid : Nat) : State :=
  let s : State := match (s.images.filter (fun i => i.jid == jid)).getLast? with
    | some i => i.engines.foldl (fun (s : State) (e : Engine) => addCounters s jid e.main) s
    | none => s
  let mine := (s.fronds.filter (fun f => f.jid == jid)).map (fun f => f.uid)
  { s with
      images := s.images.filter (fun i => i.jid != jid)
      fronds := s.fronds.filter (fun f => f.jid != jid)
      flights := s.flights.filter (fun g => g.jid != jid)
      copyqs := s.copyqs.filter (fun c => c.jid != jid)
      phases := s.phases.filter (fun p => p.jid != jid)
      binds := s.binds.filter (fun b => !mine.contains b.uid)
      orphans := s.orphans.filter (fun o => !mine.contains o.1) }

/-- A job whose image alone is left: it is suspended, or its resumption has not happened (R383 to R385). -/
def Job.inImage (j : Job) : Bool :=
  match j.phase with
  | .suspended _ => true
  | .resuming _ => true
  | _ => false

/-- Retirement begins (R401): the status is fixed, and step 1 ends every remaining frond. `st` is none for an
ending without a record (R54, R442). -/
def beginRetire (s : State) (jid : Nat) (st : Option Nat) : State :=
  match findJob s jid with
  | none => s
  | some j =>
    if !j.live then s
    else
      let s := updJob s jid (fun j => { j with phase := .retiring st })
      if j.inImage then dropImage s jid
      else
        let s := { s with
          phases := s.phases.filter (fun p => p.jid != jid || p.parts.all (fun c => p.arrived.contains c)) }
        endFronds false ((allFronds s).filter (fun f => f.jid == jid)) s

/-- Stages complete as far as they can, and a job all of whose stages have completed begins to retire with
status OK (R89, R400, R401). -/
def settleJob (s : State) (jid : Nat) : State :=
  match findJob s jid with
  | none => s
  | some j =>
    if j.phase == .running then
      let s := completeMany jid 17 s
      match findJob s jid with
      | some j => if jobDone j then beginRetire s jid (some 0x00) else s
      | none => s
    else s

/-- The untaken items and spores of a stage are discarded: its cores' deques become empty and the elements of
its input queues are gone (R378 level 1). -/
def discardWork (s : State) (jid pl snum : Nat) : State :=
  let clear := fun (c : Core) =>
    if boundTo c jid pl snum then
      { c with top := c.bot, tag := (c.tag + 1) % 2 ^ 32, spores := []
               steal := if c.steal.carries then .idle else c.steal }
    else if urgentOf c jid pl snum then { c with urgent := c.urgent.map (fun u => { u with lo := u.hi }) }
    else c
  let s := { s with cores := s.cores.map clear }
  let s := (s.cores.map (fun c => c.pcid)).foldl wakeForks s
  updJob s jid (fun j => j.updPipe pl (fun p =>
    { p with queues := p.queues.map (fun q => if endNames q.cons snum then
        { q with closed := true, segs := q.segs.map (fun g => { g with elems := [] }) } else q) }))

/-- Stage `snum`, whose fronds have been ended, completes: at once, or when what they have issued is performed, a `cpyq`
or the writes of a sink (R271, R378, R400). -/
def completeEnded (s : State) (jid pl snum : Nat) : State :=
  match (findJob s jid).bind (fun j => (j.stage? pl snum).map (fun g => (j, g))) with
  | some (j, g) => if stageDone s j pl g then completeStage s jid pl snum else s
  | none => s

/-- The fronds of stages that meet `p` end, and those stages complete (R378 levels 1 and 2). -/
def endStages (s : State) (jid pl : Nat) (p : Nat → Bool) : State :=
  match (findJob s jid).bind (fun j => j.pipes[pl]?) with
  | none => s
  | some pipe =>
    let snums := (pipe.stages.map (fun g => g.snum)).filter p
    let s := endFronds true ((allFronds s).filter (fun f => f.jid == jid && f.pl == pl && p f.stage)) s
    snums.foldl (fun s n =>
      let s := discardWork s jid pl n
      let ins := match (findJob s jid).bind (fun j => j.pipes[pl]?) with
        | some pp => portQueues pp n Queue.cons
        | none => []
      let s := ins.foldl (fun s q =>
        match theQueue s jid pl q with
        | some x => wakePushes s jid pl x
        | none => s) s
      completeEnded s jid pl n) s

/-- A frond is ended under its fault domain, at least at level `least`; the job's error count rises by 1
(R377, R378). -/
def endDomain (s : State) (f : Frond) (least : Nat) : State :=
  let level := match stageOf s f with
    | some g => Nat.max g.fdom least
    | none => least
  let s := addErrors s f.jid 1
  if level = 0 then settleJob (endFrond s f true) f.jid
  else if level = 1 then settleJob (endStages s f.jid f.pl (fun n => n == f.stage)) f.jid
  else if level = 2 then settleJob (endStages s f.jid f.pl (fun _ => true)) f.jid
  else
    let errs := ((allFronds s).filter (fun x => x.jid == f.jid)).map (fun x => x.storeErrs.length + heldCount x)
    beginRetire (addErrors s f.jid errs.sum) f.jid (some 0x0C)

end Sys2Proof.Machine
end

