-- ==== Sys2Proof/Machine/Order.lean ====
section
/-! DEFINITION. What orders accesses: scopes and boundaries (R7, R320), releases (R253, R328), location edges
(R322, R323, R333), arrival bits (R225) and vector clocks (R326). -/

namespace Sys2Proof.Machine

/-- Scope codes of R104. -/
abbrev scopeF : Nat := 0
abbrev scopeC : Nat := 1
abbrev scopeK : Nat := 2
abbrev scopeD : Nat := 3
abbrev scopeP : Nat := 4
abbrev scopeS : Nat := 5

/-- Path codes of R244. -/
abbrev pathCORE : Nat := 0
abbrev pathCOPY : Nat := 1
abbrev pathMATRIX : Nat := 2
abbrev pathGATHER : Nat := 3
abbrev pathREDUCE : Nat := 4
abbrev pathSHIP : Nat := 5

/-- Two cores lie within one scope (R7). -/
def sameScope (scope a b : Nat) : Bool :=
  match scope with
  | 0 => a == b
  | 1 => a == b
  | 2 => clusterOf a == clusterOf b
  | 3 => dieOf a == dieOf b
  | _ => true

/-- A home lies within a scope of a core (R320): memory only within p and s. -/
def homeWithin (s : State) (scope pcid : Nat) (p : Place) : Bool :=
  match portOf s p with
  | some h => sameScope scope pcid h
  | none => decide (4 ≤ scope)

/-- When a store reaches the boundary of a scope narrower than p, in cycles after its issue (R320, R450). -/
def boundary (scope : Nat) : Nat := if scope ≤ 1 then 12 else if scope = 2 then 32 else 80

/-- A store element counts at a scope: performed at a home within it, or past the boundary it crosses first
(R320). At p and s it counts when its acknowledgement has removed its flight. -/
def counted (s : State) (g : Flight) (e : Elem) (scope : Nat) : Bool :=
  if 4 ≤ scope then false
  else e.performed || (!homeWithin s scope g.pcid e.place && decide (g.issued + boundary scope ≤ s.clk))

/-- A flight no longer holds back a release at a scope (R320). -/
def flightCounts (s : State) (g : Flight) (scope : Nat) : Bool :=
  match g.op with
  | .store => g.elems.all (fun e => counted s g e scope)
  | .sync _ _ => g.dest == .none && g.elems.all (fun e => counted s g e scope)
  | .scadd _ => g.elems.all (fun e => counted s g e scope)
  | .value _ => true
  | .qstat _ _ => true
  | .load _ _ => false
  | .rmw _ _ _ _ _ => false
  | .join => false
  | .bind _ => false
  | .touch => false
  | .pin _ => false
  | .operand _ => false

/-- Every earlier access of a frond on the paths `on` has been performed at every party of a scope (R320, R328). -/
def released (s : State) (uid : Nat) (on : Nat → Bool) (scope : Nat) : Bool :=
  s.flights.all (fun g => g.uid != uid || !on g.path || flightCounts s g scope)

/-- Every earlier load of a frond on the paths `on` has landed (R329). -/
def loadsLanded (s : State) (uid : Nat) (on : Nat → Bool) : Bool :=
  s.flights.all (fun g => g.uid != uid || !on g.path ||
    match g.op with
    | .load _ _ => false
    | .rmw _ _ _ _ _ => false
    | _ => true)

/-- A store of a frond has not been acknowledged (R231, R250). -/
def hasStores (s : State) (uid : Nat) : Bool :=
  s.flights.any (fun g => g.uid == uid &&
    match g.op with
    | .store => true
    | .scadd _ => true
    | .sync _ _ => true
    | _ => false)

/-- An acquire of a frond has not landed (R253). -/
def acquiring (s : State) (uid : Nat) : Bool := s.flights.any (fun g => g.uid == uid && g.acq.isSome)

/-! ## Location edges -/

/-- The operation of a flight writes the bytes of its elements. -/
def FlightOp.writes : FlightOp → Bool
  | .store => true
  | .rmw _ _ _ _ _ => true
  | .join => true
  | .sync _ _ => true
  | .scadd _ => true
  | _ => false

/-- The operation of a flight reads the bytes of its elements. -/
def FlightOp.reads : FlightOp → Bool
  | .load _ _ => true
  | .rmw _ _ _ _ _ => true
  | .join => true
  | .sync _ _ => true
  | .scadd _ => true
  | .bind _ => true
  | .operand _ => true
  | _ => false

/-- The footprint of an element: that of its view, or its bytes (R333, R334). -/
def elemFoot (g : Flight) (e : Elem) : Foot :=
  match g.view with
  | some v => v.1
  | none => plainFoot e.va e.size

/-- An earlier element of the frond must be performed before element `e` of flight `h` (R322, R323). -/
def elemBefore (g : Flight) (x : Elem) (h : Flight) (e : Elem) : Bool :=
  let core := g.path == pathCORE && h.path == pathCORE
  let plainStoreLoad := g.op.writes && !g.op.reads && !h.op.writes
  !x.performed &&
    ((overlap x.place x.size e.place e.size && (core || !plainStoreLoad))
      || (core && (g.view.isSome || h.view.isSome) && (g.op.writes || h.op.writes)
        && mayMeet (elemFoot g x) (elemFoot h e)))

/-- An earlier flight of the same frond must be performed before element `e` of flight `h`. -/
def flightBefore (g : Flight) (h : Flight) (e : Elem) : Bool :=
  g.uid == h.uid && decide (g.id < h.id) && g.elems.any (fun x => elemBefore g x h e)

/-- Lanes of one word that write the same bytes are performed in ascending order (R251, R263, R273). -/
def laneBefore (h : Flight) (k : Nat) (e : Elem) : Bool :=
  h.op.writes && (h.elems.take k).any (fun x => !x.performed && overlap x.place x.size e.place e.size)

/-- A store of a group-0xA word of the frond that the engine has still to make (R301, R322). -/
def engineBefore (s : State) (h : Flight) (e : Elem) : Bool :=
  h.op.writes && s.engines.any (fun n => n.queue.any (fun w =>
    w.uid == h.uid && decide (w.id < h.id) && w.elems.any (fun x => overlap x.place x.size e.place e.size)))

/-- The span of a copy's region in bytes (R268). -/
def copySpan (c : Copy) : Nat := (c.e2 - 1) * c.str2 + (c.e1 - 1) * c.str1 + c.ext0

/-- The bytes of a copy, which are numbered in local-store order (R268). -/
def copyBytes (c : Copy) : Nat := c.e2 * c.e1 * c.ext0

/-- The distance from region byte (0, 0, 0) of byte `t` of a shape, in local-store order (R268). -/
def shapeOff (ext0 e1 str1 str2 t : Nat) : Nat :=
  t / ext0 / e1 * str2 + t / ext0 % e1 * str1 + t % ext0

/-- The region byte of byte `t` of a copy, as a distance from its first byte. -/
def copyOff (c : Copy) (t : Nat) : Nat := shapeOff c.ext0 c.e1 c.str1 c.str2 t

/-- A copy has still to write byte `t`: its aligned piece of the region, or its local-store line (R269, R319). -/
def copyUndone (c : Copy) (t : Nat) : Bool :=
  if c.out then !c.moved.contains ((c.pa + copyOff c t) / 8) else c.lines.contains ((c.ls + t) / 128)

/-- Byte `t` of some reads made ahead has been read. -/
def hasGot (got : List (Nat × Byte)) (t : Nat) : Bool := got.any (fun x => x.1 == t)

/-- The place of byte `t` of a copy at its source, and at its destination (R268). -/
def copySource (c : Copy) (t : Nat) : Place := if c.out then .ls (c.ls + t) else .hbm (c.pa + copyOff c t)

def copyDest (c : Copy) (t : Nat) : Place := if c.out then .hbm (c.pa + copyOff c t) else .ls (c.ls + t)

/-- A copy has still to read some of `n` bytes at a place. -/
def copyReads (c : Copy) (p : Place) (n : Nat) : Bool :=
  (List.range (copyBytes c)).any (fun t => copyUndone c t && !hasGot c.got t && overlap (copySource c t) 1 p n)

/-- A copy out of local store has still to write some of `n` bytes at a place of its region. The lines that a copy brings are
held by their arrival bits alone (R225). -/
def copyWrites (c : Copy) (p : Place) (n : Nat) : Bool :=
  c.out && (List.range (copyBytes c)).any (fun t => copyUndone c t && overlap (copyDest c t) 1 p n)

/-- The barrier addition of a copy is still to be made at some of `n` bytes at a place (R270). -/
def copyAdds (c : Copy) (p : Place) (n : Nat) : Bool :=
  match c.bar with
  | some w => overlap (.ls w) 8 p n
  | none => false

/-- A `cpyq` has still to read some of `n` bytes at a place (R271). -/
def copyqReads (c : CopyQ) (p : Place) (n : Nat) : Bool :=
  (List.range (c.e2 * c.e1 * c.ext0)).any (fun t => decide (c.pos ≤ t) && !hasGot c.got t
    && overlap (.hbm (c.pa + shapeOff c.ext0 c.e1 c.str1 c.str2 t)) 1 p n)

/-- A copy of a frond, named before `id`, has still to write some of `n` bytes at a place, when `write`, or to read some of
them (R269 to R271, R322). -/
def copyPending (s : State) (uid id : Nat) (write : Bool) (p : Place) (n : Nat) : Bool :=
  s.copies.any (fun c => c.uid == uid && decide (c.id < id)
    && ((write && (copyWrites c p n || copyAdds c p n)) || copyReads c p n))
  || s.copyqs.any (fun c => c.uid == uid && decide (c.id < id) && copyqReads c p n)

/-- The operation of a flight gives the bytes of its elements a value: a synchronising one that only tests its word, or only
empties it, does not (R355, R367). -/
def FlightOp.stores : FlightOp → Bool
  | .sync op _ => !(op == .ldf || op == .lde || op == .bwait)
  | op => op.writes

/-- An earlier copy of the frond must be performed before element `e` of flight `h`: it has still to write bytes that
`h` writes, or to read bytes that `h` touches (R322). -/
def copyBefore (s : State) (h : Flight) (e : Elem) : Bool := copyPending s h.uid h.id h.op.stores e.place e.size

/-- A store of another frond that may have been counted at a scope that holds both cores must be performed before an
access that core `pcid` made in cycle `issued` (R320). -/
def boundaryHolds (s : State) (uid pcid issued : Nat) (p : Place) (n : Nat) : Bool :=
  s.flights.any (fun g => g.uid != uid && g.op.writes && g.elems.any (fun x =>
    !x.performed && overlap x.place x.size p n && [scopeC, scopeK, scopeD].any (fun c =>
      sameScope c g.pcid pcid && !homeWithin s c g.pcid x.place && decide (g.issued + boundary c ≤ issued))))

/-! ## When an element may be performed -/

/-- The least cycle in which an element may be performed (R450). -/
def elemDue (s : State) (h : Flight) (e : Elem) : Nat := h.due + (distPlace s h.pcid e.place).half

/-- Element `k` of a flight may be performed now, as far as order is concerned. -/
def inOrder (s : State) (h : Flight) (k : Nat) (e : Elem) : Bool :=
  !laneBefore h k e
    && s.flights.all (fun g => !flightBefore g h e) && !boundaryHolds s h.uid h.pcid h.issued e.place e.size
    && !engineBefore s h e && !copyBefore s h e

/-- The bytes of a place are not among the lines that a fill in flight has still to bring (R230), and no pick of this cycle
has evicted their block (R237). -/
def blockLanded (s : State) : Place → Bool
  | .walk jid block off _ =>
    (residentAt s jid block).isSome
      || (!fillOf s jid block && !goneNow s jid block) || (landedAt s jid block off).isSome
  | _ => true

/-- A WALK element may be performed: its block is resident, or the access is one that memory may serve, or that waits
only for the line of a fill that it touches (R230), or it is an `unpin`, which fetches nothing (R256). -/
def walkReady (s : State) (h : Flight) (e : Elem) (urgent : Bool) : Bool :=
  match e.place with
  | .walk jid block off _ =>
    (residentAt s jid block).isSome || h.op == .pin false ||
    ((urgent || h.path != pathCORE) && blockLanded s (.walk jid block off 0))
  | _ => true

/-- A request of a word that has not issued, and of which nothing is performed (R230). -/
def requestOnly (g : Flight) : Bool :=
  g.blocks.isSome && g.elems.all (fun e => !e.performed) && match g.op with
    | .sync _ _ => false
    | .join => false
    | _ => true

/-- The blocked request of a frond that is Frozen, or whose job does not run: its word has not issued, and does not meanwhile
(R131, R230, R317, R383). -/
def requestFrozen (s : State) (h : Flight) : Bool :=
  requestOnly h && match findFrond s h.uid with
    | some f => isFrozen s f || !mayRun s f
    | none => false

/-- A synchronising operation that holds no frond at its port (R345, R355). -/
def storeSync (op : SyncOp) : Bool := op == .sto || op == .clrf || op == .barv || op == .bexp

/-- A new request has reached a local-store word among `n` bytes in this cycle: a write there comes in a later one
(R347). -/
def arrivedAt (s : State) (a n : Nat) : Bool := (unitsOf a n 8).any (fun w => s.arrivals.contains (8 * w))

/-- An element that writes a word which a new request has reached in this cycle. -/
def lateWrite (s : State) (h : Flight) (e : Elem) : Bool :=
  (match h.op with
    | .sync op _ => storeSync op
    | op => op.writes) &&
  match resolve s e.place with
  | .ls a => arrivedAt s a e.size
  | _ => false

/-- The flight of a frond of an urgent context. -/
def urgentFlight (s : State) (h : Flight) : Bool := ((findFrond s h.uid).map (fun f => f.urgent)).getD false

/-- Element `k` of a flight may be performed now, as far as its own conditions go. -/
def elemReady (s : State) (h : Flight) (k : Nat) (e : Elem) : Bool :=
  let urgent := urgentFlight s h
  !e.performed && !requestFrozen s h && decide (elemDue s h e ≤ s.clk) && inOrder s h k e && walkReady s h e urgent
    && arrived s h.uid h.id e.place e.size && !lateWrite s h e

/-! ## Vector clocks -/

/-- A value of a 32-bit counter is at or after another, in serial-number order (R326). -/
def serialGe (a b : Nat) : Bool := decide ((a + 2 ^ 32 - b) % 2 ^ 32 < 2 ^ 31)

/-- The die of a place of this package, when it is not die `die` (R326). -/
def otherDie (s : State) (die : Nat) (p : Place) : Option Nat := (diePlace s p).bind (fun d => if d = die then none else some d)

/-- The die that a store element is bound for, when it is not the issuing die (R326). An `stf` is applied when it arrives,
and is then its port's to perform (R346). -/
def crossDie (s : State) (g : Flight) (e : Elem) : Option Nat :=
  match g.op with
  | .store => otherDie s (dieOf g.pcid) e.place
  | .sync op _ =>
    if (op == .sto || op == .clrf || op == .barv || op == .stf) && !e.applied then otherDie s (dieOf g.pcid) e.place
    else none
  | _ => none

/-- The aligned pieces of the region, by PA / 8, that a copy out of local store has still to write (R319, R321; log
entry 89). -/
def copyLeft (c : Copy) : List Nat :=
  if c.out then
    ((List.range (copyBytes c)).filter (copyUndone c)).foldl (fun acc t => setAdd ((c.pa + copyOff c t) / 8) acc) []
  else []

/-- The die that piece `k` of a copy is bound for, when it is not the issuing die (R326). -/
def copyDie (s : State) (c : Copy) (k : Nat) : Option Nat := otherDie s (dieOf c.pcid) (.hbm (8 * k))

/-- The elements of a phase that have still to be merged (R275, R319). -/
def mergeLeft (p : Phase) : List Nat := (List.range p.n).filter (fun i => !p.merged.contains i)

/-- The places that the merge of element `i` writes: the target's, and the copy of each participant (R275). -/
def mergePlaces (p : Phase) (i : Nat) : List Place :=
  (p.places[i]?).toList ++ p.parts.map (fun c => .ls (c * 2 ^ 20 + p.copy + 4 * i))

/-- The dies that the stores of element `i` of a merge are bound for, but for the die of the core that opened the phase,
whose clock they carry (R326; log entry 89). -/
def mergeDies (s : State) (p : Phase) (i : Nat) : List Nat :=
  ((mergePlaces p i).filterMap (otherDie s (dieOf p.opener))).foldl (fun acc d => setAdd d acc) []

/-- The stores bound for die `d` that it has still to apply, each by its issuing die and the clock that it carries: those
of words, of copies and of merges (R326). -/
def unapplied (s : State) (d : Nat) : List (Nat × List Nat) :=
  s.flights.flatMap (fun g =>
    (g.elems.filter (fun x => !x.applied && !x.performed && crossDie s g x == some d)).map
      (fun x => (dieOf g.pcid, x.clock)))
  ++ s.copies.flatMap (fun c => if c.clock.isEmpty then [] else
      ((copyLeft c).filter (fun t => copyDie s c t == some d)).map (fun _ => (dieOf c.pcid, c.clock)))
  ++ s.phases.flatMap (fun p => if p.clock.isEmpty then [] else
      ((mergeLeft p).filter (fun i => (mergeDies s p i).contains d)).map (fun _ => (dieOf p.opener, p.clock)))

/-- Every store that a clock carried from die `src` counts, from every die, and that is bound for die `d` has been
applied (R326). -/
def clockReady (s : State) (src : Nat) (clock : List Nat) (d : Nat) : Bool :=
  (unapplied s d).all (fun u => u == (src, clock) || !serialGe (nth clock u.1) (nth u.2 u.1))

/-- A die has 2^30 stores to another die that are not yet applied there (R326). -/
def clockFull (s : State) (die dest : Nat) : Bool :=
  decide (2 ^ 30 ≤ ((unapplied s dest).filter (fun u => u.1 == die)).length)

/-- A die stops issuing stores to places on a die that has 2^30 of its stores still to apply (R326). -/
def clockStops (s : State) (die : Nat) (ps : List Place) : Bool :=
  ps.any (fun p => ((otherDie s die p).map (clockFull s die)).getD false)

/-- An access of an urgent context to the port of a place is ready there (R243). -/
def urgentWaits (s : State) (p : Place) : Bool :=
  match portOf s p with
  | none => false
  | some port => s.flights.any (fun g => urgentFlight s g && g.op != .join && g.first.isNone
      && g.elems.zipIdx.any (fun x => portOf s x.1.place == some port && elemReady s g x.2 x.1
        && match crossDie s g x.1 with
          | some d => clockReady s (dieOf g.pcid) x.1.clock d
          | none => true))

/-- Element `k` of a flight may be performed now. A port serves the requests of urgent contexts ahead of all others
(R243). -/
def mayPerform (s : State) (h : Flight) (k : Nat) (e : Elem) : Bool :=
  elemReady s h k e && (urgentFlight s h || !urgentWaits s e.place)

/-- The clock of a die after it has issued `n` cross-die stores, and the state with it (R326). -/
def stampClocks (s : State) (die n : Nat) : List Nat × State :=
  let row := ((s.clocks[die]?).getD []).modify die (fun x => (x + n) % 2 ^ 32)
  (row, { s with clocks := s.clocks.set die row })

/-- The elements of a flight, each cross-die store with its own count of its die (R319, R326). -/
def stampElems (s : State) (g : Flight) : List Elem → State × List Elem
  | [] => (s, [])
  | e :: es =>
    let k : List Nat × State := if (crossDie s g e).isSome then stampClocks s (dieOf g.pcid) 1 else ([], s)
    let r := stampElems k.2 g es
    (r.1, { e with clock := k.1 } :: r.2)

/-- Die `d` has applied one more store from die `src` (R326). -/
def noteApplied (s : State) (d src : Nat) : State :=
  let row := (s.clocks[d]?).getD []
  { s with clocks := s.clocks.set d (row.modify src (fun x => (x + 1) % 2 ^ 32)) }

end Sys2Proof.Machine
end

