-- ==== Sys2Proof/Machine/Operands.lean ====
section
/-! DEFINITION. The operand space (R110 to R112): what a 9-bit field names, phase-4 admission (R99 to R101),
reads and writes of registers, ports, predicates and special operands, and held operands (R452). -/

namespace Sys2Proof.Machine

/-- What a 9-bit operand value names (R110). -/
inductive Operand where
  | reg (n : Nat)
  | vec (n : Nat)
  | chan (n : Nat)
  | inPort (n : Nat)
  | outPort (n : Nat)
  | view (n : Nat)
  | pred (n : Nat)
  | acc (n : Nat)
  | mask (n : Nat)
  | zero
  /-- 0x0D1 `fid` to 0x0DE `sseed`. -/
  | special (n : Nat)
  | imm (x : Word)
  | unassigned
  deriving DecidableEq, Repr

/-- The operand that a value names (R110). -/
def operandOf (o : Opnd) : Operand :=
  let v := o.toNat
  if v < 0x80 then .reg v
  else if v < 0x90 then .vec (v - 0x80)
  else if v < 0x98 then .chan (v - 0x90)
  else if v < 0x9C then .inPort (v - 0x98)
  else if v < 0xA0 then .outPort (v - 0x9C)
  else if v < 0xA4 then .view (v - 0xA0)
  else if v < 0xB0 then .unassigned
  else if v < 0xC0 then .pred (v - 0xB0)
  else if v < 0xC4 then .acc (v - 0xC0)
  else if v < 0xCC then .mask (v - 0xC4)
  else if v < 0xD0 then .unassigned
  else if v = 0xD0 then .zero
  else if v < 0xDF then .special v
  else if v < 0x100 then .unassigned
  else .imm ((o.setWidth 8).signExtend 64)

/-- The positions of an operand field (R110). -/
inductive Position where
  /-- A scalar source. -/
  | g
  /-- A scalar destination. -/
  | gw
  /-- A scalar destination that is also a source. -/
  | grw
  /-- A written D that must be a general register or `zero` (R245). -/
  | gres
  /-- The same, where every other value is REASON 1 (R343, R388). -/
  | gonly
  /-- The same, read as well (`acas`). -/
  | gresRead
  | v
  /-- A vector destination that is also a source. -/
  | vrw
  | vw
  | vres
  | q
  | w
  | m
  | k
  /-- An object field: operand values `lo` to `hi` (R357, R149). -/
  | obj (lo hi : Nat)
  deriving DecidableEq, Repr

/-- One operand field of a word: POS of R112, its position, its value. -/
structure Field where
  pos : Nat
  kind : Position
  value : Opnd
  deriving DecidableEq, Repr

/-- The queue on a queue port of a frond: input ports 0x098 to 0x09B, output ports 0x09C to 0x09F. -/
def portQueue (s : State) (f : Frond) (v : Nat) : Option Nat :=
  match findJob s f.jid with
  | none => none
  | some j => if v < 0x9C then inQueue j f.pl f.stage (v - 0x98) else outQueue j f.pl f.stage (v - 0x9C)

/-- The queue on a port, with its number. -/
def portQueueOf (s : State) (f : Frond) (v : Nat) : Option (Nat × Queue) :=
  (portQueue s f v).bind (fun n => (theQueue s f.jid f.pl n).map (fun q => (n, q)))

/-- A queue port in a scalar or a vector position: REASON of R112 when its queue is absent or its size
differs. -/
def portReason (s : State) (f : Frond) (v esz : Nat) : Option Nat :=
  match portQueueOf s f v with
  | none => some 3
  | some (_, q) => if q.esz = esz then none else some 3

/-- A special operand that has a write effect (R110). -/
def specialWritable (n : Nat) : Bool := decide (0xD9 ≤ n ∧ n ≤ 0xDC)

/-- REASON for which a value is refused in a scalar position (R110, R112). -/
def scalarReason (s : State) (f : Frond) (o : Opnd) (rd wr : Bool) : Option Nat :=
  match operandOf o with
  | .reg n => if f.regs ≤ n then some 2 else none
  | .chan _ => none
  | .inPort _ => if wr then some 4 else portReason s f o.toNat 3
  | .outPort _ => if rd then some 4 else portReason s f o.toNat 3
  | .zero => none
  | .special n => if wr && !specialWritable n then some 4 else none
  | .imm _ => if wr then some 4 else none
  | .unassigned => some 0
  | _ => some 1

/-- REASON for which a value is refused in a vector position (R110, R112). -/
def vectorReason (s : State) (f : Frond) (o : Opnd) (rd wr : Bool) : Option Nat :=
  match operandOf o with
  | .vec n => if f.regs ≤ 8 * n + 7 then some 2 else none
  | .chan _ => none
  | .inPort _ => if wr then some 4 else portReason s f o.toNat 6
  | .outPort _ => if rd then some 4 else portReason s f o.toNat 6
  | .zero => none
  | .imm _ => if wr then some 4 else none
  | .unassigned => some 0
  | _ => some 1

/-- REASON for which a value is refused where only one class of operand is allowed. -/
def classReason (o : Opnd) (ok : Bool) : Option Nat :=
  if ok then none else if operandOf o = .unassigned then some 0 else some 1

/-- REASON for which a value is refused where a general register or `zero` must stand (R343, R388). -/
def onlyReason (f : Frond) (o : Opnd) : Option Nat :=
  match operandOf o with
  | .reg n => if f.regs ≤ n then some 2 else none
  | .zero => none
  | _ => some 1

/-- REASON for which a field's value is refused in phase 4 (R110, R112, R245, R357). -/
def fieldReason (s : State) (f : Frond) (x : Field) : Option Nat :=
  let o := x.value
  match x.kind with
  | .g => scalarReason s f o true false
  | .gw => scalarReason s f o false true
  | .grw => scalarReason s f o true true
  | .gres =>
    match operandOf o with
    | .reg n => if f.regs ≤ n then some 2 else none
    | .zero => none
    | .unassigned => some 0
    | _ => some 1
  | .gonly => onlyReason f o
  | .gresRead => onlyReason f o
  | .v => vectorReason s f o true false
  | .vrw => vectorReason s f o true true
  | .vw => vectorReason s f o false true
  | .vres =>
    match operandOf o with
    | .vec n => if f.regs ≤ 8 * n + 7 then some 2 else none
    | .zero => none
    | .unassigned => some 0
    | _ => some 1
  | .q => classReason o (match operandOf o with
    | .pred _ => true
    | _ => false)
  | .w => classReason o (match operandOf o with
    | .view _ => true
    | _ => false)
  | .m => classReason o (match operandOf o with
    | .acc _ => true
    | _ => false)
  | .k => classReason o (match operandOf o with
    | .mask _ => true
    | _ => false)
  | .obj lo hi =>
    if o.toNat < lo ∨ hi < o.toNat then some 1
    else if 0x98 ≤ o.toNat ∧ (portQueueOf s f o.toNat).isNone then some 3
    else none

/-- Phase 4 on the operand fields, in field order (R99). -/
def checkFields : List Field → M Unit
  | [] => pure ()
  | x :: xs => do
    let c ← get
    match fieldReason c.s c.f x with
    | some r => throw (.trap causeOPERAND (operandInfo r x.pos x.value.toNat))
    | none => checkFields xs

/-- Phase 4 on the units that a word needs (R101): the first missing feature bit traps. -/
def checkFeatures : List Nat → M Unit
  | [] => pure ()
  | b :: bs => do
    let c ← get
    if (featBits c.s c.f.pcid c.f.jid c.f.urgent).toNat.testBit b then checkFeatures bs
    else throw (.trap causeFEATURE b)

/-! ## Registers -/

/-- Register `n` of a frond. -/
def Frond.reg (f : Frond) (n : Nat) : Word := f.g.getD n 0

/-- Register `n` of a frond written. -/
def Frond.setReg (f : Frond) (n : Nat) (x : Word) : Frond := { f with g := f.g.set n x }

/-- The 16 lanes of `v`N as one number of 512 bits (R124). -/
def Frond.vreg (f : Frond) (n : Nat) : Nat :=
  (List.range 8).foldl (fun acc i => acc + 2 ^ (64 * i) * (f.reg (8 * n + i)).toNat) 0

/-- `v`N written (R124). -/
def Frond.setVreg (f : Frond) (n : Nat) (x : Nat) : Frond :=
  (List.range 8).foldl (fun f i => f.setReg (8 * n + i) (BitVec.ofNat 64 (x / 2 ^ (64 * i)))) f

/-- The lanes of 512 bits (R124). -/
def lanesOf (x : Nat) : List Nat := (List.range 16).map (fun i => Nat.field x (32 * i) 32)

/-- The 512 bits of 16 lanes. -/
def ofLanes : List Nat → Nat
  | [] => 0
  | l :: ls => l % 2 ^ 32 + 2 ^ 32 * ofLanes ls

/-- Predicate `n`; `q0` reads true. -/
def Frond.pred (f : Frond) (n : Nat) : Bool := n == 0 || f.preds.getLsbD n

/-- Predicate `n` written; a write to `q0` is ignored. -/
def Frond.setPred (f : Frond) (n : Nat) (b : Bool) : Frond :=
  if n = 0 then f
  else { f with preds := (f.preds &&& ~~~(BitVec.ofNat 16 (2 ^ n))) ||| (if b then BitVec.ofNat 16 (2 ^ n) else 0) }

/-- A general register is the destination of an outstanding result (R127). -/
def outReg (f : Frond) (n : Nat) : Bool :=
  f.outs.any (fun o =>
    match o.dest with
    | .g m => m == n
    | .v m => n / 8 == m
    | _ => false)

/-- A register of `v`N is the destination of an outstanding result (R127). -/
def outVec (f : Frond) (n : Nat) : Bool :=
  f.outs.any (fun o =>
    match o.dest with
    | .g m => m / 8 == n
    | .v m => m == n
    | _ => false)

/-- A predicate is the destination of an outstanding result (R127). -/
def outPred (f : Frond) (n : Nat) : Bool :=
  f.outs.any (fun o =>
    match o.dest with
    | .q m => m == n
    | _ => false)

/-- A word reads or writes an outstanding destination (R127). -/
def hazard (b : Bool) : M Unit := if b then setFlags flagHAZ else pure ()

/-- The predicate of a guard or of `sel`, read at issue (R98, R127). -/
def readPred (n : Nat) : M Bool := do
  let f ← getF
  hazard (outPred f n)
  return f.pred n

/-- A predicate written at issue. -/
def writePred (n : Nat) (b : Bool) : M Unit := do
  hazard (outPred (← getF) n)
  modF (fun f => f.setPred n b)

/-! ## Ports and held operands -/

/-- The held operand of a port field of the word at the PC (R452). -/
def heldOf (f : Frond) (pos : Nat) : Option Nat :=
  let l := if f.hnd then f.heldH else f.held
  (l.find? (fun h => h.field == pos)).map (fun h => h.bits)

/-- A port field has acted: what it took is held until the word issues whole (R452). -/
def holdOperand (f : Frond) (pos bits : Nat) : Frond :=
  if f.hnd then { f with heldH := f.heldH ++ [{ field := pos, bits := bits }], heldHPc := f.pc }
  else { f with held := f.held ++ [{ field := pos, bits := bits }], heldPc := f.pc }

/-- `einfo` of QCLOSED (R369). -/
def qclosedInfo (v : Nat) : Nat := v

/-- A receive from a channel port (R129, R362). -/
def receiveChan (n : Nat) (wide : Bool) : M Nat := do
  let f ← getF
  match recvFlit f n wide with
  | .error r => throw (.trap causeCHANNEL (channelInfo r n))
  | .ok none => throw (.gate (.chan n))
  | .ok (some (x, f')) =>
    modF (fun _ => f')
    return x

/-- A pop from a queue port; the first pop of a fed item's feed port yields the item's element (R15, R88, R89). -/
def popPort (v : Nat) : M Nat := do
  let c ← get
  match portQueueOf c.s c.f v with
  | none => throw (.trap causeOPERAND 0)
  | some (n, q) =>
    match c.f.feed with
    | some (m, bytes) =>
      if m = n then
        modF (fun f => { f with feed := none })
        return bytesNat bytes
      else popQueue n q
    | none => popQueue n q
where
  popQueue (n : Nat) (q : Queue) : M Nat := do
    let c ← get
    match popElem c.s c.f.jid c.f.pl n c.f.pcid with
    | some (e, s) =>
      modS (fun _ => wakeIfDone s c.f.jid c.f.pl n)
      return bytesNat e.bytes
    | none =>
      if q.closed then throw (.trap causeQCLOSED (qclosedInfo v)) else throw (.park 3 q.obj 0)

/-- A source port is read once; what it yields is held while the word has not issued (R111, R452). -/
def readPort (pos v : Nat) (wide : Bool) : M Nat := do
  let f ← getF
  match heldOf f pos with
  | some x => return x
  | none =>
    let x ← if v < 0x98 then receiveChan (v - 0x90) wide else popPort v
    modF (fun f => holdOperand f pos x)
    return x

/-- A write to a destination port: a channel send or a push, which is a release at package scope over CORE
(R111, R328, R362). -/
def writePort (v : Nat) (wide : Bool) (x : Nat) : M Unit := do
  let c ← get
  if v < 0x98 then
    match sendFlit c.f (v - 0x90) { wide := wide, bits := x } with
    | .error r => throw (.trap causeCHANNEL (channelInfo r (v - 0x90)))
    | .ok none => throw .stall
    | .ok (some f') => modF (fun _ => f')
  else
    match portQueueOf c.s c.f v with
    | none => throw (.trap causeOPERAND 0)
    | some (n, q) =>
      if q.closed then throw (.trap causeQCLOSED (qclosedInfo v))
      else
        stallIf (!released c.s c.f.uid (fun p => p == pathCORE) scopeP)
        match pushElem c.s c.f.jid c.f.pl n (natBytes (if wide then 64 else 8) x) with
        | some s => modS (fun _ => s)
        | none => throw (.park 2 q.obj 0)

/-! ## Scalar operands -/

/-- A special operand as it reads (R110). -/
def readSpecial (c : Ctx) (n : Nat) : Word :=
  let f := c.f
  match n with
  | 0xD1 => BitVec.ofNat 64 f.fid
  | 0xD2 => BitVec.ofNat 64 (cidOf c.s f)
  | 0xD3 => BitVec.ofNat 64 f.pcid
  | 0xD4 => BitVec.ofNat 64 f.stage
  | 0xD5 => f.ix
  | 0xD6 =>
    match stageOf c.s f with
    | some g => if g.fed.isSome then 0 else BitVec.ofNat 64 (g.n0 * g.n1 * g.n2)
    | none => 0
  | 0xD7 => BitVec.ofNat 64 c.s.clk
  | 0xD8 => BitVec.ofNat 64 f.jid
  | 0xD9 => f.epc
  | 0xDA => f.ecause
  | 0xDB => f.einfo
  | 0xDC => fstRead f
  | 0xDD =>
    let k := getCore c.s f.pcid
    BitVec.ofNat 64 (match f.urgent, k.urgent with
      | true, some u => u.args
      | _, _ => k.args)
  | _ => f.sseed

/-- A scalar source (R110, R111). -/
def readG (pos : Nat) (o : Opnd) : M Word := do
  let c ← get
  match operandOf o with
  | .reg n =>
    hazard (outReg c.f n)
    return c.f.reg n
  | .imm x => return x
  | .zero => return 0
  | .special n => return readSpecial c n
  | .chan _ => return BitVec.ofNat 64 (← readPort pos o.toNat false)
  | .inPort _ => return BitVec.ofNat 64 (← readPort pos o.toNat false)
  | _ => return 0

/-- Operand B of a word that accepts the wide immediate (R103, R136). -/
def readB : SrcB → M Word
  | .fld o => readG 2 o
  | .wide i => pure (i.signExtend 64)

/-- A scalar destination written at issue (R110, R127). -/
def writeG (o : Opnd) (x : Word) : M Unit := do
  let f ← getF
  match operandOf o with
  | .reg n =>
    hazard (outReg f n)
    modF (fun f => f.setReg n x)
  | .special 0xD9 => modF (fun f => { f with epc := x })
  | .special 0xDA => modF (fun f => { f with ecause := x })
  | .special 0xDB => modF (fun f => { f with einfo := x })
  | .special 0xDC => modF (fun f => fstWrite f x)
  | .chan _ => writePort o.toNat false x.toNat
  | .outPort _ => writePort o.toNat false x.toNat
  | _ => pure ()

/-! ## Vector operands -/

/-- A vector source as 512 bits (R110, R124). -/
def readVBits (pos : Nat) (o : Opnd) : M Nat := do
  let f ← getF
  match operandOf o with
  | .vec n =>
    hazard (outVec f n)
    return f.vreg n
  | .imm x => return ofLanes (List.replicate 16 (x.toNat % 2 ^ 32))
  | .chan _ => readPort pos o.toNat true
  | .inPort _ => readPort pos o.toNat true
  | _ => return 0

/-- A vector source as its lanes. -/
def readV (pos : Nat) (o : Opnd) : M (List Nat) := do return lanesOf (← readVBits pos o)

/-- Operand B of a vector word that accepts the wide immediate: IMM in every lane (R103, R200). -/
def readVB : SrcB → M (List Nat)
  | .fld o => readV 2 o
  | .wide i => pure (List.replicate 16 i.toNat)

/-- A vector destination written at issue (R110, R124, R127). -/
def writeV (o : Opnd) (ls : List Nat) : M Unit := do
  let f ← getF
  match operandOf o with
  | .vec n =>
    hazard (outVec f n)
    modF (fun f => f.setVreg n (ofLanes ls))
  | .chan _ => writePort o.toNat true (ofLanes ls)
  | .outPort _ => writePort o.toNat true (ofLanes ls)
  | _ => pure ()

/-! ## Outstanding results -/

/-- The destination that a D field names for an outstanding result (R125, R245). -/
def destOf (o : Opnd) : Dest :=
  match operandOf o with
  | .reg n => .g n
  | .vec n => .v n
  | .pred n => .q n
  | _ => .zero

/-- The DEST field of R254 and R277: the window index of a destination. -/
def Dest.index : Dest → Nat
  | .g n => n
  | .v n => 8 * n
  | _ => 0

/-- A ninth outstanding result waits at its chance (R125). -/
def limitOuts : M Unit := do stallIf (decide (8 ≤ (← getF).outs.length))

/-- A result becomes outstanding: its destination is marked, and HAZ is set when it was already (R125, R127). -/
def markOut (id : Nat) (d : Dest) : M Unit := do
  let f ← getF
  hazard (match d with
    | .g n => outReg f n
    | .v n => outVec f n
    | .q n => outPred f n
    | _ => false)
  modF (fun f => { f with outs := f.outs ++ [{ id := id, dest := d }] })

end Sys2Proof.Machine
end

