-- ==== Sys2Proof/Machine/Issue.lean ====
section
/-! DEFINITION. The issue of one word (R98, R99): guard, admission, the vector pipe (R122), the body, and what
becomes of the frond when the word has issued, trapped, parked or been refused. -/

namespace Sys2Proof.Machine

/-- What a word does next, once its body has run. -/
inductive Next where
  /-- The PC moves to the next word, by the end test of R153. -/
  | seq
  /-- A taken transfer. -/
  | to (pc : Nat)
  /-- The word waits for flight `id` and completes with it (R230, R346). -/
  | block (id : Nat)
  /-- The word waits for the check point of engine word `id` (R283). -/
  | engine (id : Nat)
  /-- The word completes, and the frond then waits. -/
  | wait (w : Wait)
  /-- The frond waits inside the word, which has still work to do. -/
  | latch (w : Wait)
  /-- The word is done but for what it parks on, and completes when that releases it (R366). -/
  | park (reason obj : Nat)
  /-- The word has done its work, and a cause is taken past it (R389). -/
  | past (code info : Nat)
  deriving DecidableEq, Repr

/-- What admission and issue need to know of a word. -/
structure Req where
  h : Hints
  /-- The opcode group. -/
  grp : Nat
  fields : List Field
  /-- Privileged (R100). -/
  priv : Bool := false
  /-- The feature bits of R101. -/
  feats : List Nat := []
  /-- R34 roots the frond when the word issues with a true guard. -/
  roots : Bool := false
  /-- A vector word (R122). -/
  vec : Bool := false
  deriving DecidableEq, Repr

/-- The number of a slot among the owed slots of a core: shadow slots follow main slots. -/
def slotNum (f : Frond) : Nat := (f.slot?).getD 0 + 64 * f.urgent.toNat

/-- A slot stops being owed (R122). -/
def notOwed (s : State) (f : Frond) : State :=
  let c := getCore s f.pcid
  if c.owed.contains (slotNum f) then setCore s { c with owed := c.owed.filter (fun x => x != slotNum f) } else s

/-- A frond parks at a word that has not issued (R120). Its slot stops being owed when the frond leaves it; Blocked in it,
its next word is still the same (R122 rule 4). -/
def parkWord (s : State) (f : Frond) (reason obj info : Nat) : State × Frond :=
  let r := parkFrond s f reason obj info
  (if r.2.slot?.isSome then r.1 else notOwed r.1 f, r.2)

/-- The next issue chance of a slot after cycle `t` (R116). -/
def nextChance (t slot : Nat) : Nat := t + 1 + (slot % 16 + 16 - (t + 1) % 16) % 16

/-- The vector pipe of quadrant `q` refuses a word of slot `n` at cycle `t` (R122 rules 1 to 3). An owed slot is protected
also while it is gated or Frozen (log entry 95, DESIGN CHOICE: rule 4 leaves it owed, and R122 says no more of it). -/
def pipeRefuses (c : Core) (t n : Nat) : Bool :=
  let q := n % 64 / 16
  decide (t < nth c.pipes q) ||
  match c.owed.find? (fun x => x % 64 / 16 == q) with
  | some p => p != n && decide (nextChance t p ≤ t + 3)
  | none => false

/-- Power pacing refuses a word of a job that is not urgent when a free choice says so (R436; log entry 14). -/
def pacingRefuses : M Bool := do
  let c ← get
  if c.s.pacing && !c.f.urgent then
    modS (fun s => { s with choices := s.choices + 1 })
    return Config.pick c.s.choices % 2 == 1
  else return false

/-- A vector word finds its quadrant's pipe free, or is refused and becomes owed (R122). -/
def findPipe : M Unit := do
  let c ← get
  let k := getCore c.s c.f.pcid
  let n := slotNum c.f
  let paced ← pacingRefuses
  if paced || pipeRefuses k c.s.clk n then
    modS (fun s => updCore s c.f.pcid (fun k => if k.owed.contains n then k else { k with owed := k.owed ++ [n] }))
    throw .stall

/-- A vector word that issues occupies its quadrant's pipe in this cycle and the next three (R122). -/
def usePipe (s : State) (f : Frond) : State :=
  updCore s f.pcid (fun k => { k with pipes := k.pipes.set (slotNum f % 64 / 16) (s.clk + 4) })

/-- Groups of words that wait while an acquire of the frond has not landed (R253, R328). -/
def accessGroup (grp : Nat) : Bool := decide (7 ≤ grp ∧ grp ≤ 12)

/-- Phase 4, and what the issue of a word waits for; then its body. -/
def admitted (r : Req) (body : M Next) : M Next := do
  let c ← get
  trapIf (r.priv && !c.f.control) causePRIV 0
  checkFeatures r.feats
  checkFields r.fields
  stallIf (accessGroup r.grp && acquiring c.s c.f.uid)
  if r.vec then findPipe
  body

/-- Held operands of another PC are discarded, and counted as errors of the job (R452). They are when a word of another PC
reaches its issue chance, before its guard is looked at, even if that word then stalls, parks or traps (log entry 101, DESIGN
CHOICE: R452 has it happen at a word that issues, and does not say whether one that does not issue yet counts). -/
def discardHeld (s : State) (f : Frond) : State × Frond :=
  if f.hnd then
    if f.heldH.isEmpty ∨ f.heldHPc = f.pc then (s, f)
    else (addErrors s f.jid f.heldH.length, { f with heldH := [] })
  else
    if f.held.isEmpty ∨ f.heldPc = f.pc then (s, f)
    else (addErrors s f.jid f.held.length, { f with held := [] })

/-- The frond after a word that did not issue: as before it, but for what it has taken from its ports (R34, R99,
R452). -/
def keepTaken (f0 f : Frond) : Frond :=
  { f0 with held := f.held, heldPc := f.heldPc, heldH := f.heldH, heldHPc := f.heldHPc, chans := f.chans
            feed := f.feed }

/-- The state after a word: the frond back at issue, with the spent order of its core brought up to date. -/
def answer (s : State) (f : Frond) : Host.Outcome State Fault Refusal :=
  .next (refreshSpent { s with issuing := some f } f.pcid)

/-- What becomes of a frond whose word has issued. A `sleep` whose end test raises LOOPTRIP enters the handler and sleeps
its cycles before the first word of it (log entry 99, DESIGN CHOICE: R160 and R371 do not say which comes first). -/
def finish (s : State) (f : Frond) (h : Hints) (n : Next) (word : Nat) : State × Frond :=
  match n with
  | .seq => complete s f h none word
  | .to pc => complete s f h (some pc) word
  | .block id => (s, { f with wait := .port id, since := s.clk })
  | .engine id => (s, { f with wait := .engine id, since := s.clk })
  | .wait w =>
    let r := complete s f h none word
    if r.2.wait == .run then (r.1, { r.2 with wait := w, since := s.clk }) else r
  | .latch w => (s, { f with wait := w, since := s.clk })
  | .park reason obj => parkFrond s f reason obj 0
  | .past code info =>
    let f := switchMark h (lastUse h { f with errWait := false })
    let f := { f with pc := (f.pc + 12) % 2 ^ 56 }
    takeCause s f code info f.pc word

/-- What becomes of a frond whose word has not issued. -/
def stopped (s : State) (f : Frond) (st : Stop) (word : Nat) : State × Frond :=
  match st with
  | .trap code info => takeCause (notOwed s f) f code info f.pc word
  | .park reason obj info => parkWord s f reason obj info
  | .stay reason obj info => parkStay s f reason obj info
  | .stall => (s, f)
  | .gate w => (s, { f with wait := w, since := s.clk })

/-- The issue of a word of the frond at issue (R98, R99). -/
def runWord (r : Req) (body : M Next) (s : State) : Host.Outcome State Fault Refusal :=
  match s.issuing with
  | none => .refused .notEnabled
  | some f0 =>
    let s := { s with issuing := none }
    let word := (fetchedWord s f0).getD 0
    let (s, f) := discardHeld s f0
    let haz := flagIf (outPred f r.h.gq.toNat) flagHAZ
    if f.pred r.h.gq.toNat == r.h.gn then
      let f := raiseFlags (if r.grp = 0xA then { f with rooted := true } else f) haz
      let e := complete (notOwed s f) f r.h none word
      answer e.1 e.2
    else
      match (admitted r body).run { f := f, s := s, flags := haz } with
      | (.ok n, c) =>
        let t := if r.vec then usePipe c.s f else c.s
        let g := raiseFlags (if r.roots then { c.f with rooted := true } else c.f) c.flags
        let g := match n with
          | .block _ => g
          | .park _ _ => g
          | .engine _ => g
          | _ => useHeld f.hnd g
        let e := finish (notOwed t f) g r.h n word
        answer e.1 e.2
      | (.error st, c) =>
        let e := stopped c.s (keepTaken f c.f) st word
        answer e.1 e.2

/-- The fields of a word with destination, first and second source. -/
def fieldD (k : Position) (o : Opnd) : Field := { pos := 0, kind := k, value := o }
def fieldA (k : Position) (o : Opnd) : Field := { pos := 1, kind := k, value := o }
def fieldB (k : Position) (o : Opnd) : Field := { pos := 2, kind := k, value := o }
/-- An operand in IMM (R112, R192). -/
def fieldC (k : Position) (o : Opnd) : Field := { pos := 0xA, kind := k, value := o }

/-- The B field of an operand B that accepts the wide immediate. -/
def fieldSrc (k : Position) : SrcB → List Field
  | .fld o => [fieldB k o]
  | .wide _ => []

end Sys2Proof.Machine
end

