-- ==== Sys2Proof/Machine/Elements.lean ====
section
/-! DEFINITION. The element accesses of a word at its issue: effective addresses and their checks (R247, R248),
translation and its misses (R221 to R223), the service of WALK accesses (R230, R252), and the flight that
carries the accesses (R125, R319). -/

namespace Sys2Proof.Machine

/-! ## Translation -/

/-- The entry of a die's translation store for a VA of a job (R221). -/
def findTrans (s : State) (die jid va : Nat) : Option Trans :=
  s.tstore.find? (fun t => t.die == die && t.jid == jid && decide (t.va ≤ va ∧ va < t.va + t.size))

/-- The size of the page at a VA of a job (R220). -/
def jobPageSize (s : State) (jid va : Nat) : Nat :=
  match findJob s jid with
  | some j => pageSize s j.space va
  | none => 65536

/-- A page walk begins for a miss, unless one serves the page already (R222). -/
def startWalk (s : State) (die jid va : Nat) (write : Bool) (fill : Option Nat) : State :=
  let size := jobPageSize s jid va
  if s.walks.any (fun w => w.die == die && w.jid == jid && w.va / size == va / size && w.fill == fill) then s
  else
    let w : Walk := { id := s.fresh, die := die, jid := jid, va := va, write := write, fault := none
                      fill := fill, due := s.clk + 1 }
    { s with fresh := s.fresh + 1, walks := s.walks ++ [w] }

/-- OBJ of a park on a page or a block: VA bits 55:14 (R233). -/
def blockOf (va : Nat) : Nat := va / blockSize % 2 ^ 42

/-- A miss parks the frond on the page (R222); so does an entry that does not allow a write (R219). -/
def missPage (va : Nat) (write : Bool) : M Trans := do
  let c ← get
  modS (fun s => startWalk s (dieOf c.f.pcid) c.f.jid va write none)
  throw (.park 1 (blockOf va) va)

/-- The translation of a VA for the frond's job on its die (R221). -/
def translateAt (va : Nat) (write : Bool) : M Trans := do
  let c ← get
  match findTrans c.s (dieOf c.f.pcid) c.f.jid va with
  | some t => if write && !t.wr then missPage va true else return t
  | none => missPage va write

/-! ## Addresses -/

/-- ea of R247. -/
def effective (a : Word) (disp : BitVec 32) : Nat := (a + disp.signExtend 64).toNat

/-- An address that no access of the frond may use: the second check of R247. -/
def formBad (c : Ctx) (l : Bool) (a size : Nat) : Bool :=
  if l then decide (lsSize < a + size)
  else decide (2 ^ 56 ≤ a) || (inWindow a &&
    ((windowOk c.s c.f.jid a).isNone || (windowOk c.s c.f.jid (a + size - 1)).isNone))

/-- A job with a walk-core set (R229). -/
def jobWalks (s : State) (jid : Nat) : Bool :=
  match findJob s jid with
  | some j => j.walks
  | none => false

/-- The place that a page's translation gives a VA (R218, R229, R319). -/
def placeOfTrans (s : State) (jid va : Nat) (t : Trans) : Place :=
  let pa := t.pa + (va - t.va)
  if t.host then .host pa
  else if t.walk && jobWalks s jid then
    .walk jid (va / blockSize) (va % blockSize) (pa - va % blockSize)
  else .hbm pa

/-- Where an address leads, its page's FCODE, and TIER when its leaf has CNT = 1. -/
def placeAt (l : Bool) (a : Nat) (write : Bool) : M (Place × Nat × Option Bool) := do
  let c ← get
  if l then return (.ls (c.f.pcid * 2 ^ 20 + a), 0, none)
  else
    match windowOk c.s c.f.jid a with
    | some (p, o) => return (.ls (p * 2 ^ 20 + o), 0, none)
    | none =>
      let t ← translateAt a write
      return (placeOfTrans c.s c.f.jid a t, t.fcode, if t.cnt then some t.tier else none)

/-- The code that holds at a place: its region's, or its page's (R248). -/
def codeAt (s : State) (p : Place) (page : Nat) : Nat :=
  match p with
  | .ls a => regionCode s a
  | _ => page

/-- The code at a word's first element, before its address is checked (R247 step 1). -/
def firstCode (l : Bool) (a : Nat) (write : Bool) : M Nat := do
  let c ← get
  if (l && decide (lsSize ≤ a)) || (!l && (decide (2 ^ 56 ≤ a)
      || (inWindow a && (windowOk c.s c.f.jid a).isNone))) then return 0
  else
    let p ← placeAt l a write
    return codeAt c.s p.1 p.2.1

/-! ## Checks over the elements of a word, kind by kind (R247) -/

/-- The first element whose address form is bad raises XLATE. -/
def checkForms (l : Bool) (size : Nat) (addrs : List Nat) : M Unit := do
  let c ← get
  match addrs.find? (fun a => formBad c l a size) with
  | some a => throw (.trap causeXLATE a)
  | none => pure ()

/-- A misaligned element raises ALIGN with the lowest failing address. -/
def checkAlign (size : Nat) (addrs : List Nat) : M Unit :=
  match addrs.filter (fun a => a % size != 0) with
  | [] => pure ()
  | a :: as => throw (.trap causeALIGN (as.foldl Nat.min a))

/-- Every address translated, in order. -/
def placesOf (l write : Bool) : List Nat → M (List (Place × Nat × Option Bool))
  | [] => return []
  | a :: as => do
    let p ← placeAt l a write
    let ps ← placesOf l write as
    return p :: ps

/-- The format entry of a code is unused (R39). -/
def entryUnused (s : State) (jid code : Nat) : Bool :=
  match findJob s jid with
  | some j => (j.fmts.getD code 0).toNat % 16 == 0
  | none => true

/-- An unused entry that is decoded through raises OPERAND (R39, R112), and so does one that a store encodes through (log
entry 104, DESIGN CHOICE: R39 and R186 speak of decoding alone, and R187 says nothing of an unused entry). -/
def checkEntry (code : Nat) : M Unit := do
  let c ← get
  trapIf (code != 0 && entryUnused c.s c.f.jid code) causeOPERAND (operandInfo 5 0xF code)

/-- A lane whose code gives another element size raises OPERAND, and so does an unused entry (R248, R39). -/
def checkCodes (size : Nat) : List Nat → M Unit
  | [] => pure ()
  | code :: cs => do
    trapIf ((code == 0) != (size != 1)) causeOPERAND (operandInfo 5 0xE 0)
    checkEntry code
    checkCodes size cs

/-- The bytes of an integer type code (R104). -/
def typeSize (mty : Nat) : Nat := 2 ^ (mty % 4)

/-- The element size that a word's first element fixes (R248), whose page, when it has one, is translated first (R247
step 1). `view` is FCODE of the view; `site` is the first element's address, given the size. Where that address
depends on the size, 4 bytes are tried before 1 (R272; log entry 75). -/
def sizeOf_ (mty : Nat) (raw l write : Bool) (view : Nat) (site : Nat → Nat) : M Nat := do
  let size := if mty < 8 then typeSize mty else if raw || view == 0 then 4 else 1
  let code ← firstCode l (site size) write
  if mty < 8 || raw || view != 0 || code == 0 then return size
  else
    let _ ← firstCode l (site 1) write
    return 1

/-- The element accesses of a word whose element size is fixed: every check from the address forms on. `coded`
holds when elements pass through a format code; `fcode` is FCODE of the view they go through. -/
def elementsSized (size : Nat) (coded l write : Bool) (fcode : Nat) (ss : List (Nat × Nat)) : M (List Elem) := do
  let addrs := ss.map (·.2)
  checkForms l size addrs
  checkAlign size addrs
  let ps ← placesOf l write addrs
  let c ← get
  if coded then
    if fcode = 0 then checkCodes size (ps.map (fun p => codeAt c.s p.1 p.2.1)) else checkEntry fcode
  return (ss.zip ps).map (fun x =>
    { place := x.2.1, va := vaOf x.2.1 x.1.2, size := size, lane := x.1.1
      coding := if !coded then .raw else if fcode = 0 then .place x.2.2.1 else .fixed fcode
      val := 0, performed := false, applied := false, clock := [], cnt := x.2.2.2 })

/-- The element accesses of a word. `sites` gives lanes and addresses from the element size; `view` is FCODE
and ESZ of the view they go through. -/
def elementsOf (mty : Nat) (raw l write : Bool) (view : Option (Nat × Nat))
    (sites : Nat → List (Nat × Nat)) : M (List Elem) := do
  let fcode := match view with
    | some v => v.1
    | none => 0
  let size ← sizeOf_ mty raw l write fcode (fun n => ((sites n).map (·.2)).getD 0 0)
  match view with
  | some v => trapIf (size != v.2) causeOPERAND (operandInfo 5 0xE 0)
  | none => pure ()
  elementsSized size (decide (8 ≤ mty) && !raw) l write fcode (sites size)

/-- Store values put into the elements, by lane. -/
def withValues (val : Nat → Nat) (es : List Elem) : List Elem := es.map (fun e => { e with val := val e.lane })

/-! ## WALK accesses -/

/-- The WALK blocks that elements touch, rising. -/
def walkBlocks : List Elem → List Nat
  | [] => []
  | e :: es =>
    match e.place with
    | .walk _ b _ _ => setAdd b (walkBlocks es)
    | _ => walkBlocks es

/-- A mobile frond is admitted to a block at its home, where it takes a claim; it parks on an absent block,
and migrates to a block's home elsewhere (R230, R231, R235). -/
def admitBlock (block va : Nat) : M Unit := do
  let c ← get
  match (findJob c.s c.f.jid).bind (fun j => homeCore j block) with
  | none => pure ()
  | some home =>
    if home ≠ c.f.pcid then throw (.gate (.migrate block))
    else
      match findCarrel (getCore c.s home) .resident c.f.jid block with
      | some k =>
        modF (fun f => { f with claims := if f.claims.contains k then f.claims else f.claims ++ [k]
                                lastWalk := some k })
        modS (fun s => touchCarrel s home k)
      | none => throw (.park 0 block va)

/-- The carrel of a core that a WALK access to a block uses, when the block is resident there (R98, R235). -/
def walkCarrel (s : State) (pcid jid block : Nat) : Option Nat :=
  match residentAt s jid block with
  | some (home, k) => if home = pcid then some k else none
  | none => none

/-- A word whose WALK accesses wait at the port: the last of its blocks is that of the frond's most recent WALK
access (R98, R252). -/
def atPort (blocks : List Nat) : M Bool := do
  let c ← get
  modF (fun f => { f with lastWalk := blocks.getLast?.bind (walkCarrel c.s f.pcid f.jid) })
  return true

/-- The service of R230 and R252: whether the word waits at the port for its WALK accesses. -/
def serveWalk (h : Hints) (es : List Elem) : M Bool := do
  let c ← get
  match walkBlocks es with
  | [] => return false
  | [b] =>
    if c.f.urgent || c.f.rooted || h.nm || !c.f.held.isEmpty || !c.f.heldH.isEmpty then atPort [b]
    else
      admitBlock b ((es.head?.map (fun e => e.va)).getD 0)
      return false
  | bs => atPort bs

/-! ## Flights -/

/-- The idle time back from the farthest element (R450). -/
def backTime (s : State) (pcid : Nat) (es : List Elem) : Nat :=
  es.foldl (fun n e => Nat.max n (distPlace s pcid e.place).half) 0

/-- What a word that starts accesses gives its flight. -/
structure Launch where
  path : Nat
  op : FlightOp
  dest : Dest := .none
  elems : List Elem
  piece : Bool := false
  acq : Option Nat := none
  view : Option (Foot × Nat) := none
  deriving DecidableEq, Repr

/-- The format table that an operation reads when it begins, if it decodes or encodes through it (R64, R186). -/
def tableFor (s : State) (jid : Nat) (es : List Elem) : List (BitVec 32) :=
  if es.all (fun e => e.coding == .raw) then [] else ((findJob s jid).map (fun j => j.fmts)).getD []

/-- A flight enters the state; each of its cross-die stores takes the clock of its die (R326). One without elements has
its answer ready in the next cycle. -/
def addFlight (s : State) (f : Frond) (x : Launch) (blocks : Option Hints) : Nat × State :=
  let id := s.fresh
  let g : Flight :=
    { id := id, uid := f.uid, jid := f.jid, path := x.path, pcid := f.pcid, dest := x.dest, op := x.op
      elems := x.elems, piece := x.piece, issued := s.clk, due := s.clk
      back := backTime s f.pcid x.elems
      done := if x.elems.isEmpty then some (s.clk + 1) else none, fmts := tableFor s f.jid x.elems, acq := x.acq
      view := x.view, failed := none, tries := 0, first := none, frozen := 0, blocks := blocks }
  let r := stampElems { s with fresh := id + 1 } g x.elems
  (id, { r.1 with flights := r.1.flights ++ [{ g with elems := r.2 }] })

/-- A die stops issuing cross-die stores toward a die that has not applied 2^30 of them (R326). -/
def waitClock (es : List Elem) : M Unit := do
  let c ← get
  stallIf (clockStops c.s (dieOf c.f.pcid) (es.map (fun e => e.place)))

/-- The accesses of a word start. With `wait` the word completes when they have been performed or answered;
else a result, if there is one, becomes outstanding and the frond goes on. -/
def launch (h : Hints) (wait : Bool) (x : Launch) : M Next := do
  if x.op.writes then waitClock x.elems
  let c ← get
  let r := addFlight c.s c.f x (if wait then some h else none)
  modS (fun _ => r.2)
  if wait then return .block r.1
  else
    if x.dest ≠ .none then markOut r.1 x.dest
    return .seq

/-! ## Shared conditions of accesses -/

/-- Waiting of a release at a scope (R253, R328): no outstanding result, and every earlier access of the paths
performed at every party. -/
def waitRelease (on : Nat → Bool) (scope : Nat) : M Unit := do
  let c ← get
  stallIf (!c.f.outs.isEmpty || !released c.s c.f.uid on scope)

/-- The path CORE alone. -/
def onCORE (p : Nat) : Bool := p == pathCORE

/-- The paths CORE and SHIP. -/
def onCoreShip (p : Nat) : Bool := p == pathCORE || p == pathSHIP

/-- `einfo` of SHIPERR (R277). -/
def shipInfo (reason dest va : Nat) : Nat := reason * 2 ^ 61 + dest * 2 ^ 54 + va / 4 % 2 ^ 54

/-- The element of an atomic or of a `join`, and its path (R157, R351). -/
def atomicSite (l : Bool) (ea size : Nat) : M (Elem × Nat) := do
  let c ← get
  let va := !l && decide (ea < 2 ^ 56) && !inWindow ea
  let walkPage := fun (t : Trans) => t.walk && jobWalks c.s c.f.jid
  if va && !(featBits c.s c.f.pcid c.f.jid c.f.urgent).toNat.testBit 3 then
    let t ← translateAt ea false
    trapIf (!walkPage t) causeFEATURE 3
  checkForms l size [ea]
  checkAlign size [ea]
  let p ← placeAt l ea true
  match p.1 with
  | .host _ => raise causeSHIPERR (shipInfo 2 0 ea)
  | _ => pure ()
  let path := match p.1 with
    | .hbm _ => pathSHIP
    | _ => pathCORE
  return ({ place := p.1, va := vaOf p.1 ea, size := size, lane := 0, coding := .raw, val := 0, performed := false
            applied := false, clock := [], cnt := p.2.2 }, path)

end Sys2Proof.Machine
end

