-- ==== Sys2Proof/Machine/Control.lean ====
section
/-! DEFINITION. Group 0x3 (R149 to R160): transfers, hardware loops, spawning, joining and ending, waiting. -/

namespace Sys2Proof.Machine

/-! ## Transfers -/

/-- The target of `br`, `call`, `bch` and `fork` (R150). -/
def branchTarget (pc : Nat) (disp : BitVec 32) : Nat := Int.wrap ((pc : Int) + 12 * disp.toInt) 56

/-- R150 `br`. -/
def execBr (h : Hints) (disp : BitVec 32) (s : State) : Host.Outcome State Fault Refusal :=
  runWord { h := h, grp := 3, fields := [] } (do return .to (branchTarget (← getF).pc disp)) s

/-- The target of `jmp` and `callr`, checked before anything is written (R150). -/
def checkTarget (t : Word) : M Nat := do
  trapIf (t.toNat % 4 != 0) causeALIGN t.toNat
  trapIf (decide (2 ^ 56 ≤ t.toNat)) causeXLATE t.toNat
  return t.toNat

/-- R150 `jmp`. -/
def execJmp (h : Hints) (a : Opnd) (s : State) : Host.Outcome State Fault Refusal :=
  runWord { h := h, grp := 3, fields := [fieldA .g a] } (do return .to (← checkTarget (← readG 1 a))) s

/-- R150 `call`. PC + 12 is written modulo 2^56, as the PC counts (log entry 97, DESIGN CHOICE: the rule gives no modulo
for the value that D takes). -/
def execCall (h : Hints) (d : Opnd) (disp : BitVec 32) (s : State) : Host.Outcome State Fault Refusal :=
  runWord { h := h, grp := 3, fields := [fieldD .gw d] } (do
    let pc := (← getF).pc
    writeG d (BitVec.ofNat 64 ((pc + 12) % 2 ^ 56))
    return .to (branchTarget pc disp)) s

/-- R150 `callr`; the value written as by `call` (log entry 97, DESIGN CHOICE). -/
def execCallr (h : Hints) (d a : Opnd) (s : State) : Host.Outcome State Fault Refusal :=
  runWord { h := h, grp := 3, fields := [fieldD .gw d, fieldA .g a] } (do
    let t ← checkTarget (← readG 1 a)
    writeG d (BitVec.ofNat 64 (((← getF).pc + 12) % 2 ^ 56))
    return .to t) s

/-- R151 `bch`. -/
def execBch (h : Hints) (a : Opnd) (n : Bool) (disp : BitVec 32) (s : State) :
    Host.Outcome State Fault Refusal :=
  runWord { h := h, grp := 3, fields := [fieldA (.obj 0x90 0x97) a] } (do
    let f ← getF
    let p := a.toNat - 0x90
    let c := chanOf f p
    trapIf (c.state == .unbound) causeCHANNEL (channelInfo 0 p)
    if c.recv.isEmpty == n then return .to (branchTarget f.pc disp) else return .seq) s

/-! ## Hardware loops -/

/-- The address of a level's last word (R152). -/
def Level.last (l : Level) : Nat := (l.start + 12 * (l.blen - 1)) % 2 ^ 56

/-- `loop` and `loopw` open a level; the trip count is read after the two checks (R152). A `loop` of no passes is a
transfer, and makes no end test of an enclosing level whose last word it is (log entry 98, DESIGN CHOICE: R153 does not
name it). -/
def openLoop (while_ : Bool) (count : M Word) (maxt : BitVec 20) (blen : BitVec 12) : M Next := do
  let f ← getF
  let start := (f.pc + 12) % 2 ^ 56
  let last := (f.pc + 12 * blen.toNat) % 2 ^ 56
  trapIf (decide (4 ≤ f.loops.length)) causeLOOPTRIP (2 ^ 63 + 3 * 2 ^ 56 + start)
  match findIdx (fun l => l.last == last) f.loops with
  | some i => throw (.trap causeLOOPTRIP (2 ^ 62 + i * 2 ^ 56 + start))
  | none =>
    let n := (← count).toNat
    if !while_ && n == 0 then return .to ((last + 12) % 2 ^ 56)
    else
      let l : Level := { start := start, blen := blen.toNat, maxt := maxt.toNat, pass := 1
                         count := Nat.min n 2097151, while_ := while_ }
      modF (fun f => { f with loops := f.loops ++ [l] })
      return .to start

/-- R152 `loop`. -/
def execLoop (h : Hints) (a : Opnd) (maxt : BitVec 20) (blen : BitVec 12) (s : State) :
    Host.Outcome State Fault Refusal :=
  runWord { h := h, grp := 3, fields := [fieldA .g a] } (openLoop false (readG 1 a) maxt blen) s

/-- R152 `loopw`. -/
def execLoopw (h : Hints) (maxt : BitVec 20) (blen : BitVec 12) (s : State) :
    Host.Outcome State Fault Refusal :=
  runWord { h := h, grp := 3, fields := [] } (openLoop true (pure 0) maxt blen) s

/-- R154 and R372 `lexit`: a level that was open at handler entry does not count while HND is 1. -/
def execLexit (h : Hints) (s : State) : Host.Outcome State Fault Refusal :=
  runWord { h := h, grp := 3, fields := [] } (do
    let f ← getF
    match f.loops.getLast? with
    | none => throw (.trap causeLOOPTRIP (2 ^ 61))
    | some l =>
      trapIf (f.hnd && decide (f.loops.length ≤ f.entryDepth)) causeLOOPTRIP (2 ^ 61)
      modF (fun f => { f with loops := f.loops.dropLast })
      return .to ((l.last + 12) % 2 ^ 56)) s

/-! ## Spawning and joining -/

/-- The local-store address of deque entry `i` of a core (R74). -/
def dequeAddr (c : Core) (i : Nat) : Nat := c.pcid * 2 ^ 20 + c.dequeOff + 32 * (i % dequeCap c)

/-- A spore as its 32 bytes (R73): KIND 1 fork, 2 range. -/
def sporeBits (kind pc a0 a1 joinva : Nat) : Nat :=
  pc + kind * 2 ^ 62 + a0 * 2 ^ 64 + a1 * 2 ^ 128 + joinva * 2 ^ 192

/-- An entry is written at BOT of a core's deque, to be taken from cycle `from_` on (R74, R76, R156). -/
def pushSpore (s : State) (pcid bits : Nat) (ix : Word) (deps : List Nat) (from_ : Nat) : State :=
  let c := getCore s pcid
  let s := { s with ls := writeNat s.ls (dequeAddr c c.bot) 32 bits }
  setCore s { c with bot := (c.bot + 1) % 2 ^ 16
                     tag := if c.top = c.bot then (c.tag + 1) % 2 ^ 32 else c.tag
                     spores := c.spores ++ [{ index := c.bot, ix := ix, deps := deps, from_ := from_ }]
                     steal := match c.steal with
                       | .resting _ => .idle
                       | x => x }

/-- The accesses that a spore waits for before it may be taken: stores and atomics (R156), and loads, as for every
release (R328). -/
def sporeDeps (s : State) (uid : Nat) : List Nat :=
  (s.flights.filter (fun g => g.uid == uid && onCoreShip g.path && (g.op.writes || g.op.reads))).map (fun g => g.id)

/-- R156 `fork`. -/
def execFork (h : Hints) (d a b : Opnd) (disp : BitVec 32) (s : State) : Host.Outcome State Fault Refusal :=
  runWord { h := h, grp := 3, fields := [fieldD .g d, fieldA .g a, fieldB .g b] } (do
    let f ← getF
    trapIf f.urgent causeOPERAND (operandInfo 4 0xA 0)
    let x ← readG 1 a
    let y ← readG 2 b
    let z ← readG 0 d
    let c ← get
    let k := getCore c.s f.pcid
    if dequeCap k ≤ dequeCount k then throw (.park 7 f.pcid 0)
    else
      let bits := sporeBits 1 (branchTarget f.pc disp) x.toNat y.toNat z.toNat
      modS (fun s => pushSpore s f.pcid bits f.ix (sporeDeps s f.uid) (s.clk + 1))
      return .seq) s

/-- A part of a word whose parks never leave the slot (R157). -/
def inSlotOnly {α : Type} (x : M α) : M α := tryCatch x (fun e =>
  match e with
  | .park reason obj info => throw (.stay reason obj info)
  | e => throw e)

/-- R157 `join`: the decrement waits at its flight for the frond's outstanding results and earlier accesses, and
the frond goes on or ends when it has been performed. A counter on a WALK page is served as for a word with NM = 1. -/
def execJoin (h : Hints) (a : Opnd) (l : Bool) (s : State) : Host.Outcome State Fault Refusal :=
  runWord { h := h, grp := 3, fields := [fieldA .g a] } (do
    let x ← readG 1 a
    let e ← inSlotOnly (atomicSite l x.toNat 8)
    modF (fun f => { f with errWait := false })
    match walkBlocks [e.1] with
    | [] => pure ()
    | bs => let _ ← atPort bs
    launch h true { path := e.2, op := .join, elems := [e.1] }) s

/-! ## Ending -/

/-- An engine word of a frond, not completed, that stores through view register `w` (R301, R306). -/
def engineHoldsView (s : State) (uid w : Nat) : Bool :=
  s.engines.any (fun n => n.queue.any (fun x => x.uid == uid && match x.view with
    | some v => v.2 == w
    | none => false))

/-- Every earlier CORE access of a frond, and every `mst` store through its view register `w`, has been performed at a
scope (R261, R328). -/
def viewFree (s : State) (uid w scope : Nat) : Bool :=
  released s uid onCORE scope && !engineHoldsView s uid w
    && s.flights.all (fun g => g.uid != uid || g.path != pathMATRIX || flightCounts s g scope
      || match g.view with
        | some v => v.2 != w
        | none => true)

/-- The view in register `w` of a frond may be retired. -/
def viewReleased (s : State) (f : Frond) (w : Nat) (d : BitVec 512) : Bool := viewFree s f.uid w (viewScope d)

/-- The entries of view register `w` of a frond that has ended may leave the catalogues: none of a lower register is
left, and the release of the retirement is complete (R158, R378). -/
def deadViewReady (s : State) (uid w : Nat) : Bool :=
  (findFrond s uid).isNone && !s.catalogue.any (fun e => e.uid == uid && decide (e.w < w)) &&
    match s.catalogue.find? (fun e => e.uid == uid && e.w == w) with
    | some e => viewFree s uid w e.scope
    | none => false

/-- The views `w` of a list retired in order, as far as their releases allow (R158); true when all are. -/
def retireViews (uid : Nat) : List Nat → State → State × Bool
  | [], s => (s, true)
  | w :: ws, s =>
    match findFrond s uid with
    | none => (s, true)
    | some f =>
      match viewOf f w with
      | none => retireViews uid ws s
      | some d =>
        if viewReleased s f w d then
          retireViews uid ws (dropEntries (updFrond s uid (fun f => setView f w none)) uid w)
        else (s, false)

/-- An `exit` that has issued, or a `join` that ends its frond, goes on as far as it can (R157, R158, R372). A STOREERR
is taken at an `exit` alone: the counter of the `join` is decremented already. The frond stands in the state. -/
def exitGo (s : State) (uid : Nat) : State :=
  match findFrond s uid with
  | none => s
  | some f =>
    if !f.outs.isEmpty then s
    else
      match f.hnd || f.wait == .joined, f.storeErrs with
      | false, e :: es =>
        let r := takeCause s { f with storeErrs := es, wait := .run } causeSTOREERR e f.pc ((fetchedWord s f).getD 0)
        updFrond r.1 uid (fun _ => r.2)
      | _, _ =>
        match retireViews uid (List.range 4) s with
        | (s, false) => s
        | (s, true) =>
          match findFrond s uid with
          | none => s
          | some f => settleJob (endFrond s f true) f.jid

/-- R158 `exit`. -/
def execExit (h : Hints) (s : State) : Host.Outcome State Fault Refusal :=
  match runWord { h := h, grp := 3, fields := [] } (do return .latch .exiting) s with
  | .next t =>
    match t.issuing with
    | some f => if f.wait == .exiting then .next (exitGo t f.uid) else .next t
    | none => .next t
  | o => o

/-- R159 `nop`. -/
def execNop (h : Hints) (s : State) : Host.Outcome State Fault Refusal :=
  runWord { h := h, grp := 3, fields := [] } (do return .seq) s

/-- R160 `sleep`. -/
def execSleep (h : Hints) (b : SrcB) (s : State) : Host.Outcome State Fault Refusal :=
  runWord { h := h, grp := 3, fields := fieldSrc .g b } (do
    let x ← readB b
    let n := x.toNat % 2 ^ 32
    let c ← get
    if n = 0 then return .seq else return .wait (.sleep (c.s.clk + n))) s

end Sys2Proof.Machine
end

