-- ==== Sys2Proof/Machine/Number.lean ====
section
/-! DEFINITION. Numbers: formats, rounding, scales and NaN payloads (08_number_formats.md). Exact values are
kept as ± k × 2^e; quotients and square roots are kept exactly until their one rounding. -/

namespace Sys2Proof.Machine

/-- A decoded value (R165, R179). A NaN holds its sign, bits 21:0 and whether it is signalling. -/
inductive Num where
  | nan (neg : Bool) (payload : Nat) (sig : Bool)
  | inf (neg : Bool)
  | fin (neg : Bool) (k : Nat) (e : Int)
  deriving DecidableEq, Repr

/-- A magnitude that may be a quotient or a square root: `num / den`, or its root. -/
structure Mag where
  num : Nat
  den : Nat
  root : Bool
  deriving DecidableEq, Repr

/-- A format: a narrow entry (R38), or an IEEE format of R163 when `ieee`. -/
structure Fmt where
  w : Nat
  s : Bool
  e : Nat
  bias : Int
  special : Nat
  sat : Bool
  subn : Bool
  block : Nat
  ieee : Bool
  deriving DecidableEq, Repr

/-- The target of a conversion (R175). -/
inductive Target where
  | float (f : Fmt)
  | int (bits : Nat) (signed : Bool)
  deriving DecidableEq, Repr

/-- What a conversion gives: the code, the flags, and what the counters of R198 count. -/
structure Conv where
  code : Nat
  flags : BitVec 7
  clamp : Bool
  inf : Bool
  nan : Bool
  deriving DecidableEq, Repr

/-- binary32 (R163). -/
def fmtF32 : Fmt := { w := 32, s := true, e := 8, bias := 127, special := 2, sat := false, subn := true, block := 0, ieee := true }
/-- binary16. -/
def fmtF16 : Fmt := { w := 16, s := true, e := 5, bias := 15, special := 2, sat := false, subn := true, block := 0, ieee := true }
/-- bfloat16. -/
def fmtBf16 : Fmt := { w := 16, s := true, e := 8, bias := 127, special := 2, sat := false, subn := true, block := 0, ieee := true }

/-- A format-table entry (R38). -/
def fmtOfEntry (x : BitVec 32) : Fmt :=
  let n := x.toNat
  { w := Nat.field n 0 4, s := Nat.field n 4 1 = 1, e := Nat.field n 5 3
    bias := Nat.signed (Nat.field n 8 8) 8, special := Nat.field n 16 2, sat := Nat.field n 18 1 = 1
    subn := Nat.field n 19 1 = 1, block := Nat.field n 20 2, ieee := false }

/-- M = W − S − E (R164). -/
def Fmt.m (f : Fmt) : Nat := f.w - f.s.toNat - f.e

/-- The block size BS of R170, 0 when there is none. -/
def Fmt.blockSize (f : Fmt) : Nat := if f.block = 1 then 16 else if f.block = 2 then 32 else 0

/-- IntNaNCode (R165). -/
def intNanCode (f : Fmt) : Nat := if f.s then 2 ^ (f.w - 1) else 2 ^ f.w - 1

/-- Decode of R165 for a narrow code; a NaN takes `pay` (R180) and keeps the sign of its code where the format has
NaN codes of both signs (R166, log entry 76). -/
def decodeNarrow (f : Fmt) (pay : Nat) (code : Nat) : Num :=
  let c := Nat.low code f.w
  if f.e = 0 then
    if f.special ≠ 0 ∧ c = intNanCode f then .nan false pay false
    else
      let v := if f.s then Nat.signed c f.w else (c : Int)
      .fin (decide (v < 0)) v.natAbs (-f.bias)
  else
    let m := f.m
    let neg := f.s && Nat.field c (f.w - 1) 1 = 1
    let ef := Nat.field c m f.e
    let mf := Nat.low c m
    let top := 2 ^ f.e - 1
    if f.special = 2 ∧ ef = top then
      if mf = 0 then .inf neg else .nan neg pay false
    else if f.special = 1 ∧ ef = top ∧ mf = 2 ^ m - 1 then .nan neg pay false
    else if ef = 0 then
      if f.subn then .fin neg mf (1 - f.bias - m) else .fin neg 0 0
    else .fin neg (2 ^ m + mf) (ef - f.bias - m)

/-- Decode of an IEEE format (R163). A binary32 NaN keeps bits 21:0; a binary16 or bfloat16 NaN takes `pay`
(R180). Each keeps its sign, which `plainNan` drops where a binary16 or bfloat16 NaN goes into binary32. -/
def decodeIeee (f : Fmt) (pay : Nat) (c : Nat) : Num :=
  let m := f.m
  let neg := decide (Nat.field c (f.w - 1) 1 = 1)
  let ef := Nat.field c m f.e
  let mf := Nat.low c m
  if ef = 2 ^ f.e - 1 then
    if mf = 0 then .inf neg
    else if f.w = 32 then .nan neg (Nat.low mf 22) (decide (Nat.field mf 22 1 = 0))
    else .nan neg pay (decide (Nat.field mf (m - 1) 1 = 0))
  else if ef = 0 then .fin neg mf (1 - f.bias - m)
  else .fin neg (2 ^ m + mf) (ef - f.bias - m)

/-- A value decoded from a narrow or 16-bit format into binary32: a NaN is produced there, positive (R180). -/
def plainNan : Num → Num
  | .nan _ p g => .nan false p g
  | x => x

/-- Decode of any format. -/
def decodeFmt (f : Fmt) (pay c : Nat) : Num := if f.ieee then decodeIeee f pay c else decodeNarrow f pay c

/-- A binary32 pattern as a value. -/
def f32 (x : Nat) : Num := decodeIeee fmtF32 0 (Nat.low x 32)

/-- An exact integer as a value. -/
def numOfInt (x : Int) : Num := .fin (decide (x < 0)) x.natAbs 0

/-- The E8M0 scale s (R169): none for NaN, else its exponent. -/
def scaleExp (s : Nat) : Option Int := if s % 256 = 255 then none else some ((s % 256 : Nat) - 127)

/-- A value under a block scale (R170); a NaN scale gives a produced NaN. A NaN under a NaN scale stays as it is, with its own
sign (log entry 110, DESIGN CHOICE: R170 has an element NaN stay NaN and R181 the lesser payload win, and neither gives the
sign of the code that is written). -/
def scaleNum (x : Num) (s : Option Int) (pay : Nat) : Num :=
  match s, x with
  | none, .nan n p g => .nan n p g
  | none, _ => .nan false pay false
  | some k, .fin n m e => .fin n m (e + k)
  | some _, x => x

/-- The magnitude k × 2^e. -/
def magOf (k : Nat) (e : Int) : Mag :=
  if e < 0 then { num := k, den := 2 ^ (-e).toNat, root := false }
  else { num := k * 2 ^ e.toNat, den := 1, root := false }

/-- `a / 2^e`. -/
def Mag.shift (a : Mag) (e : Int) : Mag :=
  let k := e.natAbs * (if a.root then 2 else 1)
  if e < 0 then { a with num := a.num * 2 ^ k } else { a with den := a.den * 2 ^ k }

/-- One step of the digit-by-digit integer square root. -/
def isqrtGo (n : Nat) : Nat → Nat → Nat
  | 0, r => r
  | b + 1, r => isqrtGo n b (if (r + 2 ^ b) * (r + 2 ^ b) ≤ n then r + 2 ^ b else r)

/-- The integer square root. -/
def isqrt (n : Nat) : Nat := isqrtGo n (n.log2 / 2 + 1) 0

/-- ⌊a⌋. -/
def Mag.floor (a : Mag) : Nat := if a.root then isqrt (a.num / a.den) else a.num / a.den

/-- Whether a ≥ p / s. -/
def Mag.ge (a : Mag) (p s : Nat) : Bool :=
  if a.root then p * p * a.den ≤ a.num * (s * s) else p * a.den ≤ a.num * s

/-- Whether a > p / s. -/
def Mag.gt (a : Mag) (p s : Nat) : Bool :=
  if a.root then p * p * a.den < a.num * (s * s) else p * a.den < a.num * s

/-- ⌊log2 a⌋ of a nonzero magnitude. -/
def Mag.log (a : Mag) : Int :=
  let e : Int := (a.num.log2 : Int) - a.den.log2
  let r := if ({ a with root := false } : Mag).shift e |>.ge 1 1 then e else e - 1
  if a.root then r.fdiv 2 else r

/-- Rounding modes (R104). -/
abbrev rneMode : Nat := 0

/-- Quantise of R172 at a given quantum 2^e: the multiple of the quantum, and whether it is exact. -/
def quantiseAt (mode : Nat) (neg : Bool) (a : Mag) (e : Int) (rnd : Nat) : Nat × Bool :=
  let b := a.shift e
  let lo := b.floor
  let up :=
    match mode with
    | 0 => b.gt (2 * lo + 1) 2 || (b.ge (2 * lo + 1) 2 && lo % 2 = 1)
    | 1 => false
    | 2 => b.gt lo 1 && !neg
    | 3 => b.gt lo 1 && neg
    | _ => b.ge (65536 * lo + (65536 - rnd)) 65536
  (if up then lo + 1 else lo, !b.gt lo 1)

/-- The exponent of the quantum of R172 for a magnitude, with the exponent unbounded below when `free`. -/
def quantumOf (t : Target) (a : Mag) (free : Bool) : Int :=
  match t with
  | .int _ _ => 0
  | .float f =>
    if f.e = 0 then -f.bias
    else
      let ex := a.log
      (if f.subn && !free then Max.max ex (1 - f.bias) else ex) - f.m

/-- Whether a format has a NaN code (R166). -/
def Fmt.hasNan (f : Fmt) : Bool :=
  if f.e = 0 then f.special != 0 else f.special == 1 || (f.special == 2 && f.m != 0)

/-- Whether a format holds infinities (R166). -/
def Fmt.hasInf (f : Fmt) : Bool := f.e != 0 && f.special == 2

/-- The code of +max (R166). -/
def Fmt.maxCode (f : Fmt) : Nat :=
  if f.e = 0 then
    if f.s then 2 ^ (f.w - 1) - 1 else if f.special = 0 then 2 ^ f.w - 1 else 2 ^ f.w - 2
  else
    let m := f.m
    let top := 2 ^ f.e - 1
    if f.special = 2 then (top - 1) * 2 ^ m + (2 ^ m - 1)
    else if f.special = 1 then top * 2 ^ m + (2 ^ m - 1) - 1
    else top * 2 ^ m + (2 ^ m - 1)

/-- The code of min (R166): the most negative finite value, 0 without a sign. -/
def Fmt.minCode (f : Fmt) : Nat :=
  if !f.s then 0
  else if f.e = 0 then
    if f.special = 0 then 2 ^ (f.w - 1) else 2 ^ (f.w - 1) + 1
  else 2 ^ (f.w - 1) + f.maxCode

/-- The NaN code written, with a sign where the format has signed NaN codes (R166, R182). -/
def Fmt.nanCode (f : Fmt) (neg : Bool) : Nat :=
  if f.e = 0 then intNanCode f
  else
    let m := f.m
    let top := 2 ^ f.e - 1
    let c := if f.special = 2 then top * 2 ^ m + 2 ^ (m - 1) else top * 2 ^ m + (2 ^ m - 1)
    if f.s && neg then 2 ^ (f.w - 1) + c else c

/-- The infinity code of a sign. -/
def Fmt.infCode (f : Fmt) (neg : Bool) : Nat :=
  let c := (2 ^ f.e - 1) * 2 ^ f.m
  if f.s && neg then 2 ^ (f.w - 1) + c else c

/-- The zero of a sign; +0 where there is no negative zero (R175 row 7). -/
def Fmt.zeroCode (f : Fmt) (neg : Bool) : Nat := if f.s && f.e != 0 && neg then 2 ^ (f.w - 1) else 0

/-- The quiet binary32 NaN of R179 with a sign and bits 21:0. -/
def nanBits (neg : Bool) (payload : Nat) : Nat := (if neg then 2 ^ 31 else 0) + 0x7FC00000 + payload % 2 ^ 22

/-- The payload of a NaN produced on logical core `cid` in k-group `group` (R179). -/
def nanPayload (cid group : Nat) : Nat := (cid % 8192) * 512 + group % 512

/-- The finite magnitude of a code, as k × 2^e. -/
def magOfNum : Num → Nat × Int
  | .fin _ k e => (k, e)
  | _ => (0, 0)

/-- Whether k1 × 2^e1 > k2 × 2^e2. -/
def dyGt (k1 : Nat) (e1 : Int) (k2 : Nat) (e2 : Int) : Bool :=
  let e := Min.min e1 e2
  decide (k2 * 2 ^ (e2 - e).toNat < k1 * 2 ^ (e1 - e).toNat)

/-- The code of ± k × 2^e, representable in a format with E ≥ 1. -/
def encodeFloat (f : Fmt) (neg : Bool) (k : Nat) (e : Int) : Nat :=
  let m := f.m
  if k = 0 then f.zeroCode neg
  else
    let k' := if k = 2 ^ (m + 1) then 2 ^ m else k
    let e' := if k = 2 ^ (m + 1) then e + 1 else e
    let mag := if k' < 2 ^ m then k' else (e' + f.bias + m).toNat * 2 ^ m + (k' - 2 ^ m)
    if f.s && neg then 2 ^ (f.w - 1) + mag else mag

/-- The result of an overflow (R176). -/
def overflow (mode : Nat) (neg : Bool) (t : Target) : Conv :=
  match t with
  | .int bits sg =>
    { code := if sg then (if neg then 2 ^ (bits - 1) else 2 ^ (bits - 1) - 1) else (if neg then 0 else 2 ^ bits - 1)
      flags := flagFNV, clamp := true, inf := false, nan := false }
  | .float f =>
    let ext := if neg then f.minCode else f.maxCode
    let toInf := match mode with
      | 1 => false
      | 2 => !neg
      | 3 => neg
      | _ => true
    let fl := flagFOF ||| flagFNX
    let lim : Conv := { code := ext, flags := fl, clamp := true, inf := false, nan := false }
    if f.e = 0 then
      if f.special ≠ 0 && !f.sat then { code := f.nanCode neg, flags := fl, clamp := false, inf := false, nan := true }
      else lim
    else if f.special = 0 || f.sat || !toInf then lim
    else if f.special = 2 then { code := f.infCode neg, flags := fl, clamp := false, inf := true, nan := false }
    else { code := f.nanCode neg, flags := fl, clamp := false, inf := false, nan := true }

/-- Whether a quantised ± k × 2^e lies above max or below min (R175 row 8). -/
def outOfRange (t : Target) (neg : Bool) (k : Nat) (e : Int) : Bool :=
  match t with
  | .int bits sg =>
    if sg then (if neg then decide (2 ^ (bits - 1) < k) else decide (2 ^ (bits - 1) - 1 < k))
    else !neg && decide (2 ^ bits - 1 < k)
  | .float f =>
    if neg then f.s && (let m := magOfNum (decodeFmt f 0 f.minCode); dyGt k e m.1 m.2)
    else let m := magOfNum (decodeFmt f 0 f.maxCode); dyGt k e m.1 m.2

/-- Rows 7 to 11 of R175: a finite magnitude to a target. Row 9 sets FNV in place of FNX for an integer type, as
R176 words the same exchange (log entry 27). -/
def convertMag (mode : Nat) (t : Target) (rnd : Nat) (neg : Bool) (a : Mag) : Conv :=
  if a.num = 0 then
    { code := match t with | .float f => f.zeroCode neg | .int _ _ => 0
      flags := 0, clamp := false, inf := false, nan := false }
  else
    let e := quantumOf t a false
    let q := quantiseAt mode neg a e rnd
    if outOfRange t neg q.1 e then overflow mode neg t
    else
      match t with
      | .int bits sg =>
        if neg && !sg && q.1 != 0 then
          { code := 0, flags := flagFNV, clamp := true, inf := false, nan := false }
        else
          { code := Int.wrap (if neg then -(q.1 : Int) else q.1) bits
            flags := flagIf (!q.2) flagFNX, clamp := false, inf := false, nan := false }
      | .float f =>
        if neg && !f.s && q.1 != 0 then
          if !f.sat && f.hasNan then { code := f.nanCode true, flags := flagFNX, clamp := false, inf := false, nan := true }
          else { code := 0, flags := flagFNX, clamp := true, inf := false, nan := false }
        else if f.e = 0 then
          { code := Int.wrap (if neg then -(q.1 : Int) else q.1) f.w
            flags := flagIf (!q.2) flagFNX, clamp := false, inf := false, nan := false }
        else if !f.subn && q.1 != 0 && dyGt 1 (1 - f.bias) q.1 e then
          { code := f.zeroCode neg, flags := flagFUF ||| flagFNX, clamp := false, inf := false, nan := false }
        else
          let e' := quantumOf t a true
          let tiny := dyGt 1 (1 - f.bias) (quantiseAt mode neg a e' rnd).1 e'
          { code := encodeFloat f neg q.1 e
            flags := flagIf (!q.2) flagFNX ||| flagIf (!q.2 && tiny) flagFUF
            clamp := false, inf := false, nan := false }

/-- A conversion of R175: NaN and infinity rows, then `convertMag`. -/
def convert (mode : Nat) (t : Target) (rnd : Nat) (x : Num) : Conv :=
  match x, t with
  | .nan neg p sig, .float f =>
    if f.hasNan then
      { code := if f.w = 32 then nanBits neg p else f.nanCode neg
        flags := flagIf sig flagFNV, clamp := false, inf := false, nan := true }
    else { code := f.maxCode, flags := flagFNV, clamp := true, inf := false, nan := false }
  | .nan _ _ _, .int _ _ => { code := 0, flags := flagFNV, clamp := true, inf := false, nan := false }
  | .inf neg, .float f =>
    if f.hasInf then
      if neg && !f.s then
        (if !f.sat && f.hasNan then { code := f.nanCode true, flags := 0, clamp := false, inf := false, nan := true }
         else { code := 0, flags := 0, clamp := true, inf := false, nan := false })
      else { code := f.infCode neg, flags := 0, clamp := false, inf := false, nan := false }
    else if !f.sat && f.hasNan then { code := f.nanCode neg, flags := 0, clamp := false, inf := false, nan := true }
    else { code := if neg then f.minCode else f.maxCode, flags := 0, clamp := true, inf := false, nan := false }
  | .inf neg, .int bits sg =>
    { (overflow 0 neg (.int bits sg)) with flags := flagFNV }
  | .fin neg k e, t => convertMag mode t rnd neg (magOf k e)

/-- mix64 of R173. -/
def mix64 (x : Word) : Word :=
  let z := x + 0x9E3779B97F4A7C15#64
  let z := (z ^^^ (z >>> 30)) * 0xBF58476D1CE4E5B9#64
  let z := (z ^^^ (z >>> 27)) * 0x94D049BB133111EB#64
  z ^^^ (z >>> 31)

/-- The 16-bit rnd of element `e` (R173). -/
def rndOf (seed stream : Word) (e : Nat) : Nat :=
  (mix64 (seed ^^^ stream.rotateLeft 32 ^^^ BitVec.ofNat 64 e)).toNat / 2 ^ 48

/-- The NaN that R181 chooses among operands in source order, made quiet; a produced NaN comes last. -/
def pickNan (l : List Num) (produced : Option Nat) : Option Num :=
  let go := fun (acc : Option Num) (x : Num) =>
    match x, acc with
    | .nan n p _, none => some (.nan n p false)
    | .nan n p _, some (.nan n' p' g') => if p < p' then some (.nan n p false) else some (.nan n' p' g')
    | _, acc => acc
  let r := l.foldl go none
  match produced with
  | none => r
  | some p => go r (.nan false p false)

/-- Whether an operand is a signalling NaN. -/
def Num.isSig : Num → Bool
  | .nan _ _ s => s
  | _ => false

/-- Whether a value is a NaN. -/
def Num.isNan : Num → Bool
  | .nan _ _ _ => true
  | _ => false

/-- Whether a value is an infinity. -/
def Num.isInf : Num → Bool
  | .inf _ => true
  | _ => false

/-- Whether a value is a zero. -/
def Num.isZero : Num → Bool
  | .fin _ k _ => k == 0
  | _ => false

/-- The sign of a value. -/
def Num.neg? : Num → Bool
  | .nan n _ _ => n
  | .inf n => n
  | .fin n _ _ => n

/-- The value with its sign changed. -/
def Num.negate : Num → Num
  | .nan n p s => .nan n p s
  | .inf n => .inf (!n)
  | .fin n k e => .fin (!n) k e

/-- The exact sum of two finite values; the zero sum of opposite signs is −0 only in RDN (R183). -/
def addFin (mode : Nat) (n1 : Bool) (k1 : Nat) (e1 : Int) (n2 : Bool) (k2 : Nat) (e2 : Int) : Num :=
  let e := Min.min e1 e2
  let a : Int := k1 * 2 ^ (e1 - e).toNat
  let b : Int := k2 * 2 ^ (e2 - e).toNat
  let v := (if n1 then -a else a) + (if n2 then -b else b)
  if v = 0 then .fin (if n1 == n2 then n1 else mode == 3) 0 0
  else .fin (decide (v < 0)) v.natAbs e

/-- The exact sum of two values that are no NaN, none where it is an invalid operation (R191). -/
def addNum (mode : Nat) (x y : Num) : Option Num :=
  match x, y with
  | .inf a, .inf b => if a == b then some (.inf a) else none
  | .inf a, _ => some (.inf a)
  | _, .inf b => some (.inf b)
  | .fin a k e, .fin b l g => some (addFin mode a k e b l g)
  | x, _ => some x

/-- The exact product of two values that are no NaN, none where it is an invalid operation (R191). -/
def mulNum (x y : Num) : Option Num :=
  let s := x.neg? != y.neg?
  if x.isInf || y.isInf then (if x.isZero || y.isZero then none else some (.inf s))
  else
    match x, y with
    | .fin _ k e, .fin _ l g => some (.fin s (k * l) (e + g))
    | x, _ => some x

end Sys2Proof.Machine
end

