-- ==== Sys2Proof/Machine/FloatOps.lean ====
section
/-! DEFINITION. binary32 operations on bit patterns (R189 to R211): each gives the result's pattern and the
flags it raises. `mode`, `rnd` and `cid` are the rounding mode, the random word and the logical core. -/

namespace Sys2Proof.Machine

/-- A result pattern and the flags raised. -/
abbrev FRes := Nat × BitVec 7

/-- The NaN result of operands in source order, with one produced in the operation when `inv` (R181, R191). -/
def nanResult (ops : List Num) (inv : Bool) (cid : Nat) : FRes :=
  match pickNan ops (if inv then some (nanPayload cid 0) else none) with
  | some (.nan n p _) => (nanBits n p, flagIf (inv || ops.any Num.isSig) flagFNV)
  | _ => (nanBits false 0, 0)

/-- One rounding to binary32 (R175, R176). -/
def roundF32 (mode rnd : Nat) (x : Num) : FRes :=
  let c := convert mode (.float fmtF32) rnd x
  (c.code, c.flags)

/-- One rounding of a magnitude that may be a quotient or a root. -/
def roundMagF32 (mode rnd : Nat) (neg : Bool) (a : Mag) : FRes :=
  let c := convertMag mode (.float fmtF32) rnd neg a
  (c.code, c.flags)

/-- `fadd` (R194). -/
def fAdd (mode rnd cid x y : Nat) : FRes :=
  let a := f32 x
  let b := f32 y
  if a.isNan || b.isNan then nanResult [a, b] false cid
  else
    match addNum mode a b with
    | none => nanResult [] true cid
    | some v => roundF32 mode rnd v

/-- `fsub` (R194): a NaN operand is passed on with its own sign. -/
def fSub (mode rnd cid x y : Nat) : FRes :=
  let a := f32 x
  let b := f32 y
  if a.isNan || b.isNan then nanResult [a, b] false cid
  else
    match addNum mode a b.negate with
    | none => nanResult [] true cid
    | some v => roundF32 mode rnd v

/-- `fmul` (R194). -/
def fMul (mode rnd cid x y : Nat) : FRes :=
  let a := f32 x
  let b := f32 y
  if a.isNan || b.isNan then nanResult [a, b] false cid
  else
    match mulNum a b with
    | none => nanResult [] true cid
    | some v => roundF32 mode rnd v

/-- Fused multiply-add of values (R191, R194): 0 × ∞ is invalid even when the addend is NaN. -/
def fmaNum (mode rnd cid : Nat) (a b c : Num) : FRes :=
  if a.isNan || b.isNan then nanResult [a, b, c] false cid
  else
    match mulNum a b with
    | none => nanResult [c] true cid
    | some p =>
      if c.isNan then nanResult [c] false cid
      else
        match addNum mode p c with
        | none => nanResult [] true cid
        | some v => roundF32 mode rnd v

/-- `ffma` (R194). -/
def fFma (mode rnd cid x y z : Nat) : FRes := fmaNum mode rnd cid (f32 x) (f32 y) (f32 z)

/-- The quotient of two values (R191). -/
def divNum (mode rnd cid : Nat) (ops : List Num) (a b : Num) : FRes :=
  let s := a.neg? != b.neg?
  if a.isNan || b.isNan then nanResult ops false cid
  else if (a.isZero && b.isZero) || (a.isInf && b.isInf) then nanResult [] true cid
  else if a.isInf then roundF32 mode rnd (.inf s)
  else if b.isInf then roundF32 mode rnd (.fin s 0 0)
  else if b.isZero then ((convert mode (.float fmtF32) rnd (.inf s)).code, flagFDZ)
  else
    match a, b with
    | .fin _ k e, .fin _ l g =>
      roundMagF32 mode rnd s ({ num := k, den := l, root := false : Mag }.shift (g - e))
    | _, _ => nanResult [] true cid

/-- `fdiv` (R194). -/
def fDiv (mode rnd cid x y : Nat) : FRes := divNum mode rnd cid [f32 x, f32 y] (f32 x) (f32 y)

/-- `frcp` (R194). -/
def fRcp (mode rnd cid x : Nat) : FRes := divNum mode rnd cid [f32 x] (.fin false 1 0) (f32 x)

/-- `fsqrt` (R194). -/
def fSqrt (mode rnd cid x : Nat) : FRes :=
  match f32 x with
  | .nan n p s => nanResult [.nan n p s] false cid
  | .inf n => if n then nanResult [] true cid else roundF32 mode rnd (.inf false)
  | .fin n k e =>
    if k = 0 then roundF32 mode rnd (.fin n 0 0)
    else if n then nanResult [] true cid
    else roundMagF32 mode rnd false ({ num := k, den := 1, root := true : Mag }.shift
           (-(if e % 2 = 0 then e / 2 else (e - 1) / 2)) |> fun m =>
             if e % 2 = 0 then m else { m with num := m.num * 2 })

/-- Whether x < y for two values that are no NaN; −0 equals +0. -/
def numLt (x y : Num) : Bool :=
  match x, y with
  | .inf a, .inf b => a && !b
  | .inf a, _ => a
  | _, .inf b => !b
  | .fin a k e, .fin b l g =>
    let m := Min.min e g
    let u : Int := k * 2 ^ (e - m).toNat
    let v : Int := l * 2 ^ (g - m).toNat
    decide ((if a then -u else u) < (if b then -v else v))
  | _, _ => false

/-- The lesser (or greater) of two patterns (R195); −0 lies below +0. -/
def fMinMax (max nan : Bool) (cid x y : Nat) : FRes :=
  let a := f32 x
  let b := f32 y
  let fl := flagIf (a.isSig || b.isSig) flagFNV
  if a.isNan && b.isNan then nanResult [a, b] false cid
  else if a.isNan then (if nan then nanResult [a, b] false cid else (y % 2 ^ 32, fl))
  else if b.isNan then (if nan then nanResult [a, b] false cid else (x % 2 ^ 32, fl))
  else
    let less := numLt a b || (!numLt b a && a.neg? && !b.neg?)
    ((if less != max then x else y) % 2 ^ 32, 0)

/-- `fcmp` (R196): the condition, and FNV. -/
def fCmp (cond x y : Nat) : Bool × BitVec 7 :=
  let a := f32 x
  let b := f32 y
  let un := a.isNan || b.isNan
  let lt := !un && numLt a b
  let gt := !un && numLt b a
  let eq := !un && !numLt a b && !numLt b a
  let c := match cond with
    | 0 => eq
    | 1 => !eq
    | 2 => lt
    | 3 => lt || eq
    | 4 => gt
    | 5 => gt || eq
    | 6 => un
    | _ => !un
  let sig := a.isSig || b.isSig
  (c, flagIf (if 2 ≤ cond ∧ cond ≤ 5 then un else sig) flagFNV)

/-- `fclass` (R199). -/
def fClass (x : Nat) : Nat :=
  match f32 x with
  | .inf n => if n then 0x001 else 0x080
  | .nan _ _ s => if s then 0x100 else 0x200
  | .fin n _ _ =>
    let ef := Nat.field x 23 8
    let mf := Nat.low x 23
    if ef = 0 then (if mf = 0 then (if n then 0x008 else 0x010) else if n then 0x004 else 0x020)
    else if n then 0x002 else 0x040

/-- `vfscale` (R205). The exponent is cut to ±1,024, past which every result is the same. -/
def fScale (mode rnd cid x n : Nat) : FRes :=
  match f32 x with
  | .nan s p g => nanResult [.nan s p g] false cid
  | .inf s => roundF32 mode rnd (.inf s)
  | .fin s k e => roundF32 mode rnd (.fin s k (e + Max.max (-1024) (Min.min 1024 (Nat.signed n 32))))

/-- A fused multiply-add rounded RNE, as a pattern. -/
def fmaRne (x y z : Nat) : Nat := (fFma rneMode 0 0 x y z).1

/-- The coefficients C5 down to C0 of R210. -/
def ex2Coeffs : List Nat := [0x3AAEC3FF, 0x3C1D955B, 0x3D635847, 0x3E75FDF0, 0x3F317218, 0x3F800000]

/-- `vfex2` (R210). -/
def fEx2 (mode rnd cid x : Nat) : FRes :=
  match f32 x with
  | .nan s p g => nanResult [.nan s p g] false cid
  | .inf s => if s then (0, 0) else roundF32 mode rnd (.inf false)
  | .fin s k e =>
    let v := Num.fin s k e
    let q := quantiseAt rneMode s (magOf k e) 0 0
    let nonInt := flagIf (!(quantiseAt 1 s (magOf k e) 0 0).2) flagFNX
    if !numLt v (.fin false 128 0) then
      let r := roundF32 mode rnd (.fin false 1 128); (r.1, r.2 ||| nonInt)
    else if numLt v (.fin true 160 0) then
      let r := roundF32 mode rnd (.fin false 1 (-160)); (r.1, r.2 ||| nonInt)
    else
      let n : Int := if s then -(q.1 : Int) else q.1
      let f := (roundF32 rneMode 0 (addFin 0 s k e (!s) q.1 0)).1
      let p := ex2Coeffs.foldl (fun p c => fmaRne p f c) 0x39218489
      match f32 p with
      | .fin ps pk pe => let r := roundF32 mode rnd (.fin ps pk (pe + n)); (r.1, r.2 ||| nonInt)
      | _ => (p, nonInt)

/-- One Newton step of R211. -/
def rsqStep (m y : Nat) : Nat :=
  let t := (fMul rneMode 0 0 y m).1
  let d := fmaRne (t ^^^ 0x80000000) y 0x3F800000
  let s := (fMul rneMode 0 0 y 0x3F000000).1
  fmaRne s d y

/-- `vfrsq` (R211). -/
def fRsq (mode rnd cid x : Nat) : FRes :=
  match f32 x with
  | .nan s p g => nanResult [.nan s p g] false cid
  | .inf s => if s then nanResult [] true cid else (0, 0)
  | .fin s k e =>
    if k = 0 then ((convert mode (.float fmtF32) rnd (.inf s)).code, flagFDZ)
    else if s then nanResult [] true cid
    else
      let h := (magOf k e).log.fdiv 2
      let m := (roundF32 rneMode 0 (.fin false k (e - 2 * h))).1
      let y0 := fmaRne 0xBE200000 m 0x3F900000
      let y := rsqStep m (rsqStep m (rsqStep m (rsqStep m y0)))
      match f32 y with
      | .fin ys yk ye => let r := roundF32 mode rnd (.fin ys yk (ye - h)); (r.1, r.2 ||| flagFNX)
      | _ => (y, flagFNX)

/-- What a conversion reads (R193): a kind code of FROM to an exact value; `entry` is its format entry. -/
def readKind (kind : Nat) (entry : BitVec 32) (pay x : Nat) : Num :=
  if kind < 8 then
    let bits := 8 * 2 ^ (kind % 4)
    numOfInt (if kind < 4 then Nat.signed x bits else (Nat.low x bits : Nat))
  else if kind = 8 then f32 x
  else if kind = 9 then decodeIeee fmtF16 pay (Nat.low x 16)
  else if kind = 10 then decodeIeee fmtBf16 pay (Nat.low x 16)
  else decodeNarrow (fmtOfEntry entry) pay x

/-- The target that a kind code of TO names (R193). -/
def kindTarget (kind : Nat) (entry : BitVec 32) : Target :=
  if kind < 8 then .int (8 * 2 ^ (kind % 4)) (kind < 4)
  else if kind = 8 then .float fmtF32
  else if kind = 9 then .float fmtF16
  else if kind = 10 then .float fmtBf16
  else .float (fmtOfEntry entry)

/-- A conversion between kinds (R175, R178, R197): integer to integer keeps low bits with no flag; a
decoded signalling binary16 or bfloat16 NaN sets FNV, and into binary32 its sign is dropped (R180). -/
def convertKind (mode rnd pay src dst : Nat) (es ed : BitVec 32) (x : Nat) : Conv :=
  let v := readKind src es pay x
  let v := if dst = 8 && src != 8 then plainNan v else v
  if src < 8 && dst < 8 then
    { code := Nat.low x (8 * 2 ^ (dst % 4)), flags := 0, clamp := false, inf := false, nan := false }
  else convert mode (kindTarget dst ed) rnd v

/-- The value written to a register of `n` bits by a result of a kind: integer results extended (R193). -/
def extendKind (src dst n x code : Nat) : Nat :=
  if dst < 8 then
    let bits := 8 * 2 ^ (dst % 4)
    let y := if src < 8 then
      (let sb := 8 * 2 ^ (src % 4); Int.wrap (if src < 4 then Nat.signed x sb else (Nat.low x sb : Nat)) bits)
      else code
    if dst < 4 then Int.wrap (Nat.signed y bits) n else Nat.low y bits
  else code

end Sys2Proof.Machine
end

