-- ==== Sys2Proof/Machine/Scalar.lean ====
section
/-! DEFINITION. Groups 0x0 to 0x2 (R136 to R148): integer arithmetic and logic, fields, immediates, predicates. -/

namespace Sys2Proof.Machine

/-! ## Values of group 0x0. `n` is the width, `x` and `y` are the operands' low `n` bits. -/

/-- The width that W selects (R136). -/
def widthOf (w : Bool) : Nat := if w then 32 else 64

/-- A result of `n` bits, sign-extended to 64 (R136). -/
def extendTo64 (n r : Nat) : Word := BitVec.ofInt 64 (Nat.signed r n)

def valAdd (n x y : Nat) : Nat := (x + y) % 2 ^ n
def valSub (n x y : Nat) : Nat := Int.wrap ((x : Int) - y) n
def valMul (n x y : Nat) : Nat := x * y % 2 ^ n
def valMulh (n x y : Nat) : Nat := Int.wrap (Int.fdiv (Nat.signed x n * Nat.signed y n) (2 ^ n)) n
def valMulhn (n x y : Nat) : Nat := x * y / 2 ^ n
def valAnd (_ x y : Nat) : Nat := x &&& y
def valOr (_ x y : Nat) : Nat := x ||| y
def valXor (_ x y : Nat) : Nat := x ^^^ y
def valAndn (n x y : Nat) : Nat := x &&& (2 ^ n - 1 - y)
def valOrn (n x y : Nat) : Nat := x ||| (2 ^ n - 1 - y)
def valShl (n x y : Nat) : Nat := x * 2 ^ (y % n) % 2 ^ n
def valShr (n x y : Nat) : Nat := x / 2 ^ (y % n)
def valSar (n x y : Nat) : Nat := Int.wrap (Int.fdiv (Nat.signed x n) (2 ^ (y % n))) n
def valRol (n x y : Nat) : Nat := x * 2 ^ (y % n) % 2 ^ n + x / 2 ^ (n - y % n)
def valMin (n x y : Nat) : Nat := if Nat.signed x n ≤ Nat.signed y n then x else y
def valMax (n x y : Nat) : Nat := if Nat.signed x n ≤ Nat.signed y n then y else x
def valMinn (_ x y : Nat) : Nat := if x ≤ y then x else y
def valMaxn (_ x y : Nat) : Nat := if x ≤ y then y else x

/-- Quotient and remainder of R139, with the DZ flag. -/
def divide (n x y : Nat) (signed : Bool) : Nat × Nat × BitVec 7 :=
  if y = 0 then (2 ^ n - 1, x, flagDZ)
  else if signed then
    (Int.wrap (Int.tdiv (Nat.signed x n) (Nat.signed y n)) n,
      Int.wrap (Int.tmod (Nat.signed x n) (Nat.signed y n)) n, 0)
  else (x / y, x % y, 0)

def valDiv (n x y : Nat) : Nat × BitVec 7 := ((divide n x y true).1, (divide n x y true).2.2)
def valDivn (n x y : Nat) : Nat × BitVec 7 := ((divide n x y false).1, (divide n x y false).2.2)
def valRem (n x y : Nat) : Nat × BitVec 7 := ((divide n x y true).2.1, (divide n x y true).2.2)
def valRemn (n x y : Nat) : Nat × BitVec 7 := ((divide n x y false).2.1, (divide n x y false).2.2)

/-- Leading zero bits of the low `n` bits of `x` (R140). -/
def valClz (n x : Nat) : Nat := if x = 0 then n else n - 1 - x.log2

/-- Trailing zero bits of the low `k` bits of `x`, `k` when there is no one bit. -/
def trailing : Nat → Nat → Nat
  | 0, _ => 0
  | k + 1, x => if x % 2 = 1 then 0 else trailing k (x / 2) + 1

/-- One bits among the low `k` bits of `x`. -/
def ones : Nat → Nat → Nat
  | 0, _ => 0
  | k + 1, x => x % 2 + ones k (x / 2)

/-- The low `k` bits of `x` in reverse order. -/
def reverseBits : Nat → Nat → Nat
  | 0, _ => 0
  | k + 1, x => x % 2 * 2 ^ k + reverseBits k (x / 2)

/-- The low `k` bytes of `x` in reverse order. -/
def reverseBytes : Nat → Nat → Nat
  | 0, _ => 0
  | k + 1, x => x % 256 * 256 ^ k + reverseBytes k (x / 256)

def valCtz (n x : Nat) : Nat := trailing n x
def valPopc (n x : Nat) : Nat := ones n x
def valBrev (n x : Nat) : Nat := reverseBits n x
def valBswap (n x : Nat) : Nat := reverseBytes (n / 8) x

/-! ## Forms of group 0x0 -/

/-- A word with two sources (R136, R138, R139): a flag that it raises is set before D is written, so that a D of `fst`
clears it (R128, R139). -/
def alu2 (h : Hints) (w : Bool) (d a : Opnd) (b : SrcB) (val : Nat → Nat → Nat → Nat × BitVec 7) (s : State) :
    Host.Outcome State Fault Refusal :=
  runWord { h := h, grp := 0, fields := fieldD .gw d :: fieldA .g a :: fieldSrc .g b } (do
    let x ← readG 1 a
    let y ← readB b
    let n := widthOf w
    let r := val n (Nat.low x.toNat n) (Nat.low y.toNat n)
    raiseNow r.2
    writeG d (extendTo64 n r.1)
    return .seq) s

/-- A word with one source (R136, R140). -/
def alu1 (h : Hints) (w : Bool) (d a : Opnd) (val : Nat → Nat → Nat) (s : State) :
    Host.Outcome State Fault Refusal :=
  runWord { h := h, grp := 0, fields := [fieldD .gw d, fieldA .g a] } (do
    let x ← readG 1 a
    let n := widthOf w
    writeG d (extendTo64 n (val n (Nat.low x.toNat n)))
    return .seq) s

/-- A value function that sets no flag. -/
def noFlag (val : Nat → Nat → Nat → Nat) (n x y : Nat) : Nat × BitVec 7 := (val n x y, 0)

/-! ## Meanings of group 0x0 -/

def execAdd (h : Hints) (w : Bool) (d a : Opnd) (b : SrcB) (s : State) : Host.Outcome State Fault Refusal :=
  alu2 h w d a b (noFlag valAdd) s
def execSub (h : Hints) (w : Bool) (d a : Opnd) (b : SrcB) (s : State) : Host.Outcome State Fault Refusal :=
  alu2 h w d a b (noFlag valSub) s
def execMul (h : Hints) (w : Bool) (d a : Opnd) (b : SrcB) (s : State) : Host.Outcome State Fault Refusal :=
  alu2 h w d a b (noFlag valMul) s
def execMulh (h : Hints) (w : Bool) (d a : Opnd) (b : SrcB) (s : State) : Host.Outcome State Fault Refusal :=
  alu2 h w d a b (noFlag valMulh) s
def execMulhn (h : Hints) (w : Bool) (d a : Opnd) (b : SrcB) (s : State) : Host.Outcome State Fault Refusal :=
  alu2 h w d a b (noFlag valMulhn) s
def execDiv (h : Hints) (w : Bool) (d a : Opnd) (b : SrcB) (s : State) : Host.Outcome State Fault Refusal :=
  alu2 h w d a b valDiv s
def execDivn (h : Hints) (w : Bool) (d a : Opnd) (b : SrcB) (s : State) : Host.Outcome State Fault Refusal :=
  alu2 h w d a b valDivn s
def execRem (h : Hints) (w : Bool) (d a : Opnd) (b : SrcB) (s : State) : Host.Outcome State Fault Refusal :=
  alu2 h w d a b valRem s
def execRemn (h : Hints) (w : Bool) (d a : Opnd) (b : SrcB) (s : State) : Host.Outcome State Fault Refusal :=
  alu2 h w d a b valRemn s
def execAnd (h : Hints) (w : Bool) (d a : Opnd) (b : SrcB) (s : State) : Host.Outcome State Fault Refusal :=
  alu2 h w d a b (noFlag valAnd) s
def execOr (h : Hints) (w : Bool) (d a : Opnd) (b : SrcB) (s : State) : Host.Outcome State Fault Refusal :=
  alu2 h w d a b (noFlag valOr) s
def execXor (h : Hints) (w : Bool) (d a : Opnd) (b : SrcB) (s : State) : Host.Outcome State Fault Refusal :=
  alu2 h w d a b (noFlag valXor) s
def execAndn (h : Hints) (w : Bool) (d a : Opnd) (b : SrcB) (s : State) : Host.Outcome State Fault Refusal :=
  alu2 h w d a b (noFlag valAndn) s
def execOrn (h : Hints) (w : Bool) (d a : Opnd) (b : SrcB) (s : State) : Host.Outcome State Fault Refusal :=
  alu2 h w d a b (noFlag valOrn) s
def execShl (h : Hints) (w : Bool) (d a : Opnd) (b : SrcB) (s : State) : Host.Outcome State Fault Refusal :=
  alu2 h w d a b (noFlag valShl) s
def execShr (h : Hints) (w : Bool) (d a : Opnd) (b : SrcB) (s : State) : Host.Outcome State Fault Refusal :=
  alu2 h w d a b (noFlag valShr) s
def execSar (h : Hints) (w : Bool) (d a : Opnd) (b : SrcB) (s : State) : Host.Outcome State Fault Refusal :=
  alu2 h w d a b (noFlag valSar) s
def execRol (h : Hints) (w : Bool) (d a : Opnd) (b : SrcB) (s : State) : Host.Outcome State Fault Refusal :=
  alu2 h w d a b (noFlag valRol) s
def execMin (h : Hints) (w : Bool) (d a : Opnd) (b : SrcB) (s : State) : Host.Outcome State Fault Refusal :=
  alu2 h w d a b (noFlag valMin) s
def execMax (h : Hints) (w : Bool) (d a : Opnd) (b : SrcB) (s : State) : Host.Outcome State Fault Refusal :=
  alu2 h w d a b (noFlag valMax) s
def execMinn (h : Hints) (w : Bool) (d a : Opnd) (b : SrcB) (s : State) : Host.Outcome State Fault Refusal :=
  alu2 h w d a b (noFlag valMinn) s
def execMaxn (h : Hints) (w : Bool) (d a : Opnd) (b : SrcB) (s : State) : Host.Outcome State Fault Refusal :=
  alu2 h w d a b (noFlag valMaxn) s
def execClz (h : Hints) (w : Bool) (d a : Opnd) (s : State) : Host.Outcome State Fault Refusal :=
  alu1 h w d a valClz s
def execCtz (h : Hints) (w : Bool) (d a : Opnd) (s : State) : Host.Outcome State Fault Refusal :=
  alu1 h w d a valCtz s
def execPopc (h : Hints) (w : Bool) (d a : Opnd) (s : State) : Host.Outcome State Fault Refusal :=
  alu1 h w d a valPopc s
def execBrev (h : Hints) (w : Bool) (d a : Opnd) (s : State) : Host.Outcome State Fault Refusal :=
  alu1 h w d a valBrev s
def execBswap (h : Hints) (w : Bool) (d a : Opnd) (s : State) : Host.Outcome State Fault Refusal :=
  alu1 h w d a valBswap s

/-- R141 `bfx`. -/
def execBfx (h : Hints) (sg : Bool) (d a : Opnd) (pos len1 : BitVec 6) (s : State) :
    Host.Outcome State Fault Refusal :=
  runWord { h := h, grp := 0, fields := [fieldD .gw d, fieldA .g a] } (do
    let x ← readG 1 a
    let len := len1.toNat + 1
    let f := Nat.field x.toNat pos.toNat len
    writeG d (if sg then extendTo64 len f else BitVec.ofNat 64 f)
    return .seq) s

/-- R141 `bfi`. -/
def execBfi (h : Hints) (d a : Opnd) (pos len1 : BitVec 6) (s : State) : Host.Outcome State Fault Refusal :=
  runWord { h := h, grp := 0, fields := [fieldD .grw d, fieldA .g a] } (do
    let x ← readG 1 a
    let t ← readG 0 d
    let len := len1.toNat + 1
    let p := 2 ^ pos.toNat
    let old := t.toNat
    writeG d (BitVec.ofNat 64 (old % p + Nat.low x.toNat len * p + old / (p * 2 ^ len) * (p * 2 ^ len)))
    return .seq) s

/-- R142 `sel`. -/
def execSel (h : Hints) (d a : Opnd) (b : SrcB) (qc : BitVec 4) (qn : Bool) (s : State) :
    Host.Outcome State Fault Refusal :=
  runWord { h := h, grp := 0, fields := fieldD .gw d :: fieldA .g a :: fieldSrc .g b } (do
    let p ← readPred qc.toNat
    let x ← readG 1 a
    let y ← readB b
    writeG d (if p != qn then x else y)
    return .seq) s

/-- R142 `mov`. -/
def execMov (h : Hints) (w : Bool) (d a : Opnd) (s : State) : Host.Outcome State Fault Refusal :=
  runWord { h := h, grp := 0, fields := [fieldD .gw d, fieldA .g a] } (do
    let x ← readG 1 a
    writeG d (extendTo64 (widthOf w) (Nat.low x.toNat (widthOf w)))
    return .seq) s

/-- The width that WID selects (R142). -/
def widBits (wid : BitVec 2) : Nat := 8 * 2 ^ wid.toNat

/-- R142 `sext`. -/
def execSext (h : Hints) (wid : BitVec 2) (d a : Opnd) (s : State) : Host.Outcome State Fault Refusal :=
  runWord { h := h, grp := 0, fields := [fieldD .gw d, fieldA .g a] } (do
    let x ← readG 1 a
    writeG d (extendTo64 (widBits wid) (Nat.low x.toNat (widBits wid)))
    return .seq) s

/-- R142 `zext`. -/
def execZext (h : Hints) (wid : BitVec 2) (d a : Opnd) (s : State) : Host.Outcome State Fault Refusal :=
  runWord { h := h, grp := 0, fields := [fieldD .gw d, fieldA .g a] } (do
    let x ← readG 1 a
    writeG d (BitVec.ofNat 64 (Nat.low x.toNat (widBits wid)))
    return .seq) s

/-- R142 `lea`. -/
def execLea (h : Hints) (d a b : Opnd) (sh : BitVec 3) (disp : BitVec 32) (s : State) :
    Host.Outcome State Fault Refusal :=
  runWord { h := h, grp := 0, fields := [fieldD .gw d, fieldA .g a, fieldB .g b] } (do
    let x ← readG 1 a
    let y ← readG 2 b
    writeG d (x + (y <<< sh.toNat) + disp.signExtend 64)
    return .seq) s

/-- R142 `mad`: D is read after A and B, as a further source (R111). -/
def execMad (h : Hints) (w : Bool) (d a : Opnd) (b : SrcB) (s : State) : Host.Outcome State Fault Refusal :=
  runWord { h := h, grp := 0, fields := fieldD .grw d :: fieldA .g a :: fieldSrc .g b } (do
    let x ← readG 1 a
    let y ← readB b
    let z ← readG 0 d
    let n := widthOf w
    writeG d (extendTo64 n ((z.toNat + x.toNat * y.toNat) % 2 ^ n))
    return .seq) s

/-- R143 `li`. -/
def execLi (h : Hints) (d : Opnd) (imm : BitVec 60) (s : State) : Host.Outcome State Fault Refusal :=
  runWord { h := h, grp := 1, fields := [fieldD .gw d] } (do
    writeG d (imm.signExtend 64)
    return .seq) s

/-- R143 `lpc`. -/
def execLpc (h : Hints) (d : Opnd) (imm : BitVec 60) (s : State) : Host.Outcome State Fault Refusal :=
  runWord { h := h, grp := 1, fields := [fieldD .gw d] } (do
    let f ← getF
    writeG d (BitVec.ofNat 64 f.pc + imm.signExtend 64)
    return .seq) s

/-! ## Group 0x2 -/

/-- Operands compared at the width and signedness of an integer type code (R104, R145). -/
def asTyped (ty : BitVec 3) (x : Word) : Int :=
  let n := 8 * 2 ^ (ty.toNat % 4)
  if ty.toNat < 4 then Nat.signed x.toNat n else (Nat.low x.toNat n : Int)

/-- The conditions of R145. -/
def condHolds (cond : Nat) (x y : Int) : Bool :=
  match cond with
  | 0 => x == y
  | 1 => x != y
  | 2 => decide (x < y)
  | 3 => decide (x ≤ y)
  | 4 => decide (y < x)
  | _ => decide (y ≤ x)

/-- The predicate number of a D, A or B field in a q position. -/
def predNum (o : Opnd) : Nat := o.toNat % 16

/-- COMB decides the write of a comparison (R145). -/
def combine (d : Opnd) (comb : BitVec 2) (c : Bool) : M Unit := do
  let n := predNum d
  match comb.toNat with
  | 0 => writePred n c
  | 1 => do
    let old ← readPred n
    writePred n (old && c)
  | _ => do
    let old ← readPred n
    writePred n (old || c)

/-- R145 `cmp`. -/
def execCmp (h : Hints) (d a : Opnd) (b : SrcB) (ty : BitVec 3) (cond : BitVec 4) (comb : BitVec 2)
    (s : State) : Host.Outcome State Fault Refusal :=
  runWord { h := h, grp := 2, fields := fieldD .q d :: fieldA .g a :: fieldSrc .g b } (do
    let x ← readG 1 a
    let y ← readB b
    combine d comb (condHolds cond.toNat (asTyped ty x) (asTyped ty y))
    return .seq) s

/-- R146 `tst`. -/
def execTst (h : Hints) (d a : Opnd) (b : SrcB) (z : Bool) (comb : BitVec 2) (s : State) :
    Host.Outcome State Fault Refusal :=
  runWord { h := h, grp := 2, fields := fieldD .q d :: fieldA .g a :: fieldSrc .g b } (do
    let x ← readG 1 a
    let y ← readB b
    combine d comb ((x &&& y == 0) == z)
    return .seq) s

/-- The predicate-logic words (R147). -/
def predLogic (h : Hints) (d a b : Opnd) (na nb : Bool) (op : Bool → Bool → Bool) (s : State) :
    Host.Outcome State Fault Refusal :=
  runWord { h := h, grp := 2, fields := [fieldD .q d, fieldA .q a, fieldB .q b] } (do
    let x ← readPred (predNum a)
    let y ← readPred (predNum b)
    writePred (predNum d) (op (x != na) (y != nb))
    return .seq) s

/-- R147 `pand`. -/
def execPand (h : Hints) (d a b : Opnd) (na nb : Bool) (s : State) : Host.Outcome State Fault Refusal :=
  predLogic h d a b na nb (· && ·) s
/-- R147 `por`. -/
def execPor (h : Hints) (d a b : Opnd) (na nb : Bool) (s : State) : Host.Outcome State Fault Refusal :=
  predLogic h d a b na nb (· || ·) s
/-- R147 `pxor`. -/
def execPxor (h : Hints) (d a b : Opnd) (na nb : Bool) (s : State) : Host.Outcome State Fault Refusal :=
  predLogic h d a b na nb (fun x y => x != y) s

/-- R147 `pnot`. -/
def execPnot (h : Hints) (d a : Opnd) (s : State) : Host.Outcome State Fault Refusal :=
  runWord { h := h, grp := 2, fields := [fieldD .q d, fieldA .q a] } (do
    let x ← readPred (predNum a)
    writePred (predNum d) (!x)
    return .seq) s

/-- An outstanding result of the frond is a predicate (R127). -/
def anyOutPred (f : Frond) : Bool := (List.range 16).any (fun n => outPred f n)

/-- R148 `pset`. -/
def execPset (h : Hints) (a : Opnd) (s : State) : Host.Outcome State Fault Refusal :=
  runWord { h := h, grp := 2, fields := [fieldA .g a] } (do
    let x ← readG 1 a
    hazard (anyOutPred (← getF))
    modF (fun f => { f with preds := (x.setWidth 16) ||| 1 })
    return .seq) s

/-- R148 `pget`. -/
def execPget (h : Hints) (d : Opnd) (s : State) : Host.Outcome State Fault Refusal :=
  runWord { h := h, grp := 2, fields := [fieldD .gw d] } (do
    let f ← getF
    hazard (anyOutPred f)
    writeG d ((f.preds ||| 1).setWidth 64)
    return .seq) s

end Sys2Proof.Machine
end

