-- ==== Sys2Proof/Machine/Float.lean ====
section
/-! DEFINITION. Group 0x4 (R192 to R199): scalar binary32 arithmetic, comparison and conversion. -/

namespace Sys2Proof.Machine

/-! ## What rounding and NaNs depend on -/

/-- The logical core of the frond's core, for produced NaNs (R179, R189). -/
def nanCore : M Nat := do
  let c ← get
  return cidOf c.s c.f

/-- SEED of a job (R25). -/
def seedOf (s : State) (jid : Nat) : Word :=
  match findJob s jid with
  | some j => j.seed
  | none => 0

/-- The random word of element `e` (R173, R174). -/
def randomOf (e : Nat) : M Nat := do
  let c ← get
  return rndOf (seedOf c.s c.f.jid) c.f.sseed e

/-- Format-table entry `code` of a job (R38). -/
def formatEntry (s : State) (jid code : Nat) : BitVec 32 :=
  match findJob s jid with
  | some j => j.fmts.getD code 0
  | none => 0

/-- The format entry of a kind code of R193, 0 for a kind that is no narrow format. -/
def kindEntry (s : State) (jid kind : Nat) : BitVec 32 :=
  if kind < 0x11 then 0 else formatEntry s jid (kind - 0x10)

/-- An unused entry that a kind code names raises OPERAND (R39, R197). -/
def checkKind (kind : Nat) : M Unit := if kind < 0x11 then pure () else checkEntry (kind - 0x10)

/-- The binary32 pattern of a scalar operand. -/
def lowPattern (x : Word) : Nat := x.toNat % 2 ^ 32

/-- A scalar binary32 result is written with bits 63:32 zero (R163), after the flags of its rounding (R194). -/
def writePattern (d : Opnd) (r : FRes) : M Unit := do
  raiseNow r.2
  writeG d (BitVec.ofNat 64 (r.1 % 2 ^ 32))

/-! ## Forms -/

/-- A word with two binary32 sources (R194, R195). -/
def float2 (h : Hints) (d a : Opnd) (b : SrcB) (op : Nat → Nat → Nat → Nat → FRes) (s : State) :
    Host.Outcome State Fault Refusal :=
  runWord { h := h, grp := 4, fields := fieldD .gw d :: fieldA .g a :: fieldSrc .g b } (do
    let x ← readG 1 a
    let y ← readB b
    writePattern d (op (← randomOf 0) (← nanCore) (lowPattern x) (lowPattern y))
    return .seq) s

/-- A word with one binary32 source (R194). -/
def float1 (h : Hints) (d a : Opnd) (op : Nat → Nat → Nat → FRes) (s : State) :
    Host.Outcome State Fault Refusal :=
  runWord { h := h, grp := 4, fields := [fieldD .gw d, fieldA .g a] } (do
    let x ← readG 1 a
    writePattern d (op (← randomOf 0) (← nanCore) (lowPattern x))
    return .seq) s

/-! ## Meanings -/

/-- R194 `fadd`. -/
def execFadd (h : Hints) (rnd : BitVec 3) (d a : Opnd) (b : SrcB) (s : State) :
    Host.Outcome State Fault Refusal := float2 h d a b (fAdd rnd.toNat) s
/-- R194 `fsub`. -/
def execFsub (h : Hints) (rnd : BitVec 3) (d a : Opnd) (b : SrcB) (s : State) :
    Host.Outcome State Fault Refusal := float2 h d a b (fSub rnd.toNat) s
/-- R194 `fmul`. -/
def execFmul (h : Hints) (rnd : BitVec 3) (d a : Opnd) (b : SrcB) (s : State) :
    Host.Outcome State Fault Refusal := float2 h d a b (fMul rnd.toNat) s
/-- R194 `fdiv`. -/
def execFdiv (h : Hints) (rnd : BitVec 3) (d a : Opnd) (b : SrcB) (s : State) :
    Host.Outcome State Fault Refusal := float2 h d a b (fDiv rnd.toNat) s
/-- R195 `fmin`. -/
def execFmin (h : Hints) (p : Bool) (d a : Opnd) (b : SrcB) (s : State) :
    Host.Outcome State Fault Refusal := float2 h d a b (fun _ => fMinMax false p) s
/-- R195 `fmax`. -/
def execFmax (h : Hints) (p : Bool) (d a : Opnd) (b : SrcB) (s : State) :
    Host.Outcome State Fault Refusal := float2 h d a b (fun _ => fMinMax true p) s
/-- R194 `fsqrt`. -/
def execFsqrt (h : Hints) (rnd : BitVec 3) (d a : Opnd) (s : State) :
    Host.Outcome State Fault Refusal := float1 h d a (fSqrt rnd.toNat) s
/-- R194 `frcp`. -/
def execFrcp (h : Hints) (rnd : BitVec 3) (d a : Opnd) (s : State) :
    Host.Outcome State Fault Refusal := float1 h d a (fRcp rnd.toNat) s

/-- R194 `ffma`. -/
def execFfma (h : Hints) (rnd : BitVec 3) (d a b c : Opnd) (s : State) : Host.Outcome State Fault Refusal :=
  runWord { h := h, grp := 4, fields := [fieldD .gw d, fieldA .g a, fieldB .g b, fieldC .g c] } (do
    let x ← readG 1 a
    let y ← readG 2 b
    let z ← readG 0xA c
    writePattern d (fFma rnd.toNat (← randomOf 0) (← nanCore) (lowPattern x) (lowPattern y) (lowPattern z))
    return .seq) s

/-- R196 `fcmp`. -/
def execFcmp (h : Hints) (d a : Opnd) (b : SrcB) (cond : BitVec 4) (comb : BitVec 2) (s : State) :
    Host.Outcome State Fault Refusal :=
  runWord { h := h, grp := 4, fields := fieldD .q d :: fieldA .g a :: fieldSrc .g b } (do
    let x ← readG 1 a
    let y ← readB b
    let r := fCmp cond.toNat (lowPattern x) (lowPattern y)
    combine d comb r.1
    setFlags r.2
    return .seq) s

/-- The main or the urgent set of an engine (R280). -/
def Engine.set (e : Engine) (urgent : Bool) : EngSet := if urgent then e.urg else e.main

/-- The main or the urgent set of a tile's engine changed. -/
def updSet (s : State) (tile : Nat) (urgent : Bool) (g : EngSet → EngSet) : State :=
  updEngine s tile (fun e => if urgent then { e with urg := g e.urg } else { e with main := g e.main })

/-- Counters raised, each up to 2^21 − 1 (R198, R284). -/
def ctrAdd (e : EngSet) (n : Nat) (k : Nat × Nat × Nat) : EngSet :=
  let cap := fun (x y : Nat) => Nat.min (2 ^ 21 - 1) (x + y)
  { e with ctr := e.ctr.modify n (fun c => (cap c.1 k.1, cap c.2.1 k.2.1, cap c.2.2 k.2.2)) }

/-- A set of an engine holds the values of a job (R279, R280). -/
def Engine.holdsFor (e : Engine) (urgent : Bool) (jid : Nat) : Bool :=
  if urgent then e.urgJob == some jid else e.mainJob == some jid && !e.passed

/-- A set of an engine passes to a job: the counters of the job before go into its sums, and the new one finds the set
cleared (R279, R280, R402). -/
def passSet (s : State) (e : Engine) (urgent : Bool) (jid : Nat) : State :=
  let s := match if urgent then e.urgJob else e.mainJob with
    | some j => addCounters s j (e.set urgent)
    | none => s
  updEngine s e.tile (fun e =>
    if urgent then { e with urg := EngSet.clear, urgJob := some jid }
    else { e with main := EngSet.clear, mainJob := some jid, passed := false })

/-- The first use of an engine's set by the job of a frond waits for the words of the job before (R279, R280). -/
def waitSet : M Unit := do
  let c ← get
  let e := getEngine c.s (tileOf c.f.pcid)
  stallIf (!e.holdsFor c.f.urgent c.f.jid && !e.queue.isEmpty)

/-- The set of an engine passes to the job of a frond at its first use, once it may (R279, R280). -/
def claimSet : M Unit := do
  waitSet
  let c ← get
  let e := getEngine c.s (tileOf c.f.pcid)
  if !e.holdsFor c.f.urgent c.f.jid then modS (fun s => passSet s e c.f.urgent c.f.jid)

/-- What the counters of R198 gain from a word's conversions. -/
def tally (cs : List Conv) : Nat × Nat × Nat :=
  ((cs.filter (fun c => c.clamp)).length, (cs.filter (fun c => c.inf)).length,
    (cs.filter (fun c => c.nan)).length)

/-- The conversions of a word with CNT = 1 are counted on the tile of the frond's core (R198). Such a word has waited for
the set before it writes D, so that a port in D is acted on once (R111). -/
def countConversions (cnt : Bool) (acc : Nat) (cs : List Conv) : M Unit := do
  if cnt then
    claimSet
    let f ← getF
    modS (fun s => updSet s (tileOf f.pcid) f.urgent (fun e => ctrAdd e acc (tally cs)))

/-- R197 `fcvt`. -/
def execFcvt (h : Hints) (rnd : BitVec 3) (d a : Opnd) (src dst : BitVec 5) (cnt : Bool) (acc : BitVec 2)
    (s : State) : Host.Outcome State Fault Refusal :=
  runWord { h := h, grp := 4, fields := [fieldD .gw d, fieldA .g a], feats := if cnt then [0] else [] } (do
    checkKind src.toNat
    checkKind dst.toNat
    let x ← readG 1 a
    let c ← get
    let es := kindEntry c.s c.f.jid src.toNat
    let ed := kindEntry c.s c.f.jid dst.toNat
    let v := convertKind rnd.toNat (← randomOf 0) (nanPayload (← nanCore) 0) src.toNat dst.toNat es ed x.toNat
    if cnt then waitSet
    raiseNow v.flags
    writeG d (BitVec.ofNat 64 (extendKind src.toNat dst.toNat 64 x.toNat v.code))
    countConversions cnt acc.toNat [v]
    return .seq) s

/-- R199 `fclass`. -/
def execFclass (h : Hints) (d a : Opnd) (s : State) : Host.Outcome State Fault Refusal :=
  runWord { h := h, grp := 4, fields := [fieldD .gw d, fieldA .g a] } (do
    let x ← readG 1 a
    writeG d (BitVec.ofNat 64 (fClass (lowPattern x)))
    return .seq) s

end Sys2Proof.Machine
end

