-- ==== Sys2Proof/Machine/LoadStore.lean ====
section
/-! DEFINITION. Group 0x7 (R245 to R257): loads, stores, residency and format codes. -/

namespace Sys2Proof.Machine

/-! ## Loads and stores -/

/-- The lanes 0 to `n` − 1 and their addresses, `step` bytes apart (R251). -/
def strided (n ea step : Nat) : List (Nat × Nat) := (List.range n).map (fun l => (l, (ea + l * step) % 2 ^ 64))

/-- The scope of ORD, none when it is 0 (R246). -/
def ordScope (ord : BitVec 3) : Option Nat := if ord = 0 then none else some (ord.toNat - 1)

/-- A store with ORD ≠ 0 waits as a release (R253). -/
def releaseFor (ord : BitVec 3) : M Unit :=
  match ordScope ord with
  | some scope => waitRelease onCORE scope
  | none => pure ()

/-- The accesses of a load start (R249, R251). -/
def startLoad (h : Hints) (f : MemFn) (d : Opnd) (vec piece : Bool) (sites : Nat → List (Nat × Nat)) : M Next := do
  let es ← elementsOf f.mty.toNat f.raw f.l false none sites
  let wait ← serveWalk h es
  launch h wait { path := pathCORE, op := .load f.mty.toNat vec, dest := destOf d, elems := es, piece := piece
                  acq := ordScope f.ord }

/-- The accesses of a store start (R250, R251). -/
def startStore (h : Hints) (f : MemFn) (piece : Bool) (val : Nat → Nat) (sites : Nat → List (Nat × Nat)) :
    M Next := do
  let es ← elementsOf f.mty.toNat f.raw f.l true none sites
  let wait ← serveWalk h es
  launch h wait { path := pathCORE, op := .store, elems := withValues val es, piece := piece }

/-- R249 `ld`. -/
def execLd (h : Hints) (f : MemFn) (d a : Opnd) (disp : BitVec 32) (s : State) :
    Host.Outcome State Fault Refusal :=
  runWord { h := h, grp := 7, fields := [fieldD .gres d, fieldA .g a] } (do
    limitOuts
    let x ← readG 1 a
    startLoad h f d false false (fun _ => strided 1 (effective x disp) 0)) s

/-- R250 `st`. -/
def execSt (h : Hints) (f : MemFn) (a b : Opnd) (disp : BitVec 32) (s : State) :
    Host.Outcome State Fault Refusal :=
  runWord { h := h, grp := 7, fields := [fieldA .g a, fieldB .g b] } (do
    releaseFor f.ord
    let x ← readG 1 a
    let y ← readG 2 b
    startStore h f false (fun _ => y.toNat) (fun _ => strided 1 (effective x disp) 0)) s

/-- R251 `vld`. -/
def execVld (h : Hints) (f : MemFn) (d a : Opnd) (disp : BitVec 32) (s : State) :
    Host.Outcome State Fault Refusal :=
  runWord { h := h, grp := 7, fields := [fieldD .vres d, fieldA .g a] } (do
    limitOuts
    let x ← readG 1 a
    startLoad h f d true true (fun size => strided 16 (effective x disp) size)) s

/-- R251 `vst`. -/
def execVst (h : Hints) (f : MemFn) (a b : Opnd) (disp : BitVec 32) (s : State) :
    Host.Outcome State Fault Refusal :=
  runWord { h := h, grp := 7, fields := [fieldA .g a, fieldB .v b] } (do
    releaseFor f.ord
    let x ← readG 1 a
    let y ← readV 2 b
    startStore h f true (nth y) (fun size => strided 16 (effective x disp) size)) s

/-- R251 `vlds`. -/
def execVlds (h : Hints) (f : MemFn) (d a b : Opnd) (disp : BitVec 32) (s : State) :
    Host.Outcome State Fault Refusal :=
  runWord { h := h, grp := 7, fields := [fieldD .vres d, fieldA .g a, fieldB .g b] } (do
    limitOuts
    let x ← readG 1 a
    let y ← readG 2 b
    startLoad h f d true false (fun _ => strided 16 (effective x disp) y.toNat)) s

/-- R251 `vsts`: D is read after A and B, as a further source (R111). -/
def execVsts (h : Hints) (f : MemFn) (d a b : Opnd) (disp : BitVec 32) (s : State) :
    Host.Outcome State Fault Refusal :=
  runWord { h := h, grp := 7, fields := [fieldD .v d, fieldA .g a, fieldB .g b] } (do
    releaseFor f.ord
    let x ← readG 1 a
    let y ← readG 2 b
    let z ← readV 0 d
    startStore h f false (nth z) (fun _ => strided 16 (effective x disp) y.toNat)) s

/-! ## Residency -/

/-- The address of a residency word, its block's place, and whether it lies on a WALK page (R255). -/
def residencySite (ea : Nat) : M Elem := do
  checkForms false 1 [ea]
  let p ← placeAt false ea false
  return { place := p.1, va := vaOf p.1 ea, size := 1, lane := 0, coding := .raw, val := 0, performed := false
           applied := false, cnt := none }

/-- R255 `hold`. -/
def execHold (h : Hints) (a : Opnd) (disp : BitVec 32) (s : State) : Host.Outcome State Fault Refusal :=
  runWord { h := h, grp := 7, fields := [fieldA .g a] } (do
    let x ← readG 1 a
    let e ← residencySite (effective x disp)
    if ← serveWalk h [e] then launch h true { path := pathCORE, op := .touch, elems := [e] }
    else return .seq) s

/-- The pin count of carrel `k` of a core may rise (R256). -/
def mayPin (c : Core) (k : Nat) (x : Carrel) : Bool :=
  decide (x.pins < 255) && (x.pins != 0 || c.carrels.zipIdx.any (fun e => e.2 != k && e.1.pins == 0))

/-- A `pin` or `unpin` performed at the home port of a block: the answer and the state (R256). -/
def pinBlock (s : State) (jid block : Nat) (add : Bool) : Bool × State :=
  match residentAt s jid block with
  | none => (false, s)
  | some (home, k) =>
    let c := getCore s home
    match c.carrels[k]? with
    | none => (false, s)
    | some x =>
      let ok := if add then mayPin c k x else x.pins != 0
      let s := if add then touchCarrel s home k else s
      if ok then
        let n := if add then x.pins + 1 else x.pins - 1
        (true, refreshSpent (updCore s home (fun c =>
          { c with carrels := c.carrels.modify k (fun x => { x with pins := n }) })) home)
      else (false, s)

/-- A `pin` or `unpin` performed at once, at the word's own core. -/
def pinHere (d : Opnd) (jid block : Nat) (add : Bool) : M Next := do
  let c ← get
  let r := pinBlock c.s jid block add
  modS (fun _ => r.2)
  writePred (d.toNat % 16) r.1
  return .seq

/-- The home of a block is not the frond's current core, so that the answer of a `pin` is an outstanding result
(R256). -/
def pinAway (s : State) (f : Frond) (jid block : Nat) : Bool :=
  (findJob s jid).bind (fun j => homeCore j block) != some f.pcid

/-- R256 `pin`. -/
def execPin (h : Hints) (d a : Opnd) (disp : BitVec 32) (s : State) : Host.Outcome State Fault Refusal :=
  runWord { h := h, grp := 7, fields := [fieldD .q d, fieldA .g a] } (do
    let x ← readG 1 a
    let e ← residencySite (effective x disp)
    match e.place with
    | .walk jid block _ _ =>
      if ← serveWalk h [e] then
        let c ← get
        if pinAway c.s c.f jid block then limitOuts
        launch h true { path := pathCORE, op := .pin true, dest := destOf d, elems := [e] }
      else pinHere d jid block true
    | _ =>
      writePred (d.toNat % 16) false
      return .seq) s

/-- R256 `unpin`. -/
def execUnpin (h : Hints) (d a : Opnd) (disp : BitVec 32) (s : State) : Host.Outcome State Fault Refusal :=
  runWord { h := h, grp := 7, fields := [fieldD .q d, fieldA .g a] } (do
    limitOuts
    let x ← readG 1 a
    let e ← residencySite (effective x disp)
    let c ← get
    match e.place with
    | .walk jid block _ _ =>
      if (findJob c.s jid).bind (fun j => homeCore j block) = some c.f.pcid then pinHere d jid block false
      else launch h false { path := pathCORE, op := .pin false, dest := destOf d, elems := [e] }
    | _ =>
      writePred (d.toNat % 16) false
      return .seq) s

/-! ## Format codes -/

/-- An access of a frond to the local store of a core has still to be performed. -/
def localPending (s : State) (uid pcid : Nat) : Bool :=
  s.flights.any (fun g => g.uid == uid && g.elems.any (fun e => !e.performed && portOf s (resolve s e.place) == some pcid))

/-- `n` regions from region `r` of a core take a format code. -/
def setRegions (s : State) (pcid code r : Nat) : Nat → State
  | 0 => s
  | n + 1 => setRegions (setRegion s (pcid * 2 ^ 20 + r * blockSize) code) pcid code (r + 1) n

/-- R257 `lsfmt`: it takes effect at issue, once the frond's earlier local-store accesses have been performed. -/
def execLsfmt (h : Hints) (a : Opnd) (fcode : BitVec 4) (n1 : BitVec 5) (s : State) :
    Host.Outcome State Fault Refusal :=
  runWord { h := h, grp := 7, fields := [fieldA .g a] } (do
    let x ← readG 1 a
    let c ← get
    let r := x.toNat / blockSize
    let n := n1.toNat + 1
    trapIf (x.toNat % blockSize != 0) causeALIGN x.toNat
    trapIf (decide (24 < r + n)) causeXLATE x.toNat
    trapIf (decide (24 - (getCore c.s c.f.pcid).carrels.length < r + n)) causeOPERAND (operandInfo 4 0xA 0)
    stallIf (localPending c.s c.f.uid c.f.pcid)
    modS (fun s => setRegions s c.f.pcid fcode.toNat r n)
    return .seq) s

end Sys2Proof.Machine
end

