-- ==== Sys2Proof/Machine/Perform.lean ====
section
/-! DEFINITION. What happens at a home: synchronising operations and their waiting lists (R345 to R348, R355,
R367), element reads, writes and read-modify-writes (R248 to R250, R276), and where a flight's answer goes. -/

namespace Sys2Proof.Machine

/-! ## Synchronising words -/

/-- A frond barrier's arrival at its word: the state, and whether it completes; none for a wrong count (R367). -/
def barArrive (s : State) (n word : Nat) : Option (State × Bool) :=
  let w := readNat s.ls word 8
  let arr := Nat.field w 0 24
  let npart := if arr = 0 then n else Nat.field w 24 24
  let gen := Nat.field w 48 16
  if npart ≠ n then none
  else if arr + 1 = npart then
    some (setLsWord s word (npart * 2 ^ 24 + (gen + 1) % 2 ^ 16 * 2 ^ 48), true)
  else some (setLsWord s word ((arr + 1) % 2 ^ 24 + npart * 2 ^ 24 + gen * 2 ^ 48), false)

/-- An operation that does not match joins its port's waiting list, or is refused by a full one (R346). Its frond is listed
from the first of these (R386). That of
a frond which has ended is dropped. A refusal counts as a re-examination, but not in a Frozen cycle (R132, R348). -/
def syncWait (s : State) (g : Flight) (word : Nat) (reason : Nat) : State :=
  if (findFrond s g.uid).isNone then delFlight s g.id else
  let core := word / 2 ^ 20
  let s := updFlight s g.id (fun g => { g with first := some (g.first.getD s.clk) })
  let frozen := waitFrozen s { id := g.id, uid := g.uid, word := word }
  if 256 ≤ (getCore s core).waitList.length then
    let limitMet := match g.op with
      | .sync op _ => !frozen && limited op && decide (retryLimit s g.jid ≤ g.tries + 1)
      | _ => false
    if limitMet then syncTrap s g.id g.uid { code := causeFELIMIT, info := felimitInfo false word }
    else
      let s := updFlight s g.id (fun g => { g with tries := g.tries + (!frozen).toNat })
      updFrond s g.uid (fun f =>
        { f with wait := .resend (s.clk + 256) g.id, since := if g.first.isSome then f.since else s.clk })
  else
    let s := updCore s core (fun k => { k with waitList := k.waitList ++ [{ id := g.id, uid := g.uid, word := word }] })
    match findFrond s g.uid with
    | none => s
    | some f =>
      match f.wait with
      | .park _ _ _ => s
      | _ =>
        let r := parkFrond s f reason ((windowBase + word) % 2 ^ 48) 0
        refreshSpent (updFrond r.1 g.uid (fun _ =>
          { r.2 with since := if g.first.isSome then f.since else r.2.since })) f.pcid

/-- A synchronising operation reaches its port (R346, R355, R367). One that is no store is a new request there, after
which no write to the word is performed in the same cycle (R347). -/
def syncArrive (s : State) (g : Flight) (op : SyncOp) (b word : Nat) : State :=
  let s := if storeSync op then s else { s with arrivals := setAdd word s.arrivals }
  if op == .bar && (waitGen g).isNone then
    match barArrive s b word with
    | none => syncTrap s g.id g.uid { code := causeOPERAND, info := operandInfo 5 2 ((g.elems.head?.map (fun e => e.lane)).getD 0) }
    | some (s', true) => syncDone (lsWritten s' word 8) g.id 0
    | some (s', false) =>
      let gen := Nat.field (readNat s.ls word 8) 48 16
      let mark := fun (x : Flight) => { x with elems := x.elems.map (fun e => { e with applied := true, val := gen }) }
      let s' := lsWritten (updFlight (noteProgress s' g.jid) g.id mark) word 8
      syncWait s' (mark g) word 9
  else
    match syncStep s op b (waitGen g) word with
    | some (v, s) =>
      let s := syncDone s g.id v
      if syncWrites op then lsWritten s word 8 else s
    | none => syncWait s g word (if op == .bwait || op == .bar then 9 else 6)

/-! ## Coding of elements (R186, R187, R248) -/

/-- The code through which an element is decoded or encoded now, 0 for none. A code that gives another size
than the element has is not used. -/
def codeNow (s : State) (e : Elem) : Nat :=
  match e.coding with
  | .raw => 0
  | .fixed c => c
  | .place page =>
    let c := codeAt s (resolve s e.place) page
    if e.size = 1 then c else 0
  | .acc code page _ _ _ _ =>
    if code ≠ 0 then code
    else if e.size = 1 then codeAt s (resolve s e.place) page
    else 0

/-- The logical core of a core of a job, for produced NaNs. -/
def logicalOf (s : State) (jid pcid : Nat) : Nat := ((findJob s jid).bind (fun j => j.logical pcid)).getD 0

/-- What a load makes of the bytes of an element, by the format table that its word read when it began (R64). -/
def decodeElem (s : State) (g : Flight) (e : Elem) (bits : Nat) : Nat :=
  let c := codeNow s e
  let x := g.fmts.getD c 0
  if c = 0 then bits
  else if x.toNat % 16 = 0 then Config.unusedFormat c bits
  else (convertKind 0 0 (nanPayload (logicalOf s g.jid g.pcid) 0) (0x10 + c) 8 x 0 bits).code

/-- The target of `mst` and `msst`: format `code`, or binary16 or bfloat16 by TY (R301, R302). -/
def storeTarget (code ty : Nat) (entry : BitVec 32) : Fmt :=
  if code ≠ 0 then fmtOfEntry entry else if ty = 1 then fmtF16 else fmtBf16

/-- The conversion of an element that `mst` stores; none where its bits are stored as they are (R301). -/
def accConv (s : State) (g : Flight) (e : Elem) : Option Conv :=
  match e.coding with
  | .acc _ _ _ rnd ty bits =>
    let c := codeNow s e
    let x := g.fmts.getD c 0
    if (c = 0 ∧ (ty = 0 ∨ e.size = 1)) ∨ (c ≠ 0 ∧ x.toNat % 16 = 0) then none
    else some (convert rnd (.float (storeTarget c ty x)) bits (f32 e.val))
  | _ => none

/-- The conversion of an element that `mst` stores is counted on its accumulator, in the set that its word uses
(R198, R301). -/
def countStored (s : State) (g : Flight) (e : Elem) : State :=
  match e.coding, accConv s g e with
  | .acc _ _ a _ _ _, some k =>
    let tile := tileOf g.pcid
    match (getEngine s tile).queue.find? (fun w => w.id == g.id) with
    | some w => updSet s tile w.urgent (fun x => ctrAdd x a (tally [k]))
    | none => s
  | _, _ => s

/-- The bytes that a store makes of a value, by the same table. -/
def encodeElem (s : State) (g : Flight) (e : Elem) (v : Nat) : Nat :=
  let c := codeNow s e
  let x := g.fmts.getD c 0
  if c = 0 then v
  else if x.toNat % 16 = 0 then Config.unusedFormat c v
  else (convertKind 0 0 0 8 (0x10 + c) 0 x v).code

/-- The bytes of an element that a store writes. -/
def storedBits (s : State) (g : Flight) (e : Elem) : Nat :=
  match accConv s g e with
  | some k => k.code
  | none => encodeElem s g e e.val

/-! ## Read-modify-writes (R276) -/

/-- The loaded routine table holds routine `rout`; routines 0 to 7 need none (R276, R441). -/
def routineReady (s : State) (rout : Nat) : Bool :=
  decide (rout < 8) || match s.routines with
    | some body => Config.routineLoaded body rout
    | none => false

/-- The value that a routine stores, or none where it stores nothing, and the value it returns; none where it
fails. `body` is the body of the image that holds routines 8 to 15. -/
def routineStep (body : List Byte) (rout : Nat) (u : Bool) (n m b c : Nat) : Option (Option Nat × Nat) :=
  match rout with
  | 0 => some (some ((m + b) % 2 ^ n), m)
  | 1 => some (some (if u then valMinN m b else valMinS n m b), m)
  | 2 => some (some (if u then valMaxN m b else valMaxS n m b), m)
  | 3 => some (if m = b then some c else none, m)
  | 4 => some (some b, m)
  | 5 => some (some (m &&& b), m)
  | 6 => some (some (m ||| b), m)
  | 7 => some (some (m ^^^ b), m)
  | r => (Config.routine body r m b c).map (fun x => (some (x.1 % 2 ^ n), x.2 % 2 ^ n))
where
  valMinN (m b : Nat) : Nat := if m ≤ b then m else b
  valMaxN (m b : Nat) : Nat := if m ≤ b then b else m
  valMinS (n m b : Nat) : Nat := if Nat.signed m n ≤ Nat.signed b n then m else b
  valMaxS (n m b : Nat) : Nat := if Nat.signed m n ≤ Nat.signed b n then b else m

/-! ## Elements at their homes -/

/-- The granules that an element touches in memory are counted when its leaf has CNT = 1 (R227). -/
def countElem (s : State) (e : Elem) (p : Place) : State :=
  match p with
  | .hbm pa =>
    let s := noteLeaf s pa e.size e.cnt.isSome
    match e.cnt with
    | some tier => countAccess s pa (granulesOf pa e.size).length tier.toNat
    | none => s
  | _ => s

/-- An access that touches the block of a spent carrel revives it (R240). -/
def touchWalk (s : State) (p : Place) : State :=
  match p with
  | .walk jid block _ _ =>
    match residentAt s jid block with
    | some (home, k) =>
      if ((getCore s home).carrels[k]?.bind (fun x => x.spent)).isSome then touchCarrel s home k else s
    | none => s
  | _ => s

/-- The VA of the granule of an element (R254). -/
def granuleVa (e : Elem) : Nat := e.va / 64 * 64 % 2 ^ 56

/-- DATAFAULT of a late result (R254). -/
def lateFault (g : Flight) (e : Elem) : Cause :=
  { code := causeDATAFAULT, info := 2 ^ 63 + g.dest.index * 2 ^ 56 + granuleVa e }

/-- The element of a read that meets an uncorrectable error, with the VA of the granule that fails: its first one, or the next
where only that one is marked (R254, R292). -/
def failedPart (s : State) (p : Place) (e : Elem) : Elem :=
  match p with
  | .ls a => if lsMarked s a 1 then e else { e with va := e.va + 64 }
  | _ => e

/-- What has been read of line `k` of a flight before, put into the line as it is read (R319). -/
def overlay (g : Flight) (k v : Nat) : Nat :=
  (g.got.filter (fun x => x.1 == k)).foldl (fun v x =>
    v - Nat.field v x.2.1 x.2.2.1 * 2 ^ x.2.1 + x.2.2.2 * 2 ^ x.2.1) v

/-- SHIPERR of a late result (R277). -/
def lateShip (g : Flight) (e : Elem) (reason : Nat) : Cause :=
  { code := causeSHIPERR, info := shipInfo reason g.dest.index e.va }

/-- An uncorrectable error at an element: the first one of a flight decides. -/
def failElem (s : State) (g : Flight) (k : Nat) (e : Elem) (c : Cause) : State :=
  settleFlight (updFlight s g.id (fun g =>
    { setElem g k { e with performed := true } with failed := some (g.failed.getD c) })) g.id

/-- A store that meets an uncorrectable granule is dropped (R250, R447). -/
def dropStore (s : State) (g : Flight) (e : Elem) : State :=
  let r := Config.rmwRecord (granuleVa e)
  let s := match findJob s g.jid with
    | some j => errorRecord s r.1 j.aqi j.pasid r.2 g.jid
    | none => s
  noteStoreErr s g.uid g.jid (g.path * 2 ^ 56 + granuleVa e)

/-- A `pin` has been performed at a home that is not the frond's core: its word has issued, and the answer is an
outstanding result (R125, R256). -/
def pinPerformed (s : State) (g : Flight) (jid block : Nat) : State :=
  match g.blocks, findFrond s g.uid with
  | some h, some f =>
    if pinAway s f jid block then
      let haz := flagIf (match g.dest with
        | .q n => outPred f n
        | _ => false) flagHAZ
      let mark := fun (f : Frond) =>
        raiseFlags (if g.dest = .none then f else { f with outs := f.outs ++ [{ id := g.id, dest := g.dest }] }) haz
      resumeWord (updFrond (updFlight s g.id (fun g => { g with blocks := none })) g.uid mark) g.uid h
    else s
  | _, _ => s

/-- Element `k` of a flight is performed at its home. -/
def performElem (s : State) (id k : Nat) : State :=
  match findFlight s id with
  | none => s
  | some g =>
    match g.elems[k]? with
    | none => s
    | some e =>
      let p := resolve s e.place
      let mark := fun (s : State) (v : Nat) =>
        settleFlight (updFlight s id (fun g => setElem g k { e with val := v, performed := true })) id
      let s := countElem s e p
      let s := if g.op == .pin false then s else touchWalk s e.place
      let s := match g.op with
        | .sync _ _ => s
        | _ => noteProgress s g.jid
      match g.op with
      | .store =>
        if markedIn s p e.size then mark (dropStore (countStored s g e) g e) e.val
        else
          writeHome (mark (countStored s g e) e.val) p e.size (storedBits s g e)
      | .rmw rout u b c _ =>
        match readPlace s p e.size with
        | none => failElem s g k e (if g.path = pathSHIP then lateShip g e 6 else lateFault g e)
        | some m =>
          if !routineReady s rout then failElem s g k e (lateShip g e 4)
          else
            match routineStep (s.routines.getD []) rout u (8 * e.size) m b c with
            | none => failElem s g k e (lateShip g e 5)
            | some (some v, r) => writeHome (mark s r) p e.size v
            | some (none, r) => mark s r
      | .join =>
        match readPlace s p e.size with
        | none => failElem s g k e (if g.path = pathSHIP then lateShip g e 6 else lateFault g e)
        | some m => writeHome (mark s m) p e.size ((m + 2 ^ 64 - 1) % 2 ^ 64)
      | .scadd f32 =>
        match readPlace s p e.size with
        | none => mark (dropStore s g e) e.val
        | some m =>
          let v := if f32 then (fAdd rneMode 0 (logicalOf s g.jid g.pcid) m e.val).1 else (m + e.val) % 2 ^ 32
          writeHome (mark s e.val) p e.size v
      | .sync op b =>
        match p with
        | .ls a => syncArrive s g op b a
        | _ => s
      | .touch => mark s 0
      | .pin add =>
        match e.place with
        | .walk jid block _ _ =>
          let r := pinBlock s jid block add
          pinPerformed (mark r.2 r.1.toNat) g jid block
        | _ => mark s 0
      | _ =>
        match readPlace s p e.size with
        | none => failElem s g k e (lateFault g (failedPart s p e))
        | some m => mark s (overlay g k (decodeElem s g e m))

/-- The indices of the elements that are performed with element `k`: those of its aligned 8-byte piece (R251). -/
def pieceOf (g : Flight) (k : Nat) : List Nat :=
  match g.elems[k]? with
  | none => []
  | some e =>
    if !g.piece then [k]
    else (List.range g.elems.length).filter (fun i =>
      match g.elems[i]? with
      | some x => x.va / 8 == e.va / 8
      | none => false)

/-- The waits of a `join` are over: nothing of its frond is outstanding, its earlier stores and atomics on CORE and
SHIP have been performed at package scope, and no STOREERR is to be taken at it (R157, R161). -/
def joinReady (s : State) (g : Flight) : Bool :=
  (match findFrond s g.uid with
    | some f => f.outs.isEmpty && (f.hnd || f.storeErrs.isEmpty)
    | none => true)
  && s.flights.all (fun x => x.uid != g.uid || x.id == g.id || !onCoreShip x.path || flightCounts s x scopeP)

/-- The element accesses of `scadd` are performed at their port as one operation (R274). -/
def togetherOf (g : Flight) (k : Nat) : List Nat :=
  match g.op with
  | .scadd _ => List.range g.elems.length
  | _ => pieceOf g k

/-- The elements `ks` of a flight may be performed now; those before an element in the list count as
performed for it. -/
def mayPerformAll (s : State) (g : Flight) (ks : List Nat) : Bool :=
  let done := fun (x : Flight) => { x with elems := x.elems.zipIdx.map (fun e =>
    if ks.contains e.2 then { e.1 with performed := true } else e.1) }
  let s' := updFlight s g.id done
  ks.all (fun k => match g.elems[k]? with
    | some e => mayPerform s' { done g with elems := (done g).elems.set k e } k e
    | none => false)
  && (g.op != .join || (g.first.isSome && joinReady s g))

/-- An operation whose performing is a load's: it has no STORE_PERFORMED step. -/
def FlightOp.quiet : FlightOp → Bool
  | .load _ _ => true
  | .bind _ => true
  | .touch => true
  | .pin _ => true
  | .operand _ => true
  | .value _ => true
  | .qstat _ _ => true
  | _ => false

/-- Element `k` of a flight, with those that go with it, is performed if it may be. -/
def performIf (s : State) (id k : Nat) (ok : Flight → Elem → Bool) : Option State :=
  (findFlight s id).bind (fun g => (g.elems[k]?).bind (fun e =>
    let ks := togetherOf g k
    if ok g e && mayPerformAll s g ks && !(ks.any (fun i => match g.elems[i]? with
        | some x => x.performed
        | none => true)) then
      some (ks.foldl (fun s i => performElem s id i) s)
    else none))

end Sys2Proof.Machine
end

