-- ==== Sys2Proof/Machine/Copies.lean ====
section
/-! DEFINITION. Group 0xB (R267 to R277): copies through layout records, gather, scatter, reduction, function
shipping; and the steps in which copies and reductions are performed. -/

namespace Sys2Proof.Machine

/-! ## Layout records (R36, R37, R268) -/

def layValid (d : BitVec 512) : Bool := d.toNat.testBit 63
def layWr (d : BitVec 512) : Bool := d.toNat.testBit 62
def layRank (d : BitVec 512) : Nat := Nat.field d.toNat 60 2
def layFcode (d : BitVec 512) : Nat := Nat.field d.toNat 56 4
def layJid (d : BitVec 512) : Nat := Nat.field d.toNat 0 16
def layVa (d : BitVec 512) : Nat := Nat.field d.toNat 64 56
def layPa (d : BitVec 512) : Nat := Nat.field d.toNat 128 52
def layLen (d : BitVec 512) : Nat := Nat.field d.toNat 192 40
def layExt0 (d : BitVec 512) : Nat := Nat.field d.toNat 256 32
def layStr1 (d : BitVec 512) : Nat := Nat.field d.toNat 384 32
def layStr2 (d : BitVec 512) : Nat := Nat.field d.toNat 416 32
/-- E1 and E2 of R268. -/
def layE1 (d : BitVec 512) : Nat := if 2 ≤ layRank d then Nat.field d.toNat 288 32 else 1
def layE2 (d : BitVec 512) : Nat := if layRank d = 3 then Nat.field d.toNat 320 32 else 1

/-- The bytes of a record's shape. -/
def layBytes (d : BitVec 512) : Nat := layE2 d * layE1 d * layExt0 d

/-- The end of a record's shape, from an offset (R36, R268). -/
def layReach (d : BitVec 512) (off : Nat) : Int :=
  (off : Int) + ((layE2 d : Int) - 1) * layStr2 d + ((layE1 d : Int) - 1) * layStr1 d + layExt0 d

/-- REASON of HANDLE for a use of a handle, in the order of its codes with 6 first (R37, R268). -/
def handleReason (j : Job) (x : Word) (off : Nat) (write : Bool) : Except Nat (BitVec 512) :=
  let h := x.toNat % 65536
  if 65536 ≤ x.toNat then .error 6
  else if j.layn ≤ h then .error 0
  else
    match j.layouts.find? (fun l => l.handle == h) with
    | none => .error 1
    | some l =>
      let d := l.bits
      if !layValid d then .error 1
      else if layJid d ≠ j.jid then .error 2
      else if layRank d = 0 then .error 3
      else if write && !layWr d then .error 4
      else if (layLen d : Int) < layReach d off then .error 5
      else .ok d

/-- The record that a word names, or HANDLE (R37, R268). -/
def useHandle (x : Word) (off : Nat) (write : Bool) : M (BitVec 512) := do
  let c ← get
  match findJob c.s c.f.jid with
  | none => throw .stall
  | some j =>
    match handleReason j x off write with
    | .error r => throw (.trap causeHANDLE (r * 2 ^ 16 + x.toNat % 2 ^ 16))
    | .ok d => return d

/-! ## Copies -/

/-- The local-store range of a copy: its core and offset, or XLATE (R268). -/
def copyTarget (l : Bool) (d n : Nat) : M Nat := do
  let c ← get
  let site := if l then some (c.f.pcid, d) else windowOk c.s c.f.jid d
  match site with
  | none => throw (.trap causeXLATE d)
  | some (p, o) => if lsSize < o + n then throw (.trap causeXLATE d) else return p * 2 ^ 20 + o

/-- The stores of a copy out of local store are issued: the clock that they carry, in which each that crosses dies counts,
and the state with it (R326). -/
def stampCopy (s : State) (c : Copy) : List Nat × State :=
  let n := ((copyLeft c).filter (fun t => (copyDie s c t).isSome)).length
  if n = 0 then ([], s) else stampClocks s (dieOf c.pcid) n

/-- A copy starts: its clock is taken, and it enters the state. -/
def startCopy (s : State) (k : Copy) : State :=
  let r := stampCopy s k
  { r.2 with fresh := s.fresh + 1, copies := s.copies ++ [{ k with clock := r.1 }] }

/-- R268 to R270 `cpy`. -/
def execCpy (h : Hints) (d a b : Opnd) (out l bc : Bool) (bar : BitVec 19) (s : State) :
    Host.Outcome State Fault Refusal :=
  runWord { h := h, grp := 0xB, fields := [fieldD .g d, fieldA .g a, fieldB .g b] } (do
    let x ← readG 1 a
    let off ← readG 2 b
    let dst ← readG 0 d
    let r ← useHandle x off.toNat out
    let n := layBytes r
    let ls ← copyTarget l dst.toNat n
    trapIf (bc && decide (lsSize < bar.toNat + 8)) causeXLATE bar.toNat
    let c ← get
    let k : Copy :=
      { id := c.s.fresh, uid := c.f.uid, jid := c.f.jid, pcid := c.f.pcid, out := out
        pa := layPa r + off.toNat, va := layVa r + off.toNat, ext0 := layExt0 r, e1 := layE1 r, e2 := layE2 r
        str1 := layStr1 r, str2 := layStr2 r, ls := ls
        lines := if out then [] else unitsOf ls n 128
        bar := if bc then some (c.f.pcid * 2 ^ 20 + bar.toNat) else none, failed := none, due := c.s.clk + 1 }
    stallIf (clockStops c.s (dieOf c.f.pcid) ((copyLeft k).map (fun i => .hbm (8 * i))))
    modS (fun s => startCopy s k)
    if !out then
      modS (fun s => (unitsOf ls n blockSize).foldl (fun s g => setRegion s (g * blockSize) (layFcode r)) s)
    return .seq) s

/-- Some byte of a copy's region lies at PA `x` (R447). -/
def copyCovers (c : Copy) (x : Nat) : Bool :=
  (List.range c.e2).any (fun pl => (List.range c.e1).any (fun rw =>
    decide (c.pa + pl * c.str2 + rw * c.str1 ≤ x ∧ x < c.pa + pl * c.str2 + rw * c.str1 + c.ext0)))

/-- A copy covers a whole granule of PA / 64 = `g` (R447). -/
def copyCoversAll (c : Copy) (g : Nat) : Bool := (List.range 64).all (fun i => copyCovers c (64 * g + i))

/-- The VA of the granule that holds region byte `t` of a copy. -/
def copyGranule (c : Copy) (t : Nat) : Nat := (c.va + copyOff c t) / 64 * 64 % 2 ^ 56

/-- A copy of frond `uid` named `id`, issued in cycle `issued` on core `pcid`, may not read, or write when `write`, `n`
bytes at a place yet: an earlier access of its frond to them that it must follow is not performed (R322), or a store of
another frond has passed the boundary of a scope that holds both (R320). -/
def beforeCopy (s : State) (uid id pcid issued : Nat) (write : Bool) (p : Place) (n : Nat) : Bool :=
  s.flights.any (fun g => g.uid == uid && decide (g.id < id) && (write || g.op.reads)
      && g.elems.any (fun e => !e.performed && overlap e.place e.size p n))
    || (write && s.engines.any (fun t => t.queue.any (fun w => w.uid == uid && decide (w.id < id)
      && w.elems.any (fun e => overlap e.place e.size p n))))
    || copyPending s uid id write p n
    || boundaryHolds s uid pcid issued p n

/-- Granules of memory, by PA / 64, that a device access without a leaf of its own reads or writes (R227). -/
def countGranules (s : State) (l : List Nat) : State :=
  (l.foldl (fun acc g => setAdd g acc) []).foldl (fun s g => countBare s (64 * g) 64) s

/-! ### Reads of a copy

Each aligned piece of 8 bytes at the source is read at one moment (R321). What a piece holds beside the bytes that are wanted
is kept with the copy until it is written. -/

/-- The aligned piece of its source, by address / 8, in which byte `t` of a copy lies (R319, R321). -/
def copyPiece (c : Copy) (t : Nat) : Nat := (if c.out then c.ls + t else c.pa + copyOff c t) / 8

/-- Byte `t` of reads made ahead. -/
def gotByte (got : List (Nat × Byte)) (t : Nat) : Option Byte := (got.find? (fun x => x.1 == t)).map (·.2)

/-- The bytes of a copy that are read when the bytes `ts` are wanted: those of the pieces in which they lie that have not been
read. -/
def copyFetch (c : Copy) (ts : List Nat) : List Nat :=
  let ks := (ts.filter (fun t => !hasGot c.got t)).map (copyPiece c)
  (List.range (copyBytes c)).filter (fun t => copyUndone c t && !hasGot c.got t && ks.contains (copyPiece c t))

/-- Byte `t` of a copy as it stands at its source; none on an uncorrectable error (R270). -/
def sourceByte (s : State) (c : Copy) (t : Nat) : Option Byte :=
  match copySource c t with
  | .hbm pa => if poisoned s pa then none else some (mapGet 0 pa s.hbm)
  | .ls a => some (mapGet 0 a s.ls)
  | _ => none

/-- A copy that has read what the bytes `ts` need. -/
def copyRead (s : State) (c : Copy) (ts : List Nat) : Copy :=
  { c with got := c.got ++ (copyFetch c ts).filterMap (fun t => (sourceByte s c t).map (fun b => (t, b))) }

/-- Some byte that the bytes `ts` of a copy need may not be read yet: an access comes before it, or the arrival bit of its
line is clear (R225, R269, R320, R322). -/
def fetchHeld (s : State) (c : Copy) (ts : List Nat) : Bool :=
  (copyFetch c ts).any (fun t => beforeCopy s c.uid c.id c.pcid (c.due - 1) false (copySource c t) 1
    || (c.out && lineClear s c.uid c.id ((c.ls + t) / 128)))

/-- The bytes of a copy in a local-store line: the first, and how many. -/
def copyPart (c : Copy) (line : Nat) : Nat × Nat :=
  let lo := Nat.max c.ls (line * 128)
  let hi := Nat.min (c.ls + copyBytes c) (line * 128 + 128)
  (lo, hi - lo)

/-- Byte `t` of a copy into local store lands, unless its granule could not be read (R269, R270). -/
def landByte (c : Copy) (s : State) (t : Nat) : State :=
  match gotByte c.got t with
  | some b => writePlace s (.ls (c.ls + t)) 1 b.toNat
  | none => s

/-- A port gives way to the requests of urgent contexts before an access of frond `uid` (R243). -/
def givesWay (s : State) (uid : Nat) (p : Place) : Bool :=
  !((findFrond s uid).elim false (fun f => f.urgent)) && urgentWaits s p

/-- The bytes of a copy, by number, that lie in a local-store line. -/
def lineBytes (c : Copy) (line : Nat) : List Nat :=
  (List.range (copyPart c line).2).map (fun i => (copyPart c line).1 - c.ls + i)

/-- Some byte of a copy into a line may not be read from the region, or written in the line, yet. -/
def lineHeld (s : State) (c : Copy) (line : Nat) : Bool :=
  let p := copyPart c line
  beforeCopy s c.uid c.id c.pcid (c.due - 1) true (.ls p.1) p.2 || arrivedAt s p.1 p.2 || givesWay s c.uid (.ls p.1)
    || fetchHeld s c (lineBytes c line)

/-- The words of local store that the bytes at some addresses touch have been written (R347). -/
def bytesWritten (s : State) (as : List Nat) : State :=
  (as.foldl (fun acc a => setAdd (8 * (a / 8)) acc) []).foldl reexamine s

/-- A copy without the bytes `ts`, which have been written. -/
def copyWritten (c : Copy) (ts : List Nat) : Copy := { c with got := c.got.filter (fun x => !ts.contains x.1) }

/-- A line of a copy into local store lands (R269); none when it may not land now. The bytes of a granule that cannot be
read are not written, and set nothing going (R270, R347). -/
def landCopyLine (s : State) (id line : Nat) : Option State :=
  (s.copies.find? (fun c => c.id == id)).bind (fun c0 =>
    if !c0.lines.contains line || decide (s.clk < c0.due) || lineHeld s c0 line then none
    else
      let ts := lineBytes c0 line
      let c := copyRead s c0 ts
      let s := noteProgress s c.jid
      let bad := ts.find? (fun t => !hasGot c.got t)
      let s := countGranules (ts.foldl (landByte c) s) (ts.map (fun t => (c.pa + copyOff c t) / 64))
      let s := if bad.isNone then lsWhole s (copyPart c line).1 (copyPart c line).2 else s
      let up : Copy := { copyWritten c ts with lines := c.lines.filter (fun x => x != line)
                                               failed := match c.failed, bad with
                                                 | none, some t => some (copyGranule c t)
                                                 | x, _ => x }
      let got := (ts.filter (hasGot c.got)).map (fun t => c.ls + t)
      some (lineSet (bytesWritten { s with copies := updFirst (fun k => k.id == id) (fun _ => up) s.copies } got) line))

/-- Byte `t` of a copy out of local store is written, unless its granule fails (R269, R447). -/
def outByte (c : Copy) (s : State) (t : Nat) : State :=
  let pa := c.pa + copyOff c t
  if poisoned s pa && !copyCoversAll c (pa / 64) then s
  else { s with hbm := mapPut 0 pa ((gotByte c.got t).getD 0) s.hbm }

/-- The bytes that a copy out has still to write in piece `k` of its region. -/
def pieceBytes (c : Copy) (k : Nat) : List Nat :=
  (List.range (copyBytes c)).filter (fun t => copyUndone c t && (c.pa + copyOff c t) / 8 == k)

/-- The bytes that a copy out of local store has still to write. -/
def bytesLeft (c : Copy) : List Nat := (copyLeft c).flatMap (pieceBytes c)

/-- The granules of which a copy out writes a part while they are marked: by the first byte in each (R250). -/
def failedGranules (s : State) (c : Copy) : List Nat :=
  (bytesLeft c).foldl (fun acc t =>
    let pa := c.pa + copyOff c t
    if poisoned s pa && !copyCoversAll c (pa / 64) && !acc.any (fun u => copyGranule c u == copyGranule c t) then
      acc ++ [t] else acc) []

/-- A failed granule of a copy out: the error record and the deferred STOREERR of path code 1 (R250, R270). -/
def failGranule (c : Copy) (s : State) (t : Nat) : State :=
  let va := copyGranule c t
  let r := Config.rmwRecord va
  let s := match findJob s c.jid with
    | some j => errorRecord s r.1 j.aqi j.pasid r.2 c.jid
    | none => s
  noteStoreErr s c.uid c.jid (pathCOPY * 2 ^ 56 + va)

/-- The barrier addition of a copy, a `barv` of its byte count (R270). -/
def copyBarrier (s : State) (c : Copy) : State :=
  match c.bar with
  | none => s
  | some w => lsWritten (setLsWord s w (barrierAdd (readNat s.ls w 8) (copyBytes c) false)) w 8

/-- Pieces of a copy have been applied at other dies (R326). -/
def appliedPieces (s : State) (c : Copy) (ts : List Nat) : State :=
  (ts.filterMap (copyDie s c)).foldl (fun s d => noteApplied s d (dieOf c.pcid)) s

/-- The bytes that a copy out of local store has still to write are written to its region, and its granules are
counted (R227). -/
def copyOut (s : State) (c : Copy) : State :=
  let bad := failedGranules s c
  let s := appliedPieces ((bytesLeft c).foldl (outByte (copyRead s c (bytesLeft c))) s) c (copyLeft c)
  let s := countGranules s ((List.range (copyBytes c)).map (fun t => (c.pa + copyOff c t) / 64))
  let s := { s with poison := s.poison.filter (fun g => !copyCoversAll c g) }
  bad.foldl (failGranule c) s

/-- The region of a copy that moves bytes exists (R216); layout records are not checked for it (R36). -/
def copyNowhere (c : Copy) : Bool :=
  copyBytes c != 0 && (!paExists c.pa || !paExists (c.pa + copySpan c - 1))

/-- Piece `k` of its region may be written by a copy out of local store. -/
def pieceReady (s : State) (c : Copy) (k : Nat) : Bool :=
  !fetchHeld s c (pieceBytes c k)
    && (pieceBytes c k).all (fun t => !beforeCopy s c.uid c.id c.pcid (c.due - 1) true (copyDest c t) 1)
    && !givesWay s c.uid (.ls c.ls) && ((copyDie s c k).map (clockReady s (dieOf c.pcid) c.clock)).getD true

/-- What a copy out of local store has still to write may be written. -/
def outReady (s : State) (c : Copy) : Bool := (copyLeft c).all (pieceReady s c)

/-- The aligned pieces of its source, by address / 8, that a copy has still to read. -/
def copyPieces (c : Copy) : List Nat :=
  ((List.range (copyBytes c)).filter (fun t => copyUndone c t && !hasGot c.got t)).foldl
    (fun acc t => setAdd (copyPiece c t) acc) []

/-- Piece `k` of its source is read by a copy before it is written (R319, R321); none when it may not be. -/
def fetchPiece (s : State) (id k : Nat) : Option State :=
  (s.copies.find? (fun c => c.id == id)).bind (fun c =>
    let ts := (List.range (copyBytes c)).filter (fun t => copyPiece c t == k && copyUndone c t && !hasGot c.got t)
    if ts.isEmpty || decide (s.clk < c.due) || copyNowhere c || fetchHeld s c ts || givesWay s c.uid (.ls c.ls)
      || ts.any (fun t => (sourceByte s c t).isNone) then none
    else some { s with copies := updFirst (fun x => x.id == id) (fun _ => copyRead s c ts) s.copies })

/-- Piece `k` of its region is written by a copy out of local store before the rest (R319, R321; log entry 89); none when it
may not be. The pieces of a marked granule are left for COPY_COMPLETE (R447). -/
def movePiece (s : State) (id k : Nat) : Option State :=
  (s.copies.find? (fun c => c.id == id)).bind (fun c =>
    let ts := pieceBytes c k
    let bad := ts.any (fun t => poisoned s (c.pa + copyOff c t))
    if decide (s.clk < c.due) || !(copyLeft c).contains k || copyNowhere c || bad || !pieceReady s c k then none
    else
      let r := copyRead s c ts
      let s := appliedPieces (ts.foldl (outByte r) (noteProgress s c.jid)) c [k]
      let up : Copy := { copyWritten r ts with moved := setAdd k c.moved }
      some { s with copies := updFirst (fun x => x.id == id) (fun _ => up) s.copies })

/-- The barrier addition of a copy may be made: what its frond has stored to the word before has been performed, the line
of the word has landed, no new request has reached the word in this cycle, and its port is free of urgent ones (R225,
R243, R322, R347). -/
def barrierReady (s : State) (c : Copy) : Bool :=
  match c.bar with
  | some w => !lineClear s c.uid c.id (w / 128) && !arrivedAt s w 8 && !givesWay s c.uid (.ls w)
    && !beforeCopy s c.uid c.id c.pcid (c.due - 1) true (.ls w) 8
  | none => true

/-- The last act of a copy: its barrier addition, and the STOREERR of a failed read. -/
def endCopy (s : State) (c : Copy) : State :=
  let s := copyBarrier { s with copies := s.copies.filter (fun k => k.id != c.id) } c
  match c.failed with
  | some va => noteStoreErr s c.uid c.jid (pathCOPY * 2 ^ 56 + va)
  | none => s

/-- COPY_COMPLETE (R270). -/
def execCopyComplete (s : State) : Host.Outcome State Fault Refusal :=
  match s.subject with
  | .object id =>
    match s.copies.find? (fun c => c.id == id) with
    | none => .refused .notEnabled
    | some c =>
      if s.clk < c.due ∨ !c.lines.isEmpty ∨ !barrierReady s c then .refused .notEnabled
      else if c.out && copyBytes c != 0 then
        if !outReady s c then .refused .notEnabled
        else if copyNowhere c then .fault (.noSuchMemory c.pa)
        else .next (endCopy (copyOut (noteProgress s c.jid) c) c)
      else .next (endCopy s c)
  | _ => .refused .notEnabled

/-! ## `cpyq` -/

/-- R271 `cpyq`. -/
def execCpyq (h : Hints) (d a b : Opnd) (s : State) : Host.Outcome State Fault Refusal :=
  runWord { h := h, grp := 0xB, fields := [fieldD (.obj 0x9C 0x9F) d, fieldA .g a, fieldB .g b] } (do
    let x ← readG 1 a
    let off ← readG 2 b
    let r ← useHandle x off.toNat false
    let c ← get
    match portQueueOf c.s c.f d.toNat with
    | none => throw .stall
    | some (q, qu) =>
      trapIf (layBytes r % 2 ^ qu.esz != 0) causeOPERAND (operandInfo 3 0 d.toNat)
      let k : CopyQ :=
        { id := c.s.fresh, uid := c.f.uid, jid := c.f.jid, pcid := c.f.pcid, pl := c.f.pl, stage := c.f.stage, q := q
          pa := layPa r + off.toNat, va := layVa r + off.toNat, ext0 := layExt0 r, e1 := layE1 r, e2 := layE2 r
          str1 := layStr1 r, str2 := layStr2 r, pos := 0, due := c.s.clk + 1 }
      if layBytes r ≠ 0 then modS (fun s => { s with fresh := s.fresh + 1, copyqs := s.copyqs ++ [k] })
      return .seq) s

/-- The PA of byte `t` of the shape of a `cpyq`, in region byte order (R271). -/
def copyqPa (c : CopyQ) (t : Nat) : Nat := c.pa + shapeOff c.ext0 c.e1 c.str1 c.str2 t

/-- The bytes of its next element of `n` bytes. -/
def copyqBytes (c : CopyQ) (n : Nat) : List Nat := (List.range n).map (c.pos + ·)

/-- The bytes that a `cpyq` reads for its next element: those of the aligned pieces in which it lies that have not been read
(R321). -/
def copyqFetch (c : CopyQ) (n : Nat) : List Nat :=
  let ks := ((copyqBytes c n).filter (fun t => !hasGot c.got t)).map (fun t => copyqPa c t / 8)
  (List.range (c.e2 * c.e1 * c.ext0)).filter (fun t =>
    decide (c.pos ≤ t) && !hasGot c.got t && ks.contains (copyqPa c t / 8))

/-- A `cpyq` that has read what its next element needs. -/
def copyqRead (s : State) (c : CopyQ) (n : Nat) : CopyQ :=
  { c with got := c.got ++ ((copyqFetch c n).filter (fun t => !poisoned s (copyqPa c t))).map (fun t =>
      (t, mapGet 0 (copyqPa c t) s.hbm)) }

/-- The next element of a `cpyq` that has been read; a byte that cannot be read is a free value (log entry 17). -/
def copyqElem (s : State) (c : CopyQ) (n : Nat) : List Byte :=
  (List.range n).map (fun i => (gotByte c.got (c.pos + i)).getD (Config.unreadByte (s.choices + i)))

/-- The granule of a byte of the next element of a `cpyq` that could not be read. -/
def copyqBad (c : CopyQ) (n : Nat) : Option Nat :=
  ((copyqBytes c n).find? (fun t => !hasGot c.got t)).map (fun t =>
    (c.va + shapeOff c.ext0 c.e1 c.str1 c.str2 t) / 64 * 64 % 2 ^ 56)

/-- A `cpyq` has pushed an element of `n` bytes; after the last one its stage may complete. -/
def copyqNext (s : State) (c : CopyQ) (n : Nat) : State :=
  let s := match copyqBad c n with
    | some va => noteStoreErr { s with choices := s.choices + n } c.uid c.jid (pathCOPY * 2 ^ 56 + va)
    | none => s
  if c.pos + n < c.e2 * c.e1 * c.ext0 then
    let up : CopyQ := { c with pos := c.pos + n, got := c.got.filter (fun x => decide (c.pos + n ≤ x.1)) }
    { s with copyqs := updFirst (fun k => k.id == c.id) (fun _ => up) s.copyqs }
  else settleJob { s with copyqs := s.copyqs.filter (fun k => k.id != c.id) } c.jid

/-- The next element of a `cpyq` may not be read yet (R320, R322). -/
def copyqHeld (s : State) (c : CopyQ) (n : Nat) : Bool :=
  (copyqFetch c n).any (fun t => beforeCopy s c.uid c.id c.pcid (c.due - 1) false (.hbm (copyqPa c t)) 1)

/-- The next element of a `cpyq` has been read and leaves it; its granules are counted (R227). -/
def copyqTaken (s : State) (c : CopyQ) (n : Nat) : State :=
  copyqNext (countGranules s ((copyqBytes c n).map (fun t => copyqPa c t / 64))) c n

/-- A new request has reached, in this cycle, the ring that the next push to a queue writes: the push comes in a later one
(R347). -/
def ringReached (s : State) (q : Queue) : Bool :=
  match q.pushSeg.bind (fun i => (q.segs[i]?).bind (fun g => g.cell q g.elems.length)) with
  | some a => arrivedAt s a (2 ^ q.esz)
  | none => false

/-- CPYQ_PUSH (R271). In a job that retires an element which its queue does not take is discarded, and no error is
counted (R401; log entry 78). -/
def execCpyqPush (s : State) : Host.Outcome State Fault Refusal :=
  match s.subject with
  | .object id =>
    match s.copyqs.find? (fun c => c.id == id) with
    | none => .refused .notEnabled
    | some c =>
      match theQueue s c.jid c.pl c.q with
      | none => .refused .notEnabled
      | some q =>
        let n := 2 ^ q.esz
        let r := copyqRead s c n
        let live := ((findJob s c.jid).map (fun j => j.live)).getD false
        if s.clk < c.due || copyqHeld s c n || ringReached s q then .refused .notEnabled
        else if !paExists (copyqPa c c.pos) then .fault (.noSuchMemory c.pa)
        else if q.closed then .next (copyqTaken (addErrors s c.jid live.toNat) r n)
        else
          match pushElem s c.jid c.pl c.q (copyqElem s r n) with
          | none => if live then .refused .notEnabled else .next (copyqTaken s r n)
          | some t => .next (copyqTaken t r n)
  | _ => .refused .notEnabled

/-! ## Gather, scatter, `scadd` -/

/-- The lanes of MASK, rising (R267). -/
def maskLanes (mask : BitVec 16) : List Nat := (List.range 16).filter (fun l => mask.getLsbD l)

/-- The lanes and addresses of `gath` and `scat` (R272). -/
def indexed (mask : BitVec 16) (a : Nat) (ix : List Nat) (size : Nat) : List (Nat × Nat) :=
  (maskLanes mask).map (fun l => (l, Int.wrap ((a : Int) + Nat.signed (nth ix l) 32 * size) 64))

/-- The elements of `gath` and `scat`; none of them with an empty mask. -/
def indexedElems (mty : BitVec 4) (raw write : Bool) (mask : BitVec 16) (a : Nat) (ix : List Nat) :
    M (List Elem) :=
  if mask = 0 then return [] else elementsOf mty.toNat raw false write none (indexed mask a ix)

/-- R272 `gath`. -/
def execGath (h : Hints) (mty : BitVec 4) (raw : Bool) (d a b : Opnd) (mask : BitVec 16) (s : State) :
    Host.Outcome State Fault Refusal :=
  runWord { h := h, grp := 0xB, fields := [fieldD .vres d, fieldA .g a, fieldB .v b] } (do
    limitOuts
    let x ← readG 1 a
    let y ← readV 2 b
    let es ← indexedElems mty raw false mask x.toNat y
    launch h false { path := pathGATHER, op := .load mty.toNat true, dest := destOf d, elems := es }) s

/-- R273 `scat`. -/
def execScat (h : Hints) (mty : BitVec 4) (raw : Bool) (d a b : Opnd) (mask : BitVec 16) (s : State) :
    Host.Outcome State Fault Refusal :=
  runWord { h := h, grp := 0xB, fields := [fieldD .v d, fieldA .g a, fieldB .v b] } (do
    let x ← readG 1 a
    let y ← readV 2 b
    let z ← readV 0 d
    let es ← indexedElems mty raw true mask x.toNat y
    if es.isEmpty then return .seq
    else launch h false { path := pathGATHER, op := .store, elems := withValues (nth z) es }) s

/-- R274 `scadd`. -/
def execScadd (h : Hints) (ty : BitVec 4) (d a b : Opnd) (mask : BitVec 16) (s : State) :
    Host.Outcome State Fault Refusal :=
  runWord { h := h, grp := 0xB, fields := [fieldD .v d, fieldA .g a, fieldB .v b] } (do
    let x ← readG 1 a
    let y ← readV 2 b
    let z ← readV 0 d
    let sites := (maskLanes mask).map (fun l => (l, (x.toNat + 4 * nth y l) % 2 ^ 64))
    let es ← elementsSized 4 false true true 0 sites
    if es.isEmpty then return .seq
    else launch h false { path := pathREDUCE, op := .scadd (ty == 1), elems := withValues (nth z) es }) s

/-! ## `rbar` -/

/-- The paths CORE and REDUCE. -/
def onCoreReduce (p : Nat) : Bool := p == pathCORE || p == pathREDUCE

/-- A core drains for a move to another stage, from the balancer's decision on (R83). -/
def draining (c : Core) : Bool := c.move.isSome

/-- A core serves a stage: it is bound to it, or its urgent context is of it. -/
def servesStage (c : Core) (jid pl stage : Nat) : Bool :=
  boundTo c jid pl stage || urgentOf c jid pl stage

/-- The participants of a phase that core `pcid` opens (R275). -/
def participants (s : State) (f : Frond) (scope : Nat) : List Nat :=
  (s.cores.filter (fun c => servesStage c f.jid f.pl f.stage && !draining c && sameScope scope f.pcid c.pcid)).map
    (fun c => c.pcid)

/-- The open phase that an arrival of frond `f` belongs to: its core lies within the scope of the core that opened it.
The arrival of a core that is no participant parks like any other (R275). -/
def phaseOf (s : State) (f : Frond) : Option Phase :=
  s.phases.find? (fun p => p.jid == f.jid && p.pl == f.pl && p.stage == f.stage && sameScope p.scope p.opener f.pcid)

/-- The leaves of the target's elements are those last used to reach their granules (R227). -/
def noteTargets (s : State) (es : List Elem) : State :=
  es.foldl (fun s e => match resolve s e.place with
    | .hbm pa => noteLeaf s pa e.size e.cnt.isSome
    | _ => s) s

/-- Every participant of a phase has arrived (R275). -/
def allArrived (p : Phase) : Bool := p.parts.all (fun c => p.arrived.contains c)

/-- A frond takes its place in a phase. With the last participant the stores of the merge are issued, and take the clock of
the die of the core that opened the phase (R275, R326). -/
def arriveAt (s : State) (f : Frond) (h : Hints) (p : Phase) : State × Phase :=
  let p := { p with arrived := setAdd f.pcid p.arrived, waiters := p.waiters ++ [(f.uid, h)], begun := s.clk }
  let n := ((mergeLeft p).map (fun i => (mergeDies s p i).length)).sum
  if !allArrived p || n = 0 || !p.clock.isEmpty then (s, p)
  else
    let r := stampClocks s (dieOf p.opener) n
    (r.2, { p with clock := r.1 })

/-- The die of the core that opened a phase has too many stores to a die that the merge writes to (R326). -/
def mergeStops (s : State) (p : Phase) : Bool :=
  clockStops s (dieOf p.opener) ((List.range p.n).flatMap (mergePlaces p))

/-- R275 `rbar`. -/
def execRbar (h : Hints) (ty : BitVec 4) (scope : BitVec 3) (a b : Opnd) (n : BitVec 24) (s : State) :
    Host.Outcome State Fault Refusal :=
  runWord { h := h, grp := 0xB, fields := [fieldA .g a, fieldB .g b] } (do
    let c ← get
    stallIf (!released c.s c.f.uid onCoreReduce scope.toNat)
    let x ← readG 1 a
    let y ← readG 2 b
    let c ← get
    let same := fun (p : Phase) => p.target == x.toNat && p.copy == y.toNat && p.n == n.toNat
      && p.f32 == (ty == 1) && p.scope == scope.toNat
    match phaseOf c.s c.f with
    | some p => trapIf (!same p) causeOPERAND (operandInfo 5 0xE 0)
    | none => pure ()
    let sites := fun (base : Nat) => (List.range n.toNat).map (fun i => (i, (base + 4 * i) % 2 ^ 64))
    let _ ← elementsSized 4 false true true 0 (sites y.toNat)
    let es ← elementsSized 4 false false true 0 (sites x.toNat)
    let opens : Phase :=
      { id := c.s.fresh, jid := c.f.jid, pl := c.f.pl, stage := c.f.stage, scope := scope.toNat
        f32 := ty == 1, opener := c.f.pcid, target := x.toNat, places := es.map (fun e => e.place), copy := y.toNat, n := n.toNat
        parts := participants c.s c.f scope.toNat, arrived := [], waiters := []
        due := c.s.clk + 1 }
    stallIf (mergeStops c.s ((phaseOf c.s c.f).getD opens))
    match phaseOf c.s c.f with
    | some p =>
      modS (fun s =>
        let r := arriveAt s c.f h p
        { r.1 with phases := updFirst (fun q => q.id == p.id) (fun _ => r.2) s.phases })
    | none =>
      modS (fun s =>
        let r := arriveAt s c.f h opens
        { noteTargets r.1 es with fresh := s.fresh + 1, phases := s.phases ++ [r.2] })
    return .park 9 (x.toNat % 2 ^ 48)) s

/-- The value of target element `i` after the merge of the participants' copies (R275). A NaN produced in it names the logical
core whose copy is being added (R179; log entry 108, DESIGN CHOICE: the adds run on a reduction engine). -/
def mergeValue (s : State) (p : Phase) (i t : Nat) (parts : List Nat) : Nat :=
  parts.foldl (fun t c =>
    let x := readNat s.ls (c * 2 ^ 20 + p.copy + 4 * i) 4
    if p.f32 then (fAdd rneMode 0 (logicalOf s p.jid c) t x).1 else (t + x) % 2 ^ 32) t

/-- The participants of a phase in ascending logical number. -/
def inLogical (s : State) (p : Phase) : List Nat :=
  match findJob s p.jid with
  | some j => j.cores.filter (fun c => p.parts.contains c)
  | none => p.parts

/-- Element `i` of a phase is merged, and its copies are cleared (R275). A target element that cannot be read is
left, as R250 leaves a failed read-modify-write. -/
def mergeElem (p : Phase) (s : State) (i : Nat) : State :=
  let parts := inLogical s p
  let clear := fun (s : State) => parts.foldl (fun s c => writeHome s (.ls (c * 2 ^ 20 + p.copy + 4 * i)) 4 0) s
  match p.places[i]? with
  | none => s
  | some pl =>
    let s := (mergeDies s p i).foldl (fun s d => noteApplied s d (dieOf p.opener)) s
    let pl := resolve (touchWalk s pl) pl
    let s := match pl with
      | .hbm pa => countBare s pa 4
      | _ => s
    match readPlace s pl 4 with
    | some t => clear (writeHome s pl 4 (mergeValue s p i t parts))
    | none =>
      clear (match p.waiters with
        | w :: _ => noteStoreErr s w.1 p.jid (pathREDUCE * 2 ^ 56 + (p.target + 4 * i) / 64 * 64 % 2 ^ 56)
        | [] => s)

/-- An access of a frond of a phase to a place has still to be performed before the merge's own: one that the frond made
before it arrived (R322), or one that has passed the boundary of a scope that holds both (R320, R325). -/
def mergeHeld (s : State) (p : Phase) (x : Place) : Bool :=
  p.waiters.any (fun w => beforeCopy s w.1 s.fresh ((findFrond s w.1).elim p.opener (fun f => f.pcid)) p.begun true x 4)
    || boundaryHolds s 0 p.opener p.begun x 4

/-- The port of a place takes an access of a merge now: what the access touches has landed, no new request has reached it
in this cycle, and no urgent one is ready there (R225, R243, R347). -/
def mergeTakes (s : State) (p : Phase) (x : Place) : Bool :=
  blockLanded s x && arrived s 0 p.id x 4
    && !(p.waiters.all (fun w => givesWay s w.1 x) && urgentWaits s x)
    && match resolve s x with
      | .ls a => !arrivedAt s a 4
      | _ => true

/-- Two elements of a phase write a byte in common. -/
def mergeMeets (p : Phase) (i j : Nat) : Bool :=
  (mergePlaces p i).any (fun x => (mergePlaces p j).any (fun y => overlap x 4 y 4))

/-- Element `i` of a phase may be merged: the loop of R275 is kept for elements that write a byte in common. -/
def elemMerges (s : State) (p : Phase) (i : Nat) : Bool :=
  (mergePlaces p i).all (fun x => mergeTakes s p x && !mergeHeld s p x)
    && (mergeLeft p).all (fun j => decide (i ≤ j) || !mergeMeets p i j)
    && (mergeDies s p i).all (clockReady s (dieOf p.opener) p.clock)

/-- The merge of a phase has begun (R275). -/
def merging (s : State) (p : Phase) : Bool := decide (p.due ≤ s.clk) && allArrived p

/-- Element `i` of a phase is merged before the rest (R319; log entry 89); none when it may not be. -/
def mergeOne (s : State) (id i : Nat) : Option State :=
  (s.phases.find? (fun p => p.id == id)).bind (fun p =>
    if !merging s p || !(mergeLeft p).contains i || !elemMerges s p i then none
    else
      let s := mergeElem p (noteProgress s p.jid) i
      some { s with phases := updFirst (fun q => q.id == id) (fun q => { q with merged := setAdd i q.merged }) s.phases })

/-- The elements `is` of a phase, each merged by then those before it, may be merged one after another. -/
def mergesInTurn (s : State) (p : Phase) : List Nat → Bool
  | [] => true
  | i :: is => elemMerges s { p with merged := (List.range i).foldl (fun acc j => setAdd j acc) p.merged } i
    && mergesInTurn s p is

/-- A phase may end: what is left of its merge may be made. -/
def mergeReady (s : State) (p : Phase) : Bool := merging s p && mergesInTurn s p (mergeLeft p)

/-- REDUCTION_MERGE_DONE (R275): the elements that are left are merged, and the fronds go on in arrival order. -/
def execReductionMergeDone (s : State) : Host.Outcome State Fault Refusal :=
  match s.subject with
  | .object id =>
    match s.phases.find? (fun p => p.id == id) with
    | none => .refused .notEnabled
    | some p =>
      if mergeReady s p then
        let s := noteProgress s p.jid
        let s := (mergeLeft p).foldl (mergeElem p) { s with phases := s.phases.filter (fun q => q.id != id) }
        .next (p.waiters.foldl (fun s w => resumeWord s w.1 w.2) s)
      else .refused .notEnabled
  | _ => .refused .notEnabled

/-! ## Function shipping -/

/-- The element of a `ship`, after the checks of R277. -/
def shipSite (va size : Nat) : M Elem := do
  trapIf (decide (2 ^ 56 ≤ va)) causeXLATE va
  trapIf (va % size != 0) causeALIGN va
  trapIf (decide (windowBase ≤ va ∧ va < windowBase + 2 ^ 33)) causeSHIPERR (shipInfo 1 0 va)
  trapIf (inWindow va) causeXLATE va
  let t ← translateAt va true
  let c ← get
  trapIf t.host causeSHIPERR (shipInfo 2 0 va)
  trapIf (t.walk && jobWalks c.s c.f.jid) causeSHIPERR (shipInfo 3 0 va)
  return { place := .hbm (t.pa + (va - t.va)), va := va, size := size, lane := 0, coding := .raw, val := 0
           performed := false, applied := false, cnt := if t.cnt then some t.tier else none }

/-- R276, R277 `ship`. -/
def execShip (h : Hints) (rout : BitVec 4) (w u : Bool) (d a b c : Opnd) (s : State) :
    Host.Outcome State Fault Refusal :=
  runWord { h := h, grp := 0xB, feats := [3]
            fields := [fieldD .gres d, fieldA .g a, fieldB .g b, fieldC .g c] } (do
    limitOuts
    let x ← readG 1 a
    let y ← readG 2 b
    let z ← readG 0xA c
    let size := if w then 4 else 8
    let e ← shipSite x.toNat size
    launch h false { path := pathSHIP, op := .rmw rout.toNat u (Nat.low y.toNat (8 * size))
                                             (Nat.low z.toNat (8 * size)) w
                     dest := destOf d, elems := [e] }) s

end Sys2Proof.Machine
end

