-- ==== Sys2Proof/Machine/Views.lean ====
section
/-! DEFINITION. Group 0x9 (R258 to R266): view registers. -/

namespace Sys2Proof.Machine

/-- The view register that a w field names. -/
def viewNum (o : Opnd) : Nat := o.toNat % 4

/-- Coordinate k of a coordinate register (R259). -/
def coordinate (x : Word) (k : Nat) : Nat := Nat.field x.toNat (16 * k) 16

/-- `einfo` of VIEWBOUND (R259). -/
def boundInfo (index lane dim : Nat) : Nat := index % 2 ^ 32 * 2 ^ 32 + lane * 8 + dim

/-- Index of dimension k for a lane: ORGk + ik, and the lane in dimension 0 (R41, R263). -/
def viewIndex (d : BitVec 512) (x : Word) (lane k : Nat) : Nat :=
  viewOrg d k + coordinate x k + if k = 0 then lane else 0

/-- The bounds of R41 fail in dimension k for a lane. -/
def outOfBounds (d : BitVec 512) (x : Word) (lane k : Nat) : Bool :=
  if k < viewRank d then decide (viewExt d k ≤ viewIndex d x lane k)
  else coordinate x k != 0 || (k == 0 && lane != 0)

/-- The lowest failing dimension, then the lowest lane (R259). -/
def boundFailure (d : BitVec 512) (x : Word) (n : Nat) : Option (Nat × Nat) :=
  (List.range 4).findSome? (fun k =>
    ((List.range n).find? (fun l => outOfBounds d x l k)).map (fun l => (k, l)))

/-- The bound check of an access to lanes 0 to `n` − 1 (R259, R263). -/
def checkBounds (d : BitVec 512) (x : Word) (n : Nat) : M Unit :=
  match boundFailure d x n with
  | some (k, l) => raise causeVIEWBOUND (boundInfo (viewIndex d x l k) l k)
  | none => pure ()

/-- The address of a lane's element (R41, R262). -/
def viewAddr (d : BitVec 512) (x : Word) (lane : Nat) : Nat :=
  ((viewBase d : Int) + (viewEsz d : Int) *
    ((viewDims d).map (fun k => (viewIndex d x lane k : Int) * viewStr d k)).sum).toNat

/-- The lanes of a view access with their addresses. -/
def viewSites (d : BitVec 512) (x : Word) (n : Nat) : List (Nat × Nat) :=
  (List.range n).map (fun l => (l, viewAddr d x l))

/-- The live view that a field names, or OPERAND (R259); a store needs one of mode RW. -/
def liveView (pos : Nat) (o : Opnd) (write : Bool) : M (BitVec 512) := do
  let f ← getF
  match viewOf f (viewNum o) with
  | none => throw (.trap causeOPERAND (operandInfo 4 pos o.toNat))
  | some d =>
    trapIf (write && !viewWrite d) causeOPERAND (operandInfo 4 pos o.toNat)
    return d

/-- A CORE view access waits for the `mst` stores, not yet completed, of a view that it may meet (R306, R330). -/
def waitEngineView (d : BitVec 512) : M Unit := do
  let c ← get
  stallIf (c.s.engines.any (fun n => n.queue.any (fun w => w.uid == c.f.uid && match w.view with
    | some v => mayMeet v.1 (footOf d)
    | none => false)))

/-- A load through a view (R262, R263). -/
def viewLoad (h : Hints) (mty : BitVec 4) (raw vec : Bool) (d a b : Opnd) (n : Nat) : M Next := do
  limitOuts
  let v ← liveView 1 a false
  waitEngineView v
  let x ← readG 2 b
  checkBounds v x n
  let es ← elementsOf mty.toNat raw false false (some (viewFcode v, viewEsz v)) (fun _ => viewSites v x n)
  let wait ← serveWalk h es
  launch h wait { path := pathCORE, op := .load mty.toNat vec, dest := destOf d, elems := es
                  view := some (footOf v, viewNum a) }

/-- A store through a view, of the values `val` by lane (R262, R263). -/
def viewStore (h : Hints) (mty : BitVec 4) (raw : Bool) (d a : Opnd) (val : M (Nat → Nat)) (n : Nat) : M Next := do
  let v ← liveView 0 d true
  waitEngineView v
  let x ← readG 1 a
  let y ← val
  checkBounds v x n
  let es ← elementsOf mty.toNat raw false true (some (viewFcode v, viewEsz v)) (fun _ => viewSites v x n)
  let wait ← serveWalk h es
  launch h wait { path := pathCORE, op := .store, elems := withValues y es
                  view := some (footOf v, viewNum d) }

/-- R260 `wbind`: the descriptor is read, and its checks and registration follow when it has been. -/
def execWbind (h : Hints) (l : Bool) (d a : Opnd) (disp : BitVec 32) (s : State) :
    Host.Outcome State Fault Refusal :=
  runWord { h := h, grp := 9, fields := [fieldD .w d, fieldA .g a], roots := true } (do
    let x ← readG 1 a
    let ea := effective x disp
    let f ← getF
    checkForms l 64 [ea]
    trapIf (ea % 64 != 0) causeALIGN ea
    trapIf (viewOf f (viewNum d)).isSome causeOPERAND (operandInfo 4 0 d.toNat)
    let p ← placeAt l ea false
    let e : Elem := { place := p.1, va := vaOf p.1 ea, size := 64, lane := 0, coding := .raw, val := 0
                      performed := false, applied := false, cnt := p.2.2 }
    launch h true { path := pathCORE, op := .bind (viewNum d), elems := [e] }) s

/-- R261 `wret`. -/
def execWret (h : Hints) (a : Opnd) (s : State) : Host.Outcome State Fault Refusal :=
  runWord { h := h, grp := 9, fields := [fieldA .w a] } (do
    let c ← get
    let w := viewNum a
    match viewOf c.f w with
    | none => return .seq
    | some d =>
      stallIf (!viewReleased c.s c.f w d)
      viaState (fun s => dropEntries (updFrond s c.f.uid (fun f => setView f w none)) c.f.uid w)
      return .seq) s

/-- R262 `wld`. -/
def execWld (h : Hints) (mty : BitVec 4) (raw : Bool) (d a b : Opnd) (s : State) :
    Host.Outcome State Fault Refusal :=
  runWord { h := h, grp := 9, fields := [fieldD .gres d, fieldA .w a, fieldB .g b] }
    (viewLoad h mty raw false d a b 1) s

/-- R262 `wst`. -/
def execWst (h : Hints) (mty : BitVec 4) (raw : Bool) (d a b : Opnd) (s : State) :
    Host.Outcome State Fault Refusal :=
  runWord { h := h, grp := 9, fields := [fieldD .w d, fieldA .g a, fieldB .g b] }
    (viewStore h mty raw d a (do let y ← readG 2 b; return fun _ => y.toNat) 1) s

/-- R263 `wvld`. -/
def execWvld (h : Hints) (mty : BitVec 4) (raw : Bool) (d a b : Opnd) (n1 : BitVec 4) (s : State) :
    Host.Outcome State Fault Refusal :=
  runWord { h := h, grp := 9, fields := [fieldD .vres d, fieldA .w a, fieldB .g b] }
    (viewLoad h mty raw true d a b (n1.toNat + 1)) s

/-- R263 `wvst`. -/
def execWvst (h : Hints) (mty : BitVec 4) (raw : Bool) (d a b : Opnd) (n1 : BitVec 4) (s : State) :
    Host.Outcome State Fault Refusal :=
  runWord { h := h, grp := 9, fields := [fieldD .w d, fieldA .g a, fieldB .v b] }
    (viewStore h mty raw d a (do let y ← readV 2 b; return nth y) (n1.toNat + 1)) s

/-- A field of a live view (R264). -/
def viewField (d : BitVec 512) (sel : Nat) : Word :=
  if sel = 0 then BitVec.ofNat 64 (viewBase d)
  else if sel = 1 then BitVec.ofNat 64 (Nat.field d.toNat 64 32)
  else if sel ≤ 5 then BitVec.ofNat 64 (viewExt d (sel - 2))
  else if sel ≤ 9 then BitVec.ofInt 64 (viewStr d (sel - 6))
  else if sel ≤ 13 then BitVec.ofNat 64 (viewOrg d (sel - 10))
  else 1

/-- R264 `wqry`. -/
def execWqry (h : Hints) (d a : Opnd) (sel : BitVec 4) (s : State) : Host.Outcome State Fault Refusal :=
  runWord { h := h, grp := 9, fields := [fieldD .gres d, fieldA .w a] } (do
    let f ← getF
    writeG d (match viewOf f (viewNum a) with
      | some v => viewField v sel.toNat
      | none => 0)
    return .seq) s

/-- ORGk moved by the signed delta of dimension k (R265). -/
def movedOrg (d : BitVec 512) (x : Word) (k : Nat) : Int := (viewOrg d k : Int) + Nat.signed (coordinate x k) 16

/-- A delta that R265 refuses. -/
def badDelta (d : BitVec 512) (x : Word) (k : Nat) : Bool :=
  if k < viewRank d then decide (movedOrg d x k < 0 ∨ (viewExt d k : Int) ≤ movedOrg d x k)
  else coordinate x k != 0

/-- A descriptor with its origin moved. -/
def moveOrigin (d : BitVec 512) (x : Word) : BitVec 512 :=
  let low := d.toNat % 2 ^ 384
  BitVec.ofNat 512 (low + ((List.range 4).map (fun k =>
    (if k < viewRank d then (movedOrg d x k).toNat else viewOrg d k) * 2 ^ (384 + 32 * k))).sum)

/-- R265 `wadj`. -/
def execWadj (h : Hints) (d a : Opnd) (s : State) : Host.Outcome State Fault Refusal :=
  runWord { h := h, grp := 9, fields := [fieldD .w d, fieldA .g a] } (do
    let v ← liveView 0 d false
    let x ← readG 1 a
    match (List.range 4).find? (badDelta v x) with
    | some k => throw (.trap causeVIEWBOUND (boundInfo (Int.wrap (movedOrg v x k) 32) 0 k))
    | none =>
      modF (fun f => setView f (viewNum d) (some (moveOrigin v x)))
      return .seq) s

/-- A property of a live view's footprint (R266). -/
def footField (d : BitVec 512) (sel : Nat) : Nat :=
  if viewEmpty d then (if sel = 0 then 2 ^ 64 - 1 else 0)
  else if sel = 0 then (footOf d).lo
  else if sel = 1 then (footOf d).hi
  else if sel = 2 then (footOf d).step
  else (footOf d).off

/-- R266 `wfoot`. -/
def execWfoot (h : Hints) (d a : Opnd) (sel : BitVec 2) (s : State) : Host.Outcome State Fault Refusal :=
  runWord { h := h, grp := 9, fields := [fieldD .gres d, fieldA .w a] } (do
    let f ← getF
    writeG d (match viewOf f (viewNum a) with
      | some v => BitVec.ofNat 64 (footField v sel.toNat)
      | none => 0)
    return .seq) s

end Sys2Proof.Machine
end

