-- ==== Sys2Proof/Machine/Fills.lean ====
section
/-! DEFINITION. Bringing in code, translations and blocks: instruction fetch (R91 to R94), page walks (R222,
R223), migration (R231, R232), and the fill path with its arbiter (R234 to R241). -/

namespace Sys2Proof.Machine

/-! ## Instruction fetch -/

/-- The lines that hold the 12 bytes at a PC, with the first byte needed in each (R92). -/
def fetchLines (pc : Nat) : List (Nat × Nat) :=
  let l := pc / 128 * 128
  if (pc + 11) / 128 = pc / 128 then [(l, pc)] else [(l, pc), (l + 128, l + 128)]

/-- A line of a job is in a tile's instruction cache. -/
def hasLine (s : State) (tile jid line : Nat) : Bool :=
  s.ilines.any (fun l => l.tile == tile && l.jid == jid && l.line == line)

/-- The first line that a frond's next word needs and its tile does not hold. -/
def absentLine (s : State) (f : Frond) : Option (Nat × Nat) :=
  (fetchLines f.pc).find? (fun l => !hasLine s (tileOf f.pcid) f.jid l.1)

/-- Idle time of a fetch from a place (R92, R243). -/
def fetchTime (s : State) (t : Trans) (va : Nat) : Nat :=
  if t.host then 1 else 2 * (distPa s.mgmt.pkgnum (t.pa + (va - t.va))).half

/-- A frond whose next word is absent: it takes XLATE, parks on the page, or waits for a fill (R91, R92, R94). -/
def fetchMiss (s : State) (f : Frond) (line va : Nat) : State × Frond :=
  if inWindow line then takeCause (notOwed s f) f causeXLATE va f.pc 0
  else
    match findTrans s (dieOf f.pcid) f.jid va with
    | none => parkWord (startWalk s (dieOf f.pcid) f.jid va false none) f 1 (blockOf va) va
    | some t =>
      let tile := tileOf f.pcid
      let s := if s.ifills.any (fun x => x.tile == tile && x.jid == f.jid && x.line == line) then s
        else { s with ifills := s.ifills ++ [{ tile := tile, jid := f.jid, line := line
                                               due := s.clk + fetchTime s t va }] }
      (s, { f with wait := .icache, since := s.clk })

/-- The 8 bytes of code of a job at a VA as a die reads them through a translation; none on an uncorrectable error. -/
def readPiece (s : State) (t : Trans) (va : Nat) : Option Nat :=
  let pa := t.pa + (va - t.va)
  if t.host then some (readNat s.host pa 8) else if poisoned s pa then none else some (readNat s.hbm pa 8)

/-- The pieces of a line at their places, from the earlier reads `got` of the line and else as they stand; the failing
granule on an uncorrectable error. -/
def linePieces (s : State) (got : List (Nat × Nat)) (t : Trans) (line : Nat) : Nat → Except Nat (List Byte)
  | 0 => .ok []
  | n + 1 =>
    let va := line + 8 * n
    match linePieces s got t line n, (got.find? (fun p => p.1 == va)).map (·.2), readPiece s t va with
    | .ok bs, some v, _ => .ok (bs ++ natBytes 8 v)
    | .ok bs, none, some v => .ok (bs ++ natBytes 8 v)
    | .ok _, none, none => .error (va / 64 * 64)
    | .error g, _, _ => .error g

/-- The 128 bytes of a code line of a job that a fill brings to a die, in pieces of 8 bytes of which it has read `got`
before (R93): none when the die has no translation there, and the failing granule on an uncorrectable error (R91, R94). -/
def readCode (s : State) (got : List (Nat × Nat)) (die jid line : Nat) : Option (Except Nat (List Byte)) :=
  if inWindow line then none else (findTrans s die jid line).map (fun t => linePieces s got t line 16)

/-- Lines of a tile's instruction cache: 128 KiB of 128 bytes (R92). -/
abbrev ilineCap : Nat := 1024

/-- A line put into a tile's instruction cache in place of what it held. A full cache gives up another line, by a free
choice, since R92 leaves the replacement open (log entry 2); the line before stays, which a straddling word may need. -/
def putLine (s : State) (tile jid line : Nat) (bytes : List Byte) : State :=
  let new : ILine := { tile := tile, jid := jid, line := line, bytes := bytes }
  let keep := s.ilines.filter (fun l => !(l.tile == tile && l.jid == jid && l.line == line))
  if (keep.filter (fun l => l.tile == tile)).length < ilineCap then { s with ilines := new :: keep }
  else
    let may := keep.filter (fun l => l.tile == tile && !(l.jid == jid && l.line + 128 == line))
    let out := may[Config.pick s.choices % may.length]?
    { s with choices := s.choices + 1, ilines := new :: keep.filter (fun l => some l != out) }

/-- The die of a tile. -/
def tileDie (tile : Nat) : Nat := dieOf (4 * tile)

/-- The granules of a line that a fill reads are counted when its leaf has CNT = 1 (R227). -/
def countCode (s : State) (die jid line : Nat) : State :=
  match findTrans s die jid line with
  | some t =>
    let pa := t.pa + (line - t.va)
    if t.host then s
    else
      let s := noteLeaf s pa 128 t.cnt
      if t.cnt then countAccess s pa 2 t.tier.toNat else s
  | none => s

/-- A line that a fill brings is kept when it can be read. -/
def landCode (s : State) (got : List (Nat × Nat)) (tile jid line : Nat) : State :=
  match readCode s got (tileDie tile) jid line with
  | some (.ok bytes) => putLine (countCode s (tileDie tile) jid line) tile jid line bytes
  | _ => s

/-- The fronds that wait for a line of a tile's instruction cache go on, or take DATAFAULT (R92, R94). -/
def wakeFetch (bad : Option Nat) (line : Nat) (s : State) (f : Frond) : State :=
  match bad, absentLine s f with
  | some va, some (l, _) =>
    if l = line then releaseWithCause s f.uid { code := causeDATAFAULT, info := va } else s
  | _, _ => releaseFrond s f.uid

/-- A fill of a tile's instruction cache. -/
def findIFill (s : State) (tile jid line : Nat) : Option IFill :=
  s.ifills.find? (fun x => x.tile == tile && x.jid == jid && x.line == line)

/-- Piece `k` of the 32 of a fill's two lines is read ahead of the others, once the request has reached its home: the
pieces keep no order with one another (R93). None when it has been read, or cannot be. -/
def readAhead (s : State) (tile jid line k : Nat) : Option State :=
  let va := line + 8 * k
  (findIFill s tile jid line).bind (fun x => (findTrans s (tileDie tile) jid va).bind (fun t =>
    if 32 ≤ k || inWindow va || x.got.any (fun p => p.1 == va) || decide (s.clk + fetchTime s t va / 2 < x.due) then none
    else (readPiece s t va).map (fun v =>
      { s with ifills := updFirst (fun y => y == x) (fun y => { y with got := y.got ++ [(va, v)] }) s.ifills })))

/-- ICACHE_FILL (R92 to R94): the line and the next line land, their pieces that have not been read before as they then
stand in memory. -/
def execIcacheFill (s : State) : Host.Outcome State Fault Refusal :=
  match s.subject with
  | .iline tile jid line =>
    match findIFill s tile jid line with
    | none => .refused .notEnabled
    | some x =>
      if s.clk < x.due then .refused .notEnabled
      else
        let s := { s with ifills := s.ifills.filter (fun y => y != x) }
        let bad := match readCode s x.got (tileDie tile) jid line with
          | some (.error va) => some va
          | _ => none
        let s := landCode (landCode s x.got tile jid line) x.got tile jid (line + 128)
        let ws := s.fronds.filter (fun f => f.jid == jid && tileOf f.pcid == tile && f.wait == .icache)
        .next (ws.foldl (wakeFetch bad line) s)
  | _ => .refused .notEnabled

/-! ## The fill path -/

/-- A fill of a core changed. -/
def updFill (s : State) (pcid : Nat) (g : Fill → Fill) : State :=
  updCore s pcid (fun c => { c with fill := c.fill.map g })

/-- Idle time from the pick of a block to the landing of its last line (R243). -/
def blockTime (s : State) (pa : Nat) : Nat :=
  match distPa s.mgmt.pkgnum pa with
  | .near => 1500
  | .far => 2300
  | _ => 2400

/-- The fill of a core fails at a VA: its carrel carries no SPL bit any more (R241, R291). -/
def failFill (s : State) (pcid va : Nat) : State :=
  updCore s pcid (fun c =>
    match c.fill with
    | none => c
    | some x => { c with fill := some { x with failed := some va }
                         carrels := c.carrels.modify x.carrel (fun k => { k with spl := none }) })

/-- The fill of a core has its translation: the arrival bits are cleared and the region's code is stamped, and
the fill is counted (R185, R227, R238). A block that is not in this or another package's memory fails. -/
def fillReady (s : State) (pcid : Nat) (t : Trans) : State :=
  match (getCore s pcid).fill with
  | none => s
  | some x =>
    let va := x.block * blockSize
    if t.host then failFill s pcid va
    else
      let pa := t.pa + (va - t.va)
      let s := updCore s pcid (fun c =>
        { c with
            carrels := c.carrels.modify x.carrel (fun k => { k with pa := pa, spl := some t.spl, cnt := t.cnt, tier := t.tier })
            fill := some { x with ready := true, lines := List.range 128, due := x.due + blockTime s pa } })
      let s := setRegion s (pcid * 2 ^ 20 + carrelOff x.carrel) t.fcode
      let s := noteLeaf s pa blockSize t.cnt
      if t.cnt then countAccess s pa 256 t.tier.toNat else s

/-- A fill reads its block's translation, walking on a miss (R238). -/
def fillTranslate (s : State) (pcid jid block : Nat) : State :=
  match findTrans s (dieOf pcid) jid (block * blockSize) with
  | some t => fillReady s pcid t
  | none => startWalk s (dieOf pcid) jid (block * blockSize) false (some pcid)

/-- Line `i` of a carrel is written back to its block (R240, R447). -/
def writeBack (pcid k : Nat) (x : Carrel) (s : State) (i : Nat) : State :=
  let pa := x.pa + 128 * i
  let v := readNat s.ls (pcid * 2 ^ 20 + carrelOff k + 128 * i) 128
  let s := { s with hbm := writeNat s.hbm pa 128 v, poison := setDel (pa / 64) (setDel (pa / 64 + 1) s.poison) }
  if x.cnt then countAccess s pa 2 x.tier.toNat else s

/-- A carrel that no block holds. -/
def Carrel.none : Carrel :=
  { state := .empty, jid := 0, block := 0, pa := 0, spl := Option.none, cnt := false, tier := false, pins := 0
    dirty := [], spent := Option.none }

/-- A carrel put in place of another. -/
def setCarrel (s : State) (pcid k : Nat) (x : Carrel) : State :=
  updCore s pcid (fun c => { c with carrels := c.carrels.set k x })

/-- A resident block leaves its carrel, after its dirty lines have been written back (R240). -/
def evict (s : State) (pcid k : Nat) : State :=
  match (getCore s pcid).carrels[k]? with
  | none => s
  | some x => if x.state == .resident then setCarrel (x.dirty.foldl (writeBack pcid k x) s) pcid k Carrel.none else s

/-- An access that has been admitted to a block is not performed. -/
def blockBusy (s : State) (jid block : Nat) : Bool :=
  s.flights.any (fun g => g.path == pathCORE && g.op != .pin false && g.elems.any (fun e => !e.performed &&
    match e.place with
    | .walk j b _ _ => j == jid && b == block
    | _ => false))

/-- The carrels that a fill may take (R236): the empty ones, or else the one longest spent, from the cycle after it
became spent (R407). -/
def availableCarrels (s : State) (c : Core) : List Nat :=
  let ks := c.carrels.zipIdx
  match ks.filter (fun e => e.1.state == .empty) with
  | e :: es => (e :: es).map (·.2)
  | [] =>
    let spent := ks.filter (fun e => e.1.spent.isSome && decide (e.1.spentAt < s.clk)
      && !blockBusy s e.1.jid e.1.block)
    match sortBy (fun a b => decide (a.1.spent.getD 0 ≤ b.1.spent.getD 0)) spent with
    | e :: _ => [e.2]
    | [] => []

/-- The waiters of a queue that count in a pick made now (R237). -/
def countedWaiters (s : State) (q : HoldQ) : List Waiter := q.waiters.filter (fun w => decide (w.placed < s.clk))

/-- Cycles that a queue's oldest waiter has waited, less those of its bank's freeze (R132, R236). -/
def queueAge (s : State) (q : HoldQ) : Nat :=
  (countedWaiters s q).foldl (fun n w => Nat.max n (s.clk - w.placed - w.frozen)) 0

/-- The cycle in which the first hold of a queue was placed (R236 rule 3). -/
def queuePlaced (s : State) (q : HoldQ) : Nat := ((countedWaiters s q).head?.map (fun w => w.placed)).getD 0

/-- LONE of a job. -/
def loneOf (s : State) (jid : Nat) : Nat := ((findJob s jid).map (fun j => j.lone)).getD 65536

/-- Of two queues the one with the lower block VA, then the lower job id (R236). -/
def lowerBlock (a b : HoldQ) : Bool := decide (a.block < b.block) || (a.block == b.block && decide (a.jid ≤ b.jid))

/-- The order in which the arbiter prefers queues (R236). -/
def prefer (s : State) (a b : HoldQ) : Bool :=
  let starved := fun (q : HoldQ) => decide (loneOf s q.jid ≤ queueAge s q)
  let na := (countedWaiters s a).length
  let nb := (countedWaiters s b).length
  if starved a ≠ starved b then starved a
  else if starved a then
    (if queueAge s a ≠ queueAge s b then decide (queueAge s b < queueAge s a) else lowerBlock a b)
  else if na ≠ nb then decide (nb < na)
  else if queuePlaced s a ≠ queuePlaced s b then decide (queuePlaced s a < queuePlaced s b)
  else lowerBlock a b

/-- The queue that the arbiter of a core picks (R236). -/
def pickQueue (s : State) (c : Core) : Option HoldQ :=
  (sortBy (prefer s) (c.holds.filter (fun q => !(countedWaiters s q).isEmpty))).head?

/-- SPL of the page of a block of a job, as its core's die holds it or as the tables give it; none where they give no
leaf (R291). -/
def splOf (s : State) (pcid jid block : Nat) : Option Bool :=
  match findTrans s (dieOf pcid) jid (block * blockSize) with
  | some t => some t.spl
  | none => (findJob s jid).bind (fun j => match translatePasid s j.space (block * blockSize) false with
    | .ok l => some l.spl
    | .error _ => none)

/-- FILL_PICK (R236 to R238, R240): which of several empty carrels is taken is a free choice (log entry 2). After a touch of
the same cycle the pick is made from the next cycle (`touchCarrel`), and no touch follows a pick in its cycle (`goneNow`),
so that a touch of the cycle comes first (R237). -/
def execFillPick (s : State) : Host.Outcome State Fault Refusal :=
  match s.subject with
  | .core pcid =>
    let c := getCore s pcid
    match c.fill, availableCarrels s c, pickQueue s c with
    | none, k0 :: ks, some q =>
      if s.clk < c.pickFrom then .refused .notEnabled else
      let n := (k0 :: ks).length
      let k := ((k0 :: ks)[Config.pick s.choices % n]?).getD k0
      let s := if n = 1 then s else { s with choices := s.choices + 1 }
      let out := (c.carrels[k]?).bind (fun x => if x.state == .resident then some (x.jid, x.block) else none)
      let s := evict s pcid k
      let x := { Carrel.none with state := .filling, jid := q.jid, block := q.block, spl := splOf s pcid q.jid q.block }
      let s := updCore s pcid (fun c =>
        { c with carrels := c.carrels.set k x
                 fill := some { jid := q.jid, block := q.block, carrel := k, lines := [], failed := none
                                ready := false, due := s.clk, picked := s.clk, evicted := out } })
      .next (fillTranslate s pcid q.jid q.block)
    | _, _, _ => .refused .notEnabled
  | _ => .refused .notEnabled

/-- The least cycle in which a line of a fill has been read: an idle load after its pick (R238, R243, R407). -/
def lineTime (s : State) (x : Fill) (pa : Nat) : Nat := x.due - blockTime s pa + 2 * (distPa s.mgmt.pkgnum pa).half

/-- A line of a core's fill lands, or fails (R225, R238, R241); none when there is no such line. -/
def landFillLine (s : State) (pcid line : Nat) : Option State :=
  let c := getCore s pcid
  c.fill.bind (fun x => (c.carrels[x.carrel]?).bind (fun k =>
    let pa := k.pa + 128 * line
    let a := pcid * 2 ^ 20 + carrelOff x.carrel + 128 * line
    if !x.lines.contains line || x.failed.isSome || decide (s.clk < lineTime s x k.pa) || arrivedAt s a 128 then none
    else if poisoned s pa || poisoned s (pa + 64) then
      let va := x.block * blockSize + 128 * line + (if poisoned s pa then 0 else 64)
      some (failFill s pcid va)
    else
      let s := lsWhole { s with ls := writeNat s.ls a 128 (readNat s.hbm pa 128) } a 128
      let s := updFill s pcid (fun x => { x with lines := x.lines.filter (fun l => l != line) })
      some (lineSet (lsWritten s a 128) (a / 128))))

/-- LINE_ARRIVAL (R238, R269): line `k` of the block that a core fills, or a local-store line of a copy. -/
def execLineArrival (s : State) : Host.Outcome State Fault Refusal :=
  match s.subject with
  | .line pcid k =>
    match landFillLine s pcid k with
    | some t => .next t
    | none => .refused .notEnabled
  | .element id line =>
    match s.copies.find? (fun c => c.id == id), landCopyLine s id line with
    | some c, some t => if copyNowhere c then .fault (.noSuchMemory c.pa) else .next t
    | _, _ => .refused .notEnabled
  | _ => .refused .notEnabled

/-- A frond or a request that waits in a block's queue is released when the block has landed (R239). -/
def releaseWaiter (k : Nat) (s : State) (w : Waiter) : State :=
  match w.proxy with
  | some _ => s
  | none => releaseFrond (updFrond s w.uid (fun f =>
      { f with claims := if f.claims.contains k then f.claims else f.claims ++ [k], lastWalk := some k })) w.uid

/-- A waiter of a fill that has failed takes DATAFAULT at its word (R241). -/
def failWaiter (va : Nat) (s : State) (w : Waiter) : State :=
  let c : Cause := { code := causeDATAFAULT, info := va }
  match w.proxy with
  | none => releaseWithCause s w.uid c
  | some id =>
    let drop := fun (q : HoldQ) => { q with waiters := q.waiters.filter (fun x => x.proxy != some id) }
    let s := delFlight { s with cores := s.cores.map (fun c => { c with holds := c.holds.map drop }) } id
    trimAll (releaseWithCause s w.uid c)

/-- A block's queue is taken out of its core's hold table. -/
def takeQueue (s : State) (pcid jid block : Nat) : List Waiter × State :=
  let c := getCore s pcid
  let mine := fun (q : HoldQ) => q.jid == jid && q.block == block
  ((c.holds.filter mine).flatMap (fun q => q.waiters),
    setCore s { c with holds := c.holds.filter (fun q => !mine q), fill := none, pickFrom := s.clk + 1 })

/-- The fronds that have joined the ready list of a core by migration in this cycle join it again, after those that a
landing has released; one that came to the block that has landed, in carrel `k`, is admitted to it (R237). -/
def rejoin (s : State) (pcid jid block k : Nat) : State :=
  let late := s.fronds.filter (fun f => f.pcid == pcid && f.loc == .ready && f.since == s.clk)
  (sortBy (fun a b => decide (a.seq ≤ b.seq)) late).foldl (fun s f =>
    updFrond { s with fresh := s.fresh + 1 } f.uid (fun f =>
      if f.jid = jid ∧ f.reached = some block then { f with seq := s.fresh, claims := [k], lastWalk := some k }
      else { f with seq := s.fresh })) s

/-- FILL_LANDING (R239). -/
def execFillLanding (s : State) : Host.Outcome State Fault Refusal :=
  match s.subject with
  | .core pcid =>
    match (getCore s pcid).fill with
    | none => .refused .notEnabled
    | some x =>
      if x.ready && x.lines.isEmpty && x.failed.isNone && decide (x.due ≤ s.clk) then
        let s := updCore s pcid (fun c =>
          { c with carrels := c.carrels.modify x.carrel (fun k => { k with state := .resident }) })
        let q := takeQueue s pcid x.jid x.block
        let s := rejoin (q.1.foldl (releaseWaiter x.carrel) q.2) pcid x.jid x.block x.carrel
        .next (refreshSpent (retryHolds s pcid) pcid)
      else .refused .notEnabled
  | _ => .refused .notEnabled

/-- The arrival bits of lines of a carrel are set (R225, R241). -/
def linesSet (s : State) (pcid k : Nat) (lines : List Nat) : State :=
  lines.foldl (fun s l => lineSet s ((pcid * 2 ^ 20 + carrelOff k) / 128 + l)) s

/-- FILL_FAILURE (R241): the carrel is freed, and what has landed and been stored in it is discarded (log entry 80). -/
def execFillFailure (s : State) : Host.Outcome State Fault Refusal :=
  match s.subject with
  | .core pcid =>
    match (getCore s pcid).fill with
    | none => .refused .notEnabled
    | some x =>
      match x.failed with
      | none => .refused .notEnabled
      | some va =>
        let q := takeQueue (setCarrel s pcid x.carrel Carrel.none) pcid x.jid x.block
        let s := linesSet (q.1.foldl (failWaiter va) q.2) pcid x.carrel x.lines
        .next (refreshSpent (retryHolds (trimHolds s pcid) pcid) pcid)
  | _ => .refused .notEnabled

/-! ## Page walks -/

/-- An entry put into a die's translation store (R221). The store keeps 8,192 entries, at most 4,096 of them of
1 GiB; the oldest gives way. -/
def addTrans (s : State) (t : Trans) : State :=
  let old := s.tstore.filter (fun x => !(x.die == t.die && x.jid == t.jid && x.va == t.va && x.size == t.size))
  let big := fun (x : Trans) => x.die == t.die && x.size == 2 ^ 30
  let old := if t.size = 2 ^ 30 ∧ 4096 ≤ (old.filter big).length then delFirst big old else old
  let old := if 8192 ≤ (old.filter (fun x => x.die == t.die)).length then delFirst (fun x => x.die == t.die) old else old
  { s with tstore := old ++ [t] }

/-- The entry that a leaf makes (R220, R221). -/
def transOf (die jid va : Nat) (l : Leaf) : Trans :=
  { die := die, jid := jid, va := va / l.size * l.size, size := l.size, pa := l.pa, host := l.host, wr := l.wr
    walk := l.walk, tier := l.tier, fcode := l.fcode, spl := l.spl, cnt := l.cnt }

/-- The VA at which a parked frond missed. -/
def missedVa (f : Frond) : Nat :=
  match f.wait with
  | .park _ _ info => info
  | _ => 0

/-- The fronds parked on the page of a walk, of `size` bytes, in parking order (R222). -/
def pageWaiters (s : State) (w : Walk) (size : Nat) : List Frond :=
  parkedFor s 1 (fun f _ => f.jid == w.jid && dieOf f.pcid == w.die && missedVa f / size == w.va / size)

/-- The fronds of a job on a die that are parked on pages of which none is being walked, since a walk served them by the
page size at their miss and has ended with another, are served by walks of their own (R222). Such a walk asks for no
write; a frond whose word writes misses again where the leaf does not allow it (R219). -/
def walkRest (s : State) (w : Walk) : State :=
  (parkedFor s 1 (fun f _ => f.jid == w.jid && dieOf f.pcid == w.die)).foldl
    (fun s f => startWalk s w.die w.jid (missedVa f) false none) s

/-- A walk's own words: for a fill it gives the translation, for fronds it releases them. -/
def walkOk (s : State) (w : Walk) (t : Trans) : State :=
  match w.fill with
  | some pcid => fillReady s pcid t
  | none => walkRest ((pageWaiters s w t.size).foldl (fun s f => releaseFrond s f.uid) s) w

/-- The relay of a translation fault to the host (R223, R444). -/
def relayFault (s : State) (w : Walk) (kind : Nat) : State :=
  pendFirmware (postEvent s 2 (w.jid + 2 ^ 32 * w.va) kind) w.die 2

/-- PAGE_WALK_DONE (R222, R223). -/
def execPageWalkDone (s : State) : Host.Outcome State Fault Refusal :=
  match s.subject with
  | .object id =>
    match s.walks.find? (fun w => w.id == id) with
    | none => .refused .notEnabled
    | some w =>
      match findJob s w.jid with
      | none => .next { s with walks := s.walks.filter (fun x => x.id != id) }
      | some j =>
        if w.fault.isSome ∨ s.clk < w.due then .refused .notEnabled
        else
          match translatePasid s j.space w.va w.write with
          | .ok l =>
            let t := transOf w.die w.jid w.va l
            let s := addTrans { s with walks := s.walks.filter (fun x => x.id != id) } t
            .next (walkOk s w t)
          | .error kind =>
            let s := { s with walks := updFirst (fun x => x.id == id) (fun x => { x with fault := some kind }) s.walks }
            .next (relayFault s w kind)
  | _ => .refused .notEnabled

/-- The host answers RETRY: the walk is made once more (R223). -/
def retryWalk (s : State) (w : Walk) : State :=
  { s with walks := updFirst (fun x => x.id == w.id) (fun x => { x with fault := none, due := s.clk + 1 }) s.walks }

/-- The host answers ABORT: XLATE for every parked frond in parking order, or the failure of the fill (R223,
R241). -/
def abortWalk (s : State) (w : Walk) : State :=
  let s' := { s with walks := s.walks.filter (fun x => x.id != w.id) }
  match w.fill with
  | some pcid => failFill s' pcid (w.va / blockSize * blockSize)
  | none => walkRest ((pageWaiters s w (jobPageSize s w.jid w.va)).foldl (fun s f =>
      releaseWithCause s f.uid { code := causeXLATE, info := missedVa f }) s') w

/-! ## Migration -/

/-- MIGRATE (R231): the frond's context leaves for the home of the block that its word touches; not while its bank is
Frozen or its job is being suspended (R131, R317, R383). -/
def execMigrate (s : State) : Host.Outcome State Fault Refusal :=
  match s.subject with
  | .frond uid =>
    match findFrond s uid with
    | none => .refused .notEnabled
    | some f =>
      match f.wait with
      | .migrate block =>
        match (findJob s f.jid).bind (fun j => homeCore j block) with
        | none => .refused .notEnabled
        | some home =>
          let used := (getCore s f.pcid).fwd.length
          if isFrozen s f || !mayRun s f || hasStores s uid || decide (32 ≤ used) || decide (32 < used + f.outs.length) then .refused .notEnabled
          else
            let t := s.clk + if dieOf home = dieOf f.pcid then 200 else 400
            let s := updCore s f.pcid (fun c => { c with fwd := c.fwd ++ f.outs.map (fun o => o.id) })
            let s := updFrond s uid (fun f =>
              { f with loc := .transit t (some block), pcid := home, claims := [], lastWalk := none })
            .next (refreshSpent s f.pcid)
      | _ => .refused .notEnabled
  | _ => .refused .notEnabled

/-- A frond of a core joins its ready list. -/
def toReady (s : State) (uid : Nat) : State :=
  let n := s.fresh
  updFrond { s with fresh := n + 1 } uid (fun f =>
    { f with loc := .ready, wait := .run, seq := n, since := s.clk, reached := none, notBefore := s.clk + 1 })

/-- MIGRATION_ARRIVAL (R232, R377). -/
def execMigrationArrival (s : State) : Host.Outcome State Fault Refusal :=
  match s.subject with
  | .frond uid =>
    match findFrond s uid with
    | none => .refused .notEnabled
    | some f =>
      match f.loc with
      | .transit t none => if s.clk < t then .refused .notEnabled else .next (toReady s uid)
      | .transit t (some block) =>
        if s.clk < t || goneNow s f.jid block then .refused .notEnabled
        else
          match findCarrel (getCore s f.pcid) .resident f.jid block with
          | some k =>
            let s := toReady (updFrond s uid (fun f => { f with claims := [k], lastWalk := some k })) uid
            .next (touchCarrel s f.pcid k)
          | none =>
            if decide (holdsUsed s f.pcid < (getCore s f.pcid).holdLen / 256) && !noHoldEntry s f block then
              let f' := { f with loc := .hold, wait := .park 0 block 0, since := s.clk, seq := s.fresh
                                 record := freeRecord s f.pcid }
              let s := updFrond { s with fresh := s.fresh + 1 } uid (fun _ => f')
              .next (layRecord (placeHold s f' block) f')
            else .next (updFrond (toReady s uid) uid (fun f => { f with reached := some block }))
      | _ => .refused .notEnabled
  | _ => .refused .notEnabled

/-! ## Requests at a home port -/

/-- The absent block that a blocked request has reached, and for which it has no proxy hold and waits for no hold-table
entry (R230, R234). -/
def needsProxy (s : State) (g : Flight) (urgent : Bool) : Option (Nat × Nat) :=
  if urgent || g.blocks.isNone || g.path != pathCORE && g.op != .join then none
  else
    (walkBlocks (g.elems.filter (fun e => !e.performed && decide (elemDue s g e ≤ s.clk)))).findSome? (fun b =>
      match (findJob s g.jid).bind (fun j => if j.inImage then none else homeCore j b) with
      | none => none
      | some home =>
        let c := getCore s home
        if (findCarrel c .resident g.jid b).isSome || hasPlace c g.jid b g.id || goneNow s g.jid b
          || c.turned.any (fun x => x.1 == g.id && x.2.1 == b) then none
        else some (home, b))

/-- A blocked request takes its place in the queue of a block that is absent at its home, or in the order of those for
which the hold table has no entry (R230, R234). -/
def portArrival (s : State) (id : Nat) : Option State :=
  (findFlight s id).bind (fun g =>
    let urgent := ((findFrond s g.uid).map (fun f => f.urgent)).getD false
    (needsProxy s g urgent).map (fun x => placeProxy s x.1 g x.2))

end Sys2Proof.Machine
end

