-- ==== Sys2Proof/WellFormed.lean ====
section
/-! DEFINITION. Which instructions are well formed: the reserved values of R137, R144, R149, R192, R200, R204,
R246, R258, R267, R296, R344 and R388, and the pairing rules of R107 to R109. Events are no words and carry
no condition. -/

namespace Sys2Proof

/-- A reserved scalar kind code of R193. -/
def badKind (k : Nat) : Bool := decide (11 ≤ k ∧ k ≤ 16)

/-- A kind code that R193 reserves in `vfcvt`. -/
def badVKind (k : Nat) : Bool := k == 3 || k == 7 || decide (11 ≤ k)

/-- Reserved MTY and RAW values of R246. -/
def badMty (mty raw : Nat) : Bool := decide (9 ≤ mty) || (raw == 1 && mty != 8)

/-- A control word index that R394 does not list. -/
def badControl (k : Nat) : Bool :=
  !(decide (k ≤ 3) || decide (0x10 ≤ k ∧ k ≤ 0x25) || k == 0x30 || k == 0x40 || k == 0x41)

/-- A window index that R395 does not list. -/
def badWindow (k : Nat) : Bool :=
  !(decide (k ≤ 0x8A) || decide (0x90 ≤ k ∧ k ≤ 0x9A) || decide (0xA0 ≤ k ∧ k ≤ 0xBF))

/-- A SOP value that R107 allows. -/
def sopOk (sop : Nat) : Bool := decide (sop ≤ 26) || sop == 30 || sop == 34

/-- A scalar operation with one source (R107). -/
def sopOne (sop : Nat) : Bool := decide (22 ≤ sop ∧ sop ≤ 26) || sop == 30

/-- A VOP value that R108 allows. -/
def vopOk (vop : Nat) : Bool :=
  decide (vop ≤ 0x0B) || vop == 0x11 || vop == 0x15 || decide (0x40 ≤ vop ∧ vop ≤ 0x45)
    || decide (0x4B ≤ vop ∧ vop ≤ 0x4D)

/-- How many vector sources an allowed VOP uses (R108). -/
def vopSources (vop : Nat) : Nat :=
  if vop = 0x03 ∨ vop = 0x43 then 3
  else if vop = 0x15 ∨ vop = 0x4C ∨ vop = 0x4D then 1
  else 2

/-- The greatest TY that an allowed VOP takes (R212). -/
def vopTy (vop : Nat) : Nat := if vop = 0x0A ∨ vop = 0x0B ∨ vop = 0x44 ∨ vop = 0x45 then 1 else 0

/-- The reason of R114 (0x09, 0x0A, 0x0B or 0x0D) for which a pair of halves is no instruction, 0 for none;
`zeros` holds when bits 48:41 and 7:0 are zero (0x0C). -/
def pairReason (s : SHalf) (v : VHalf) (zeros : Bool) : Nat :=
  let vop := v.vop.toNat
  if !sopOk s.sop.toNat || (sopOne s.sop.toNat && s.sb != 0) then 0x09
  else if !vopOk vop || decide (vopTy vop < v.ty.toNat) || (decide (vop < 0x40) && v.rm != 0)
      || (decide (vopSources vop < 2) && v.vb != 0) || (decide (vopSources vop < 3) && v.vc != 0) then 0x0A
  else if decide (16 ≤ v.vd.toNat) || decide (16 ≤ v.va.toNat) || decide (16 ≤ v.vb.toNat)
      || decide (16 ≤ v.vc.toNat) then 0x0B
  else if !zeros then 0x0C
  else if decide (s.sd.toNat < 128 ∧ s.sd.toNat / 8 = v.vd.toNat) then 0x0D
  else 0

/-- A pair of halves is an instruction (R107 to R109). -/
def pairOk (s : SHalf) (v : VHalf) : Bool := pairReason s v true == 0

/-- The word of an instruction is one that R114 does not refuse. -/
def wellFormed : Instr → Bool
  | .powerGood => true
  | .securityAlarm => true
  | .refreshTakeover => true
  | .narelFlitReplay => true
  | .narelPortDown => true
  | .powerPacing => true
  | .notifyDmwr => true
  | .notifyPostedWrite => true
  | .pasidRevocation => true
  | .registerWrite => true
  | .intake => true
  | .start => true
  | .layout => true
  | .format => true
  | .cancel => true
  | .placement => true
  | .urgentPlacement => true
  | .frondStart => true
  | .readyListPlace => true
  | .stealRead => true
  | .stealCas => true
  | .stealPassRetry => true
  | .balancerInterval => true
  | .balancerMove => true
  | .coreRebind => true
  | .dequeTransfer => true
  | .streamSourcePush => true
  | .streamSinkWrite => true
  | .icacheFill => true
  | .pageWalkDone => true
  | .resultLanding => true
  | .storePerformed => true
  | .storeAck => true
  | .crossDieStoreApply => true
  | .migrate => true
  | .migrationArrival => true
  | .fillPick => true
  | .lineArrival => true
  | .fillLanding => true
  | .fillFailure => true
  | .copyComplete => true
  | .cpyqPush => true
  | .matrixWordComplete => true
  | .channelFlitDelivery => true
  | .syncResend => true
  | .felimitTimeout => true
  | .sleepEnd => true
  | .swapRequest => true
  | .urgentQuantumEnd => true
  | .swapBack => true
  | .gangSuspend => true
  | .gangResume => true
  | .hang => true
  | .supervisorMessage => true
  | .frondhalt => true
  | .handlerEntry => true
  | .faultDomainEnd => true
  | .featureMigrate => true
  | .jobRetirement => true
  | .sysAnswer => true
  | .idleWake => true
  | .hostCxlMemAccess => true
  | .status => true
  | .loadfw => true
  | .attest => true
  | .setpkg => true
  | .inval => true
  | .xlans => true
  | .poison => true
  | .setthr => true
  | .clrcnt => true
  | .mailboxDone => true
  | .reductionMergeDone => true
  | .matrixCheckPoint => true
  | .add _ _ _ _ _ => true
  | .sub _ _ _ _ _ => true
  | .mul _ _ _ _ _ => true
  | .mulh _ _ _ _ _ => true
  | .mulhn _ _ _ _ _ => true
  | .div _ _ _ _ _ => true
  | .divn _ _ _ _ _ => true
  | .rem _ _ _ _ _ => true
  | .remn _ _ _ _ _ => true
  | .and _ _ _ _ _ => true
  | .or _ _ _ _ _ => true
  | .xor _ _ _ _ _ => true
  | .andn _ _ _ _ _ => true
  | .orn _ _ _ _ _ => true
  | .shl _ _ _ _ _ => true
  | .shr _ _ _ _ _ => true
  | .sar _ _ _ _ _ => true
  | .rol _ _ _ _ _ => true
  | .min _ _ _ _ _ => true
  | .max _ _ _ _ _ => true
  | .minn _ _ _ _ _ => true
  | .maxn _ _ _ _ _ => true
  | .clz _ _ _ _ => true
  | .ctz _ _ _ _ => true
  | .popc _ _ _ _ => true
  | .brev _ _ _ _ => true
  | .bswap _ _ _ _ => true
  | .bfx _ _ _ _ pos len1 => !(decide (64 < pos.toNat + len1.toNat + 1))
  | .bfi _ _ _ pos len1 => !(decide (64 < pos.toNat + len1.toNat + 1))
  | .sel _ _ _ _ _ _ => true
  | .mov _ _ _ _ => true
  | .sext _ wid _ _ => !(wid.toNat == 3)
  | .zext _ wid _ _ => !(wid.toNat == 3)
  | .lea _ _ _ _ sh _ => !(sh.toNat == 7)
  | .mad _ _ _ _ _ => true
  | .li _ _ _ => true
  | .lpc _ _ _ => true
  | .cmp _ _ _ _ _ cond comb => !(decide (6 ≤ cond.toNat) || comb.toNat == 3)
  | .tst _ _ _ _ _ comb => !(comb.toNat == 3)
  | .pand _ _ _ _ _ _ => true
  | .por _ _ _ _ _ _ => true
  | .pxor _ _ _ _ _ _ => true
  | .pnot _ _ _ => true
  | .pset _ _ => true
  | .pget _ _ => true
  | .br _ _ => true
  | .jmp _ _ => true
  | .call _ _ _ => true
  | .callr _ _ _ => true
  | .loop _ _ maxt blen => !(maxt.toNat == 0 || blen.toNat == 0)
  | .loopw _ maxt blen => !(maxt.toNat == 0 || blen.toNat == 0)
  | .lexit _ => true
  | .fork _ _ _ _ _ => true
  | .join _ _ _ => true
  | .exit _ => true
  | .nop _ => true
  | .bch _ _ _ _ => true
  | .sleep _ _ => true
  | .fadd _ rnd _ _ _ => !(decide (5 ≤ rnd.toNat))
  | .fsub _ rnd _ _ _ => !(decide (5 ≤ rnd.toNat))
  | .fmul _ rnd _ _ _ => !(decide (5 ≤ rnd.toNat))
  | .ffma _ rnd _ _ _ _ => !(decide (5 ≤ rnd.toNat))
  | .fmin _ _ _ _ _ => true
  | .fmax _ _ _ _ _ => true
  | .fdiv _ rnd _ _ _ => !(decide (5 ≤ rnd.toNat))
  | .fsqrt _ rnd _ _ => !(decide (5 ≤ rnd.toNat))
  | .frcp _ rnd _ _ => !(decide (5 ≤ rnd.toNat))
  | .fcmp _ _ _ _ cond comb => !(decide (8 ≤ cond.toNat) || comb.toNat == 3)
  | .fcvt _ rnd _ _ src dst cnt acc => !(decide (5 ≤ rnd.toNat) || badKind (src.toNat) || badKind (dst.toNat) || (cnt.toNat == 0 && acc.toNat != 0))
  | .fclass _ _ _ => true
  | .vadd _ _ _ _ => true
  | .vsub _ _ _ _ => true
  | .vmul _ _ _ _ => true
  | .vmad _ _ _ _ _ => true
  | .vand _ _ _ _ => true
  | .vor _ _ _ _ => true
  | .vxor _ _ _ _ => true
  | .vshl _ _ _ _ => true
  | .vshr _ _ _ _ => true
  | .vsar _ _ _ _ => true
  | .vmin _ _ _ _ _ => true
  | .vmax _ _ _ _ _ => true
  | .vcmp _ _ cond _ _ _ => !(decide (6 ≤ cond.toNat))
  | .vsel _ _ _ _ _ => true
  | .vbcast _ _ _ => true
  | .vext _ _ _ _ _ => true
  | .vins _ _ _ _ => true
  | .vperm _ _ _ _ => true
  | .vredadd _ _ _ _ => true
  | .vredmin _ _ _ _ => true
  | .vredmax _ _ _ _ => true
  | .vscan _ _ _ _ => true
  | .viota _ _ _ _ => true
  | .vfadd _ rnd _ _ _ => !(decide (5 ≤ rnd.toNat))
  | .vfsub _ rnd _ _ _ => !(decide (5 ≤ rnd.toNat))
  | .vfmul _ rnd _ _ _ => !(decide (5 ≤ rnd.toNat))
  | .vffma _ rnd _ _ _ _ => !(decide (5 ≤ rnd.toNat))
  | .vfmin _ _ rnd _ _ _ => !(decide (5 ≤ rnd.toNat))
  | .vfmax _ _ rnd _ _ _ => !(decide (5 ≤ rnd.toNat))
  | .vfcmp _ cond _ _ _ => !(decide (8 ≤ cond.toNat))
  | .vfred _ op rnd _ _ => !(decide (5 ≤ rnd.toNat) || decide (3 ≤ op.toNat))
  | .vfcvt _ rnd _ _ src dst => !(decide (5 ≤ rnd.toNat) || badVKind (src.toNat) || badVKind (dst.toNat))
  | .vfpack _ rnd _ _ b fcode _ sc cnt acc => !(decide (5 ≤ rnd.toNat) || fcode.toNat == 0 || (cnt.toNat == 0 && acc.toNat != 0) || (!sc && b != 0))
  | .vfunpk _ rnd _ _ b fcode _ sc => !(decide (5 ≤ rnd.toNat) || fcode.toNat == 0 || (!sc && b != 0))
  | .vfscale _ rnd _ _ _ => !(decide (5 ≤ rnd.toNat))
  | .vfex2 _ rnd _ _ => !(decide (5 ≤ rnd.toNat))
  | .vfrsq _ rnd _ _ => !(decide (5 ≤ rnd.toNat))
  | .addPform _ sd sa sb v => pairOk { sop := 0, sd := sd, sa := sa, sb := sb } v
  | .subPform _ sd sa sb v => pairOk { sop := 1, sd := sd, sa := sa, sb := sb } v
  | .mulPform _ sd sa sb v => pairOk { sop := 2, sd := sd, sa := sa, sb := sb } v
  | .mulhPform _ sd sa sb v => pairOk { sop := 3, sd := sd, sa := sa, sb := sb } v
  | .mulhnPform _ sd sa sb v => pairOk { sop := 4, sd := sd, sa := sa, sb := sb } v
  | .divPform _ sd sa sb v => pairOk { sop := 5, sd := sd, sa := sa, sb := sb } v
  | .divnPform _ sd sa sb v => pairOk { sop := 6, sd := sd, sa := sa, sb := sb } v
  | .remPform _ sd sa sb v => pairOk { sop := 7, sd := sd, sa := sa, sb := sb } v
  | .remnPform _ sd sa sb v => pairOk { sop := 8, sd := sd, sa := sa, sb := sb } v
  | .andPform _ sd sa sb v => pairOk { sop := 9, sd := sd, sa := sa, sb := sb } v
  | .orPform _ sd sa sb v => pairOk { sop := 10, sd := sd, sa := sa, sb := sb } v
  | .xorPform _ sd sa sb v => pairOk { sop := 11, sd := sd, sa := sa, sb := sb } v
  | .andnPform _ sd sa sb v => pairOk { sop := 12, sd := sd, sa := sa, sb := sb } v
  | .ornPform _ sd sa sb v => pairOk { sop := 13, sd := sd, sa := sa, sb := sb } v
  | .shlPform _ sd sa sb v => pairOk { sop := 14, sd := sd, sa := sa, sb := sb } v
  | .shrPform _ sd sa sb v => pairOk { sop := 15, sd := sd, sa := sa, sb := sb } v
  | .sarPform _ sd sa sb v => pairOk { sop := 16, sd := sd, sa := sa, sb := sb } v
  | .rolPform _ sd sa sb v => pairOk { sop := 17, sd := sd, sa := sa, sb := sb } v
  | .minPform _ sd sa sb v => pairOk { sop := 18, sd := sd, sa := sa, sb := sb } v
  | .maxPform _ sd sa sb v => pairOk { sop := 19, sd := sd, sa := sa, sb := sb } v
  | .minnPform _ sd sa sb v => pairOk { sop := 20, sd := sd, sa := sa, sb := sb } v
  | .maxnPform _ sd sa sb v => pairOk { sop := 21, sd := sd, sa := sa, sb := sb } v
  | .clzPform _ sd sa sb v => pairOk { sop := 22, sd := sd, sa := sa, sb := sb } v
  | .ctzPform _ sd sa sb v => pairOk { sop := 23, sd := sd, sa := sa, sb := sb } v
  | .popcPform _ sd sa sb v => pairOk { sop := 24, sd := sd, sa := sa, sb := sb } v
  | .brevPform _ sd sa sb v => pairOk { sop := 25, sd := sd, sa := sa, sb := sb } v
  | .bswapPform _ sd sa sb v => pairOk { sop := 26, sd := sd, sa := sa, sb := sb } v
  | .movPform _ sd sa sb v => pairOk { sop := 30, sd := sd, sa := sa, sb := sb } v
  | .madPform _ sd sa sb v => pairOk { sop := 34, sd := sd, sa := sa, sb := sb } v
  | .vaddPform _ vd va vb vc ty rm x => pairOk x { vop := 0, vd := vd, va := va, vb := vb, vc := vc, ty := ty, rm := rm }
  | .vsubPform _ vd va vb vc ty rm x => pairOk x { vop := 1, vd := vd, va := va, vb := vb, vc := vc, ty := ty, rm := rm }
  | .vmulPform _ vd va vb vc ty rm x => pairOk x { vop := 2, vd := vd, va := va, vb := vb, vc := vc, ty := ty, rm := rm }
  | .vmadPform _ vd va vb vc ty rm x => pairOk x { vop := 3, vd := vd, va := va, vb := vb, vc := vc, ty := ty, rm := rm }
  | .vandPform _ vd va vb vc ty rm x => pairOk x { vop := 4, vd := vd, va := va, vb := vb, vc := vc, ty := ty, rm := rm }
  | .vorPform _ vd va vb vc ty rm x => pairOk x { vop := 5, vd := vd, va := va, vb := vb, vc := vc, ty := ty, rm := rm }
  | .vxorPform _ vd va vb vc ty rm x => pairOk x { vop := 6, vd := vd, va := va, vb := vb, vc := vc, ty := ty, rm := rm }
  | .vshlPform _ vd va vb vc ty rm x => pairOk x { vop := 7, vd := vd, va := va, vb := vb, vc := vc, ty := ty, rm := rm }
  | .vshrPform _ vd va vb vc ty rm x => pairOk x { vop := 8, vd := vd, va := va, vb := vb, vc := vc, ty := ty, rm := rm }
  | .vsarPform _ vd va vb vc ty rm x => pairOk x { vop := 9, vd := vd, va := va, vb := vb, vc := vc, ty := ty, rm := rm }
  | .vminPform _ vd va vb vc ty rm x => pairOk x { vop := 10, vd := vd, va := va, vb := vb, vc := vc, ty := ty, rm := rm }
  | .vmaxPform _ vd va vb vc ty rm x => pairOk x { vop := 11, vd := vd, va := va, vb := vb, vc := vc, ty := ty, rm := rm }
  | .vpermPform _ vd va vb vc ty rm x => pairOk x { vop := 17, vd := vd, va := va, vb := vb, vc := vc, ty := ty, rm := rm }
  | .vscanPform _ vd va vb vc ty rm x => pairOk x { vop := 21, vd := vd, va := va, vb := vb, vc := vc, ty := ty, rm := rm }
  | .vfaddPform _ vd va vb vc ty rm x => pairOk x { vop := 64, vd := vd, va := va, vb := vb, vc := vc, ty := ty, rm := rm }
  | .vfsubPform _ vd va vb vc ty rm x => pairOk x { vop := 65, vd := vd, va := va, vb := vb, vc := vc, ty := ty, rm := rm }
  | .vfmulPform _ vd va vb vc ty rm x => pairOk x { vop := 66, vd := vd, va := va, vb := vb, vc := vc, ty := ty, rm := rm }
  | .vffmaPform _ vd va vb vc ty rm x => pairOk x { vop := 67, vd := vd, va := va, vb := vb, vc := vc, ty := ty, rm := rm }
  | .vfminPform _ vd va vb vc ty rm x => pairOk x { vop := 68, vd := vd, va := va, vb := vb, vc := vc, ty := ty, rm := rm }
  | .vfmaxPform _ vd va vb vc ty rm x => pairOk x { vop := 69, vd := vd, va := va, vb := vb, vc := vc, ty := ty, rm := rm }
  | .vfscalePform _ vd va vb vc ty rm x => pairOk x { vop := 75, vd := vd, va := va, vb := vb, vc := vc, ty := ty, rm := rm }
  | .vfex2Pform _ vd va vb vc ty rm x => pairOk x { vop := 76, vd := vd, va := va, vb := vb, vc := vc, ty := ty, rm := rm }
  | .vfrsqPform _ vd va vb vc ty rm x => pairOk x { vop := 77, vd := vd, va := va, vb := vb, vc := vc, ty := ty, rm := rm }
  | .ld _ f _ _ _ => !(badMty (f.mty.toNat) (f.raw.toNat) || f.ord.toNat == 7)
  | .st _ f _ _ _ => !(badMty (f.mty.toNat) (f.raw.toNat) || f.ord.toNat == 7)
  | .vld _ f _ _ _ => !(badMty (f.mty.toNat) (f.raw.toNat) || f.ord.toNat == 7 || f.mty.toNat == 3 || f.mty.toNat == 7)
  | .vst _ f _ _ _ => !(badMty (f.mty.toNat) (f.raw.toNat) || f.ord.toNat == 7 || f.mty.toNat == 3 || f.mty.toNat == 7)
  | .vlds _ f _ _ _ _ => !(badMty (f.mty.toNat) (f.raw.toNat) || f.ord.toNat == 7 || f.mty.toNat == 3 || f.mty.toNat == 7)
  | .vsts _ f _ _ _ _ => !(badMty (f.mty.toNat) (f.raw.toNat) || f.ord.toNat == 7 || f.mty.toNat == 3 || f.mty.toNat == 7)
  | .hold _ _ _ => true
  | .pin _ _ _ _ => true
  | .unpin _ _ _ _ => true
  | .lsfmt _ _ _ n1 => !(decide (24 ≤ n1.toNat))
  | .ldf _ scope _ _ _ _ => !(decide (6 ≤ scope.toNat))
  | .lde _ scope _ _ _ _ => !(decide (6 ≤ scope.toNat))
  | .stf _ scope _ _ _ _ => !(decide (6 ≤ scope.toNat))
  | .sto _ scope _ _ _ _ => !(decide (6 ≤ scope.toNat))
  | .clrf _ _ _ _ => true
  | .aadd _ f _ _ _ _ => !(decide (6 ≤ f.scope.toNat) || (f.ord.toNat == 0 && f.scope.toNat != 0))
  | .acas _ f _ _ _ _ => !(decide (6 ≤ f.scope.toNat) || (f.ord.toNat == 0 && f.scope.toNat != 0))
  | .axchg _ f _ _ _ _ => !(decide (6 ≤ f.scope.toNat) || (f.ord.toNat == 0 && f.scope.toNat != 0))
  | .amin _ f _ _ _ _ => !(decide (6 ≤ f.scope.toNat) || (f.ord.toNat == 0 && f.scope.toNat != 0))
  | .amax _ f _ _ _ _ => !(decide (6 ≤ f.scope.toNat) || (f.ord.toNat == 0 && f.scope.toNat != 0))
  | .aand _ f _ _ _ _ => !(decide (6 ≤ f.scope.toNat) || (f.ord.toNat == 0 && f.scope.toNat != 0))
  | .aor _ f _ _ _ _ => !(decide (6 ≤ f.scope.toNat) || (f.ord.toNat == 0 && f.scope.toNat != 0))
  | .axor _ f _ _ _ _ => !(decide (6 ≤ f.scope.toNat) || (f.ord.toNat == 0 && f.scope.toNat != 0))
  | .fence _ kind scope => !(decide (6 ≤ scope.toNat) || kind.toNat == 0)
  | .xfence _ scope mask => !(decide (6 ≤ scope.toNat) || mask.toNat == 0)
  | .bexp _ scope _ _ _ _ _ => !(decide (6 ≤ scope.toNat))
  | .barv _ scope _ _ _ _ => !(decide (6 ≤ scope.toNat))
  | .bwait _ scope _ _ _ _ => !(decide (6 ≤ scope.toNat))
  | .wbind _ _ _ _ _ => true
  | .wret _ _ => true
  | .wld _ mty raw _ _ _ => !(badMty (mty.toNat) (raw.toNat))
  | .wst _ mty raw _ _ _ => !(badMty (mty.toNat) (raw.toNat))
  | .wvld _ mty raw _ _ _ _ => !(badMty (mty.toNat) (raw.toNat) || mty.toNat == 3 || mty.toNat == 7)
  | .wvst _ mty raw _ _ _ _ => !(badMty (mty.toNat) (raw.toNat) || mty.toNat == 3 || mty.toNat == 7)
  | .wqry _ _ _ sel => !(sel.toNat == 15)
  | .wadj _ _ _ => true
  | .wfoot _ _ _ _ => true
  | .mzero _ _ tg => !((tg.tge.toNat == 0 && (tg.tm.toNat != 0 || tg.tbit.toNat != 0)))
  | .mma _ _ _ _ ta tb _ _ _ tg => !((tg.tge.toNat == 0 && (tg.tm.toNat != 0 || tg.tbit.toNat != 0)) || ta.toNat == 3 || tb.toNat == 3)
  | .mmas _ _ _ _ ta tb _ _ _ tg => !((tg.tge.toNat == 0 && (tg.tm.toNat != 0 || tg.tbit.toNat != 0)) || ta.toNat == 3 || tb.toNat == 3)
  | .mld _ _ _ _ ty tg => !((tg.tge.toNat == 0 && (tg.tm.toNat != 0 || tg.tbit.toNat != 0)) || ty.toNat == 3)
  | .mst _ _ _ _ rnd ty tg => !((tg.tge.toNat == 0 && (tg.tm.toNat != 0 || tg.tbit.toNat != 0)) || ty.toNat == 3 || decide (5 ≤ rnd.toNat))
  | .msst _ _ _ _ _ rnd ty _ tg => !((tg.tge.toNat == 0 && (tg.tm.toNat != 0 || tg.tbit.toNat != 0)) || ty.toNat == 3 || decide (5 ≤ rnd.toNat))
  | .madd _ _ _ _ tg => !((tg.tge.toNat == 0 && (tg.tm.toNat != 0 || tg.tbit.toNat != 0)))
  | .mstat _ _ _ => true
  | .mclrs _ _ => true
  | .mtm _ _ _ => true
  | .mtmRd _ _ _ => true
  | .mtmgSet _ _ _ _ => true
  | .mtmgClr _ _ _ _ => true
  | .msync _ => true
  | .cpy _ _ _ _ _ _ bc bar => !(decide (bar.toNat % 8 ≠ 0) || (!bc && bar != 0))
  | .cpyq _ _ _ _ => true
  | .gath _ mty raw _ _ _ _ => !(badMty (mty.toNat) (raw.toNat) || mty.toNat == 3 || mty.toNat == 7)
  | .scat _ mty raw _ _ _ _ => !(badMty (mty.toNat) (raw.toNat) || mty.toNat == 3 || mty.toNat == 7)
  | .scadd _ ty _ _ _ _ => !(decide (2 ≤ ty.toNat))
  | .rbar _ ty scope _ _ n => !(decide (2 ≤ ty.toNat) || scope.toNat == 0 || decide (6 ≤ scope.toNat) || n.toNat == 0 || decide (98304 < n.toNat))
  | .ship _ rout _ u _ _ _ _ => !(u.toNat == 1 && rout.toNat != 1 && rout.toNat != 2)
  | .qpush _ _ _ _ _ => true
  | .qpop _ _ _ _ _ => true
  | .qpeek _ _ _ _ _ => true
  | .qclose _ _ => true
  | .qstat _ _ _ => true
  | .chbind _ _ _ => true
  | .chstat _ _ _ => true
  | .semw _ scope _ _ => !(decide (6 ≤ scope.toNat))
  | .sems _ scope _ _ => !(decide (6 ≤ scope.toNat))
  | .bar _ scope _ _ _ _ => !(decide (6 ≤ scope.toNat))
  | .trap _ _ => true
  | .sys _ _ _ _ => true
  | .rfe _ => true
  | .cwget _ _ _ idx => !(badControl (idx.toNat))
  | .cwset _ _ _ idx => !(badControl (idx.toNat))
  | .feat _ _ => true
  | .exrd _ _ _ idx => !(badWindow (idx.toNat))
  | .exwr _ _ _ idx => !(badWindow (idx.toNat))
  | .exres _ _ _ => true
  | .seed _ _ => true
  | .idle _ _ _ => true

end Sys2Proof
end

