-- ==== Sys2Proof/Decode.lean ====
section
/-! DEFINITION. Decoding of a 96-bit word (R96 to R109, R113), with the reason of R114 for a word that is not
an instruction, and the encoder, written from the same tables. -/

namespace Sys2Proof

/-- The fields of an A-form word (R102). -/
structure AWord where
  h : Hints
  opc : BitVec 12
  d : Opnd
  a : Opnd
  b : Opnd
  bi : Bool
  fn : BitVec 9
  imm : BitVec 32
  deriving DecidableEq, Repr

/-- Bits `lo` and up, `n` of them, of FN. -/
def fn (w : AWord) (lo n : Nat) : Nat := Nat.field w.fn.toNat lo n

/-- Bits `lo` and up, `n` of them, of IMM. -/
def im (w : AWord) (lo n : Nat) : Nat := Nat.field w.imm.toNat lo n

/-- Operand B of R102 and R103. -/
def AWord.srcB (w : AWord) : SrcB := if w.bi then .wide w.imm else .fld w.b

/-- The B field of an operand B. -/
def srcFld : SrcB → Opnd
  | .fld o => o
  | .wide _ => 0

/-- BI of an operand B. -/
def srcBi : SrcB → Bool
  | .fld _ => false
  | .wide _ => true

/-- IMM of an operand B. -/
def srcImm : SrcB → BitVec 32
  | .fld _ => 0
  | .wide i => i

/-- The common bits 93:81 of a word (R97), as a number at bit 81. -/
def hintBits (h : Hints) : Nat :=
  h.nm.toNat * 32 + h.lu.toNat * 64 + h.sw.toNat * 128 + h.gq.toNat * 256 + h.gn.toNat * 4096

/-- The hints of a word, from its bits 95:81. -/
def hintsOf (x : Nat) : Hints :=
  { gn := Nat.field x 12 1 == 1, gq := BitVec.ofNat 4 (Nat.field x 8 4), sw := Nat.field x 7 1 == 1
    lu := Nat.field x 6 1 == 1, nm := Nat.field x 5 1 == 1 }

/-- The word of A-form fields (R102). -/
def aWord (h : Hints) (opc : Nat) (d a b : Opnd) (bi : Bool) (fn : BitVec 9) (imm : BitVec 32) : Nat :=
  imm.toNat + 2 ^ 32 * fn.toNat + 2 ^ 41 * bi.toNat + 2 ^ 42 * b.toNat + 2 ^ 51 * a.toNat
    + 2 ^ 60 * d.toNat + 2 ^ 69 * opc + 2 ^ 81 * hintBits h

/-- The A-form fields of a word. -/
def splitA (x : Nat) : AWord :=
  { h := hintsOf (x / 2 ^ 81), opc := BitVec.ofNat 12 (Nat.field x 69 12)
    d := BitVec.ofNat 9 (Nat.field x 60 9), a := BitVec.ofNat 9 (Nat.field x 51 9)
    b := BitVec.ofNat 9 (Nat.field x 42 9), bi := Nat.field x 41 1 == 1
    fn := BitVec.ofNat 9 (Nat.field x 32 9), imm := BitVec.ofNat 32 (Nat.field x 0 32) }

/-- The word of W-form fields (R105). -/
def wWord (h : Hints) (opc : Nat) (d : Opnd) (imm : BitVec 60) : Nat :=
  imm.toNat + 2 ^ 60 * d.toNat + 2 ^ 69 * opc + 2 ^ 81 * hintBits h + 2 ^ 95

/-- The word of P-form fields (R106). -/
def pWord (h : Hints) (s : SHalf) (v : VHalf) : Nat :=
  2 ^ 8 * v.rm.toNat + 2 ^ 10 * v.ty.toNat + 2 ^ 14 * v.vc.toNat + 2 ^ 19 * v.vb.toNat
    + 2 ^ 24 * v.va.toNat + 2 ^ 29 * v.vd.toNat + 2 ^ 34 * v.vop.toNat + 2 ^ 49 * s.sb.toNat
    + 2 ^ 58 * s.sa.toNat + 2 ^ 66 * s.sd.toNat + 2 ^ 74 * s.sop.toNat + 2 ^ 81 * hintBits h + 2 ^ 94

/-- The scalar half of a P-form word. -/
def splitS (x : Nat) : SHalf :=
  { sop := BitVec.ofNat 7 (Nat.field x 74 7), sd := BitVec.ofNat 8 (Nat.field x 66 8)
    sa := BitVec.ofNat 8 (Nat.field x 58 8), sb := BitVec.ofNat 9 (Nat.field x 49 9) }

/-- The vector half of a P-form word. -/
def splitV (x : Nat) : VHalf :=
  { vop := BitVec.ofNat 7 (Nat.field x 34 7), vd := BitVec.ofNat 5 (Nat.field x 29 5)
    va := BitVec.ofNat 5 (Nat.field x 24 5), vb := BitVec.ofNat 5 (Nat.field x 19 5)
    vc := BitVec.ofNat 5 (Nat.field x 14 5), ty := BitVec.ofNat 4 (Nat.field x 10 4)
    rm := BitVec.ofNat 2 (Nat.field x 8 2) }

/-- One row of an A-form table: whether B accepts the wide immediate, whether D, A and B are used, the bits
of FN and IMM that the row names, further unused fields, and whether a value is reserved (R103, R114 reasons
0x06 to 0x08). -/
def row (w : AWord) (wide useD useA useB : Bool) (fnMask immMask : Nat) (unused reserved : Bool) (i : Instr) :
    Except Nat Instr :=
  if w.bi && (!wide || w.b != 0) then .error 0x06
  else if (!useD && w.d != 0) || (!useA && w.a != 0) || (!useB && w.b != 0)
      || w.fn &&& ~~~(BitVec.ofNat 9 fnMask) != 0
      || (!w.bi && w.imm &&& ~~~(BitVec.ofNat 32 immMask) != 0) || unused then .error 0x07
  else if reserved then .error 0x08
  else .ok i

/-- Group 0x0: the word with index `k` (R113). -/
def decodeG0 (w : AWord) (k : Nat) : Except Nat Instr :=
  match k with
  | 0x0 =>
    row w true true true true 0x1 0x0 (false) (false)
      (.add w.h (fn w 0 1 == 1) w.d w.a w.srcB)
  | 0x1 =>
    row w true true true true 0x1 0x0 (false) (false)
      (.sub w.h (fn w 0 1 == 1) w.d w.a w.srcB)
  | 0x2 =>
    row w true true true true 0x1 0x0 (false) (false)
      (.mul w.h (fn w 0 1 == 1) w.d w.a w.srcB)
  | 0x3 =>
    row w true true true true 0x1 0x0 (false) (false)
      (.mulh w.h (fn w 0 1 == 1) w.d w.a w.srcB)
  | 0x4 =>
    row w true true true true 0x1 0x0 (false) (false)
      (.mulhn w.h (fn w 0 1 == 1) w.d w.a w.srcB)
  | 0x5 =>
    row w true true true true 0x1 0x0 (false) (false)
      (.div w.h (fn w 0 1 == 1) w.d w.a w.srcB)
  | 0x6 =>
    row w true true true true 0x1 0x0 (false) (false)
      (.divn w.h (fn w 0 1 == 1) w.d w.a w.srcB)
  | 0x7 =>
    row w true true true true 0x1 0x0 (false) (false)
      (.rem w.h (fn w 0 1 == 1) w.d w.a w.srcB)
  | 0x8 =>
    row w true true true true 0x1 0x0 (false) (false)
      (.remn w.h (fn w 0 1 == 1) w.d w.a w.srcB)
  | 0x9 =>
    row w true true true true 0x1 0x0 (false) (false)
      (.and w.h (fn w 0 1 == 1) w.d w.a w.srcB)
  | 0xa =>
    row w true true true true 0x1 0x0 (false) (false)
      (.or w.h (fn w 0 1 == 1) w.d w.a w.srcB)
  | 0xb =>
    row w true true true true 0x1 0x0 (false) (false)
      (.xor w.h (fn w 0 1 == 1) w.d w.a w.srcB)
  | 0xc =>
    row w true true true true 0x1 0x0 (false) (false)
      (.andn w.h (fn w 0 1 == 1) w.d w.a w.srcB)
  | 0xd =>
    row w true true true true 0x1 0x0 (false) (false)
      (.orn w.h (fn w 0 1 == 1) w.d w.a w.srcB)
  | 0xe =>
    row w true true true true 0x1 0x0 (false) (false)
      (.shl w.h (fn w 0 1 == 1) w.d w.a w.srcB)
  | 0xf =>
    row w true true true true 0x1 0x0 (false) (false)
      (.shr w.h (fn w 0 1 == 1) w.d w.a w.srcB)
  | 0x10 =>
    row w true true true true 0x1 0x0 (false) (false)
      (.sar w.h (fn w 0 1 == 1) w.d w.a w.srcB)
  | 0x11 =>
    row w true true true true 0x1 0x0 (false) (false)
      (.rol w.h (fn w 0 1 == 1) w.d w.a w.srcB)
  | 0x12 =>
    row w true true true true 0x1 0x0 (false) (false)
      (.min w.h (fn w 0 1 == 1) w.d w.a w.srcB)
  | 0x13 =>
    row w true true true true 0x1 0x0 (false) (false)
      (.max w.h (fn w 0 1 == 1) w.d w.a w.srcB)
  | 0x14 =>
    row w true true true true 0x1 0x0 (false) (false)
      (.minn w.h (fn w 0 1 == 1) w.d w.a w.srcB)
  | 0x15 =>
    row w true true true true 0x1 0x0 (false) (false)
      (.maxn w.h (fn w 0 1 == 1) w.d w.a w.srcB)
  | 0x16 =>
    row w false true true false 0x1 0x0 (false) (false)
      (.clz w.h (fn w 0 1 == 1) w.d w.a)
  | 0x17 =>
    row w false true true false 0x1 0x0 (false) (false)
      (.ctz w.h (fn w 0 1 == 1) w.d w.a)
  | 0x18 =>
    row w false true true false 0x1 0x0 (false) (false)
      (.popc w.h (fn w 0 1 == 1) w.d w.a)
  | 0x19 =>
    row w false true true false 0x1 0x0 (false) (false)
      (.brev w.h (fn w 0 1 == 1) w.d w.a)
  | 0x1a =>
    row w false true true false 0x1 0x0 (false) (false)
      (.bswap w.h (fn w 0 1 == 1) w.d w.a)
  | 0x1b =>
    row w false true true false 0x1 0x3f3f (false) (decide (64 < im w 0 6 + im w 8 6 + 1))
      (.bfx w.h (fn w 0 1 == 1) w.d w.a (BitVec.ofNat 6 (im w 0 6)) (BitVec.ofNat 6 (im w 8 6)))
  | 0x1c =>
    row w false true true false 0x0 0x3f3f (false) (decide (64 < im w 0 6 + im w 8 6 + 1))
      (.bfi w.h w.d w.a (BitVec.ofNat 6 (im w 0 6)) (BitVec.ofNat 6 (im w 8 6)))
  | 0x1d =>
    row w true true true true 0x1f 0x0 (false) (false)
      (.sel w.h w.d w.a w.srcB (BitVec.ofNat 4 (fn w 0 4)) (fn w 4 1 == 1))
  | 0x1e =>
    row w false true true false 0x1 0x0 (false) (false)
      (.mov w.h (fn w 0 1 == 1) w.d w.a)
  | 0x1f =>
    row w false true true false 0x3 0x0 (false) (fn w 0 2 == 3)
      (.sext w.h (BitVec.ofNat 2 (fn w 0 2)) w.d w.a)
  | 0x20 =>
    row w false true true false 0x3 0x0 (false) (fn w 0 2 == 3)
      (.zext w.h (BitVec.ofNat 2 (fn w 0 2)) w.d w.a)
  | 0x21 =>
    row w false true true true 0x7 0xffffffff (false) (fn w 0 3 == 7)
      (.lea w.h w.d w.a w.b (BitVec.ofNat 3 (fn w 0 3)) w.imm)
  | 0x22 =>
    row w true true true true 0x1 0x0 (false) (false)
      (.mad w.h (fn w 0 1 == 1) w.d w.a w.srcB)
  | _ => .error 0x04

/-- Group 0x2: the word with index `k` (R113). -/
def decodeG2 (w : AWord) (k : Nat) : Except Nat Instr :=
  match k with
  | 0x0 =>
    row w true true true true 0x1ff 0x0 (false) (decide (6 ≤ fn w 3 4) || fn w 7 2 == 3)
      (.cmp w.h w.d w.a w.srcB (BitVec.ofNat 3 (fn w 0 3)) (BitVec.ofNat 4 (fn w 3 4)) (BitVec.ofNat 2 (fn w 7 2)))
  | 0x1 =>
    row w true true true true 0x181 0x0 (false) (fn w 7 2 == 3)
      (.tst w.h w.d w.a w.srcB (fn w 0 1 == 1) (BitVec.ofNat 2 (fn w 7 2)))
  | 0x2 =>
    row w false true true true 0x3 0x0 (false) (false)
      (.pand w.h w.d w.a w.b (fn w 0 1 == 1) (fn w 1 1 == 1))
  | 0x3 =>
    row w false true true true 0x3 0x0 (false) (false)
      (.por w.h w.d w.a w.b (fn w 0 1 == 1) (fn w 1 1 == 1))
  | 0x4 =>
    row w false true true true 0x3 0x0 (false) (false)
      (.pxor w.h w.d w.a w.b (fn w 0 1 == 1) (fn w 1 1 == 1))
  | 0x5 =>
    row w false true true false 0x0 0x0 (false) (false)
      (.pnot w.h w.d w.a)
  | 0x6 =>
    row w false false true false 0x0 0x0 (false) (false)
      (.pset w.h w.a)
  | 0x7 =>
    row w false true false false 0x0 0x0 (false) (false)
      (.pget w.h w.d)
  | _ => .error 0x04

/-- Group 0x3: the word with index `k` (R113). -/
def decodeG3 (w : AWord) (k : Nat) : Except Nat Instr :=
  match k with
  | 0x0 =>
    row w false false false false 0x0 0xffffffff (false) (false)
      (.br w.h w.imm)
  | 0x1 =>
    row w false false true false 0x0 0x0 (false) (false)
      (.jmp w.h w.a)
  | 0x2 =>
    row w false true false false 0x0 0xffffffff (false) (false)
      (.call w.h w.d w.imm)
  | 0x3 =>
    row w false true true false 0x0 0x0 (false) (false)
      (.callr w.h w.d w.a)
  | 0x4 =>
    row w false false true false 0x0 0xffffffff (false) (im w 12 20 == 0 || im w 0 12 == 0)
      (.loop w.h w.a (BitVec.ofNat 20 (im w 12 20)) (BitVec.ofNat 12 (im w 0 12)))
  | 0x5 =>
    row w false false false false 0x0 0xffffffff (false) (im w 12 20 == 0 || im w 0 12 == 0)
      (.loopw w.h (BitVec.ofNat 20 (im w 12 20)) (BitVec.ofNat 12 (im w 0 12)))
  | 0x6 =>
    row w false false false false 0x0 0x0 (false) (false)
      (.lexit w.h)
  | 0x7 =>
    row w false true true true 0x0 0xffffffff (false) (false)
      (.fork w.h w.d w.a w.b w.imm)
  | 0x8 =>
    row w false false true false 0x1 0x0 (false) (false)
      (.join w.h w.a (fn w 0 1 == 1))
  | 0x9 =>
    row w false false false false 0x0 0x0 (false) (false)
      (.exit w.h)
  | 0xa =>
    row w false false false false 0x0 0x0 (false) (false)
      (.nop w.h)
  | 0xb =>
    row w false false true false 0x1 0xffffffff (false) (false)
      (.bch w.h w.a (fn w 0 1 == 1) w.imm)
  | 0xc =>
    row w true false false true 0x0 0x0 (false) (false)
      (.sleep w.h w.srcB)
  | _ => .error 0x04

/-- Group 0x4: the word with index `k` (R113). -/
def decodeG4 (w : AWord) (k : Nat) : Except Nat Instr :=
  match k with
  | 0x0 =>
    row w true true true true 0x7 0x0 (false) (decide (5 ≤ fn w 0 3))
      (.fadd w.h (BitVec.ofNat 3 (fn w 0 3)) w.d w.a w.srcB)
  | 0x1 =>
    row w true true true true 0x7 0x0 (false) (decide (5 ≤ fn w 0 3))
      (.fsub w.h (BitVec.ofNat 3 (fn w 0 3)) w.d w.a w.srcB)
  | 0x2 =>
    row w true true true true 0x7 0x0 (false) (decide (5 ≤ fn w 0 3))
      (.fmul w.h (BitVec.ofNat 3 (fn w 0 3)) w.d w.a w.srcB)
  | 0x3 =>
    row w false true true true 0x7 0x1ff (false) (decide (5 ≤ fn w 0 3))
      (.ffma w.h (BitVec.ofNat 3 (fn w 0 3)) w.d w.a w.b (BitVec.ofNat 9 (im w 0 9)))
  | 0x4 =>
    row w true true true true 0x8 0x0 (false) (false)
      (.fmin w.h (fn w 3 1 == 1) w.d w.a w.srcB)
  | 0x5 =>
    row w true true true true 0x8 0x0 (false) (false)
      (.fmax w.h (fn w 3 1 == 1) w.d w.a w.srcB)
  | 0x6 =>
    row w true true true true 0x7 0x0 (false) (decide (5 ≤ fn w 0 3))
      (.fdiv w.h (BitVec.ofNat 3 (fn w 0 3)) w.d w.a w.srcB)
  | 0x7 =>
    row w false true true false 0x7 0x0 (false) (decide (5 ≤ fn w 0 3))
      (.fsqrt w.h (BitVec.ofNat 3 (fn w 0 3)) w.d w.a)
  | 0x8 =>
    row w false true true false 0x7 0x0 (false) (decide (5 ≤ fn w 0 3))
      (.frcp w.h (BitVec.ofNat 3 (fn w 0 3)) w.d w.a)
  | 0x9 =>
    row w true true true true 0x1f8 0x0 (false) (decide (8 ≤ fn w 3 4) || fn w 7 2 == 3)
      (.fcmp w.h w.d w.a w.srcB (BitVec.ofNat 4 (fn w 3 4)) (BitVec.ofNat 2 (fn w 7 2)))
  | 0xa =>
    row w false true true false 0x7 0x71f1f (false) (decide (5 ≤ fn w 0 3) || badKind (im w 0 5) || badKind (im w 8 5) || (im w 16 1 == 0 && im w 17 2 != 0))
      (.fcvt w.h (BitVec.ofNat 3 (fn w 0 3)) w.d w.a (BitVec.ofNat 5 (im w 0 5)) (BitVec.ofNat 5 (im w 8 5)) (im w 16 1 == 1) (BitVec.ofNat 2 (im w 17 2)))
  | 0xb =>
    row w false true true false 0x0 0x0 (false) (false)
      (.fclass w.h w.d w.a)
  | _ => .error 0x04

/-- Group 0x5: the word with index `k` (R113). -/
def decodeG5 (w : AWord) (k : Nat) : Except Nat Instr :=
  match k with
  | 0x0 =>
    row w true true true true 0xf 0x0 (false) (fn w 0 4 != 0)
      (.vadd w.h w.d w.a w.srcB)
  | 0x1 =>
    row w true true true true 0xf 0x0 (false) (fn w 0 4 != 0)
      (.vsub w.h w.d w.a w.srcB)
  | 0x2 =>
    row w true true true true 0xf 0x0 (false) (fn w 0 4 != 0)
      (.vmul w.h w.d w.a w.srcB)
  | 0x3 =>
    row w false true true true 0xf 0x1ff (false) (fn w 0 4 != 0)
      (.vmad w.h w.d w.a w.b (BitVec.ofNat 9 (im w 0 9)))
  | 0x4 =>
    row w true true true true 0xf 0x0 (false) (fn w 0 4 != 0)
      (.vand w.h w.d w.a w.srcB)
  | 0x5 =>
    row w true true true true 0xf 0x0 (false) (fn w 0 4 != 0)
      (.vor w.h w.d w.a w.srcB)
  | 0x6 =>
    row w true true true true 0xf 0x0 (false) (fn w 0 4 != 0)
      (.vxor w.h w.d w.a w.srcB)
  | 0x7 =>
    row w true true true true 0xf 0x0 (false) (fn w 0 4 != 0)
      (.vshl w.h w.d w.a w.srcB)
  | 0x8 =>
    row w true true true true 0xf 0x0 (false) (fn w 0 4 != 0)
      (.vshr w.h w.d w.a w.srcB)
  | 0x9 =>
    row w true true true true 0xf 0x0 (false) (fn w 0 4 != 0)
      (.vsar w.h w.d w.a w.srcB)
  | 0xa =>
    row w true true true true 0xf 0x0 (false) (decide (2 ≤ fn w 0 4))
      (.vmin w.h (fn w 0 1 == 1) w.d w.a w.srcB)
  | 0xb =>
    row w true true true true 0xf 0x0 (false) (decide (2 ≤ fn w 0 4))
      (.vmax w.h (fn w 0 1 == 1) w.d w.a w.srcB)
  | 0xc =>
    row w true true true true 0xff 0x0 (false) (decide (2 ≤ fn w 0 4) || decide (6 ≤ fn w 4 4))
      (.vcmp w.h (fn w 0 1 == 1) (BitVec.ofNat 4 (fn w 4 4)) w.d w.a w.srcB)
  | 0xd =>
    row w false true true true 0xf 0x1ff (false) (fn w 0 4 != 0)
      (.vsel w.h w.d w.a w.b (BitVec.ofNat 9 (im w 0 9)))
  | 0xe =>
    row w false true true false 0xf 0x0 (false) (fn w 0 4 != 0)
      (.vbcast w.h w.d w.a)
  | 0xf =>
    row w true true true true 0xf 0x0 (false) (decide (2 ≤ fn w 0 4))
      (.vext w.h (fn w 0 1 == 1) w.d w.a w.srcB)
  | 0x10 =>
    row w true true true true 0xf 0x0 (false) (fn w 0 4 != 0)
      (.vins w.h w.d w.a w.srcB)
  | 0x11 =>
    row w false true true true 0xf 0x0 (false) (fn w 0 4 != 0)
      (.vperm w.h w.d w.a w.b)
  | 0x12 =>
    row w false true true false 0xf 0x0 (false) (decide (2 ≤ fn w 0 4))
      (.vredadd w.h (fn w 0 1 == 1) w.d w.a)
  | 0x13 =>
    row w false true true false 0xf 0x0 (false) (decide (2 ≤ fn w 0 4))
      (.vredmin w.h (fn w 0 1 == 1) w.d w.a)
  | 0x14 =>
    row w false true true false 0xf 0x0 (false) (decide (2 ≤ fn w 0 4))
      (.vredmax w.h (fn w 0 1 == 1) w.d w.a)
  | 0x15 =>
    row w false true true false 0x1f 0x0 (false) (fn w 0 4 != 0)
      (.vscan w.h (fn w 4 1 == 1) w.d w.a)
  | 0x16 =>
    row w true true true true 0xf 0x0 (false) (fn w 0 4 != 0)
      (.viota w.h w.d w.a w.srcB)
  | _ => .error 0x04

/-- Group 0x6: the word with index `k` (R113). -/
def decodeG6 (w : AWord) (k : Nat) : Except Nat Instr :=
  match k with
  | 0x0 =>
    row w true true true true 0x7f 0x0 (false) (decide (5 ≤ fn w 0 3) || fn w 3 4 != 0)
      (.vfadd w.h (BitVec.ofNat 3 (fn w 0 3)) w.d w.a w.srcB)
  | 0x1 =>
    row w true true true true 0x7f 0x0 (false) (decide (5 ≤ fn w 0 3) || fn w 3 4 != 0)
      (.vfsub w.h (BitVec.ofNat 3 (fn w 0 3)) w.d w.a w.srcB)
  | 0x2 =>
    row w true true true true 0x7f 0x0 (false) (decide (5 ≤ fn w 0 3) || fn w 3 4 != 0)
      (.vfmul w.h (BitVec.ofNat 3 (fn w 0 3)) w.d w.a w.srcB)
  | 0x3 =>
    row w false true true true 0x7f 0x1ff (false) (decide (5 ≤ fn w 0 3) || fn w 3 4 != 0)
      (.vffma w.h (BitVec.ofNat 3 (fn w 0 3)) w.d w.a w.b (BitVec.ofNat 9 (im w 0 9)))
  | 0x4 =>
    row w true true true true 0x7f 0x0 (false) (decide (5 ≤ fn w 0 3) || decide (2 ≤ fn w 3 4))
      (.vfmin w.h (fn w 3 1 == 1) (BitVec.ofNat 3 (fn w 0 3)) w.d w.a w.srcB)
  | 0x5 =>
    row w true true true true 0x7f 0x0 (false) (decide (5 ≤ fn w 0 3) || decide (2 ≤ fn w 3 4))
      (.vfmax w.h (fn w 3 1 == 1) (BitVec.ofNat 3 (fn w 0 3)) w.d w.a w.srcB)
  | 0x6 =>
    row w true true true true 0x78 0x0 (false) (decide (8 ≤ fn w 3 4))
      (.vfcmp w.h (BitVec.ofNat 4 (fn w 3 4)) w.d w.a w.srcB)
  | 0x7 =>
    row w false true true false 0x7f 0x0 (false) (decide (5 ≤ fn w 0 3) || decide (3 ≤ fn w 3 4))
      (.vfred w.h (BitVec.ofNat 4 (fn w 3 4)) (BitVec.ofNat 3 (fn w 0 3)) w.d w.a)
  | 0x8 =>
    row w false true true false 0x7f 0x1f1f (false) (decide (5 ≤ fn w 0 3) || fn w 3 4 != 0 || badVKind (im w 0 5) || badVKind (im w 8 5))
      (.vfcvt w.h (BitVec.ofNat 3 (fn w 0 3)) w.d w.a (BitVec.ofNat 5 (im w 0 5)) (BitVec.ofNat 5 (im w 8 5)))
  | 0x9 =>
    row w false true true true 0x7f 0x7007f (im w 6 1 == 0 && w.b != 0) (decide (5 ≤ fn w 0 3) || fn w 3 4 != 0 || im w 0 4 == 0 || (im w 16 1 == 0 && im w 17 2 != 0))
      (.vfpack w.h (BitVec.ofNat 3 (fn w 0 3)) w.d w.a w.b (BitVec.ofNat 4 (im w 0 4)) (BitVec.ofNat 2 (im w 4 2)) (im w 6 1 == 1) (im w 16 1 == 1) (BitVec.ofNat 2 (im w 17 2)))
  | 0xa =>
    row w false true true true 0x7f 0x7f (im w 6 1 == 0 && w.b != 0) (decide (5 ≤ fn w 0 3) || fn w 3 4 != 0 || im w 0 4 == 0)
      (.vfunpk w.h (BitVec.ofNat 3 (fn w 0 3)) w.d w.a w.b (BitVec.ofNat 4 (im w 0 4)) (BitVec.ofNat 2 (im w 4 2)) (im w 6 1 == 1))
  | 0xb =>
    row w true true true true 0x7f 0x0 (false) (decide (5 ≤ fn w 0 3) || fn w 3 4 != 0)
      (.vfscale w.h (BitVec.ofNat 3 (fn w 0 3)) w.d w.a w.srcB)
  | 0xc =>
    row w false true true false 0x7f 0x0 (false) (decide (5 ≤ fn w 0 3) || fn w 3 4 != 0)
      (.vfex2 w.h (BitVec.ofNat 3 (fn w 0 3)) w.d w.a)
  | 0xd =>
    row w false true true false 0x7f 0x0 (false) (decide (5 ≤ fn w 0 3) || fn w 3 4 != 0)
      (.vfrsq w.h (BitVec.ofNat 3 (fn w 0 3)) w.d w.a)
  | _ => .error 0x04

/-- Group 0x7: the word with index `k` (R113). -/
def decodeG7 (w : AWord) (k : Nat) : Except Nat Instr :=
  match k with
  | 0x0 =>
    row w false true true false 0x1ff 0xffffffff (false) (badMty (fn w 0 4) (fn w 5 1) || fn w 6 3 == 7)
      (.ld w.h { mty := (BitVec.ofNat 4 (fn w 0 4)), l := (fn w 4 1 == 1), raw := (fn w 5 1 == 1), ord := (BitVec.ofNat 3 (fn w 6 3)) } w.d w.a w.imm)
  | 0x1 =>
    row w false false true true 0x1ff 0xffffffff (false) (badMty (fn w 0 4) (fn w 5 1) || fn w 6 3 == 7)
      (.st w.h { mty := (BitVec.ofNat 4 (fn w 0 4)), l := (fn w 4 1 == 1), raw := (fn w 5 1 == 1), ord := (BitVec.ofNat 3 (fn w 6 3)) } w.a w.b w.imm)
  | 0x2 =>
    row w false true true false 0x1ff 0xffffffff (false) (badMty (fn w 0 4) (fn w 5 1) || fn w 6 3 == 7 || fn w 0 4 == 3 || fn w 0 4 == 7)
      (.vld w.h { mty := (BitVec.ofNat 4 (fn w 0 4)), l := (fn w 4 1 == 1), raw := (fn w 5 1 == 1), ord := (BitVec.ofNat 3 (fn w 6 3)) } w.d w.a w.imm)
  | 0x3 =>
    row w false false true true 0x1ff 0xffffffff (false) (badMty (fn w 0 4) (fn w 5 1) || fn w 6 3 == 7 || fn w 0 4 == 3 || fn w 0 4 == 7)
      (.vst w.h { mty := (BitVec.ofNat 4 (fn w 0 4)), l := (fn w 4 1 == 1), raw := (fn w 5 1 == 1), ord := (BitVec.ofNat 3 (fn w 6 3)) } w.a w.b w.imm)
  | 0x4 =>
    row w false true true true 0x1ff 0xffffffff (false) (badMty (fn w 0 4) (fn w 5 1) || fn w 6 3 == 7 || fn w 0 4 == 3 || fn w 0 4 == 7)
      (.vlds w.h { mty := (BitVec.ofNat 4 (fn w 0 4)), l := (fn w 4 1 == 1), raw := (fn w 5 1 == 1), ord := (BitVec.ofNat 3 (fn w 6 3)) } w.d w.a w.b w.imm)
  | 0x5 =>
    row w false true true true 0x1ff 0xffffffff (false) (badMty (fn w 0 4) (fn w 5 1) || fn w 6 3 == 7 || fn w 0 4 == 3 || fn w 0 4 == 7)
      (.vsts w.h { mty := (BitVec.ofNat 4 (fn w 0 4)), l := (fn w 4 1 == 1), raw := (fn w 5 1 == 1), ord := (BitVec.ofNat 3 (fn w 6 3)) } w.d w.a w.b w.imm)
  | 0x6 =>
    row w false false true false 0x0 0xffffffff (false) (false)
      (.hold w.h w.a w.imm)
  | 0x7 =>
    row w false true true false 0x0 0xffffffff (false) (false)
      (.pin w.h w.d w.a w.imm)
  | 0x8 =>
    row w false true true false 0x0 0xffffffff (false) (false)
      (.unpin w.h w.d w.a w.imm)
  | 0x9 =>
    row w false false true false 0x0 0x1f0f (false) (decide (24 ≤ im w 8 5))
      (.lsfmt w.h w.a (BitVec.ofNat 4 (im w 0 4)) (BitVec.ofNat 5 (im w 8 5)))
  | _ => .error 0x04

/-- Group 0x8: the word with index `k` (R113). -/
def decodeG8 (w : AWord) (k : Nat) : Except Nat Instr :=
  match k with
  | 0x0 =>
    row w false true true false 0xf0 0xffffffff (false) (decide (6 ≤ fn w 5 3))
      (.ldf w.h (BitVec.ofNat 3 (fn w 5 3)) (fn w 4 1 == 1) w.d w.a w.imm)
  | 0x1 =>
    row w false true true false 0xf0 0xffffffff (false) (decide (6 ≤ fn w 5 3))
      (.lde w.h (BitVec.ofNat 3 (fn w 5 3)) (fn w 4 1 == 1) w.d w.a w.imm)
  | 0x2 =>
    row w false false true true 0xf0 0xffffffff (false) (decide (6 ≤ fn w 5 3))
      (.stf w.h (BitVec.ofNat 3 (fn w 5 3)) (fn w 4 1 == 1) w.a w.b w.imm)
  | 0x3 =>
    row w false false true true 0xf0 0xffffffff (false) (decide (6 ≤ fn w 5 3))
      (.sto w.h (BitVec.ofNat 3 (fn w 5 3)) (fn w 4 1 == 1) w.a w.b w.imm)
  | 0x4 =>
    row w false false true false 0x10 0xffffffff (false) (false)
      (.clrf w.h (fn w 4 1 == 1) w.a w.imm)
  | 0x5 =>
    row w false true true true 0xff 0xffffffff (false) (decide (6 ≤ fn w 5 3) || (fn w 2 2 == 0 && fn w 5 3 != 0))
      (.aadd w.h { ty := (BitVec.ofNat 2 (fn w 0 2)), ord := (BitVec.ofNat 2 (fn w 2 2)), l := (fn w 4 1 == 1), scope := (BitVec.ofNat 3 (fn w 5 3)) } w.d w.a w.b w.imm)
  | 0x6 =>
    row w false true true true 0xff 0xffffffff (false) (decide (6 ≤ fn w 5 3) || (fn w 2 2 == 0 && fn w 5 3 != 0))
      (.acas w.h { ty := (BitVec.ofNat 2 (fn w 0 2)), ord := (BitVec.ofNat 2 (fn w 2 2)), l := (fn w 4 1 == 1), scope := (BitVec.ofNat 3 (fn w 5 3)) } w.d w.a w.b w.imm)
  | 0x7 =>
    row w false true true true 0xff 0xffffffff (false) (decide (6 ≤ fn w 5 3) || (fn w 2 2 == 0 && fn w 5 3 != 0))
      (.axchg w.h { ty := (BitVec.ofNat 2 (fn w 0 2)), ord := (BitVec.ofNat 2 (fn w 2 2)), l := (fn w 4 1 == 1), scope := (BitVec.ofNat 3 (fn w 5 3)) } w.d w.a w.b w.imm)
  | 0x8 =>
    row w false true true true 0xff 0xffffffff (false) (decide (6 ≤ fn w 5 3) || (fn w 2 2 == 0 && fn w 5 3 != 0))
      (.amin w.h { ty := (BitVec.ofNat 2 (fn w 0 2)), ord := (BitVec.ofNat 2 (fn w 2 2)), l := (fn w 4 1 == 1), scope := (BitVec.ofNat 3 (fn w 5 3)) } w.d w.a w.b w.imm)
  | 0x9 =>
    row w false true true true 0xff 0xffffffff (false) (decide (6 ≤ fn w 5 3) || (fn w 2 2 == 0 && fn w 5 3 != 0))
      (.amax w.h { ty := (BitVec.ofNat 2 (fn w 0 2)), ord := (BitVec.ofNat 2 (fn w 2 2)), l := (fn w 4 1 == 1), scope := (BitVec.ofNat 3 (fn w 5 3)) } w.d w.a w.b w.imm)
  | 0xa =>
    row w false true true true 0xff 0xffffffff (false) (decide (6 ≤ fn w 5 3) || (fn w 2 2 == 0 && fn w 5 3 != 0))
      (.aand w.h { ty := (BitVec.ofNat 2 (fn w 0 2)), ord := (BitVec.ofNat 2 (fn w 2 2)), l := (fn w 4 1 == 1), scope := (BitVec.ofNat 3 (fn w 5 3)) } w.d w.a w.b w.imm)
  | 0xb =>
    row w false true true true 0xff 0xffffffff (false) (decide (6 ≤ fn w 5 3) || (fn w 2 2 == 0 && fn w 5 3 != 0))
      (.aor w.h { ty := (BitVec.ofNat 2 (fn w 0 2)), ord := (BitVec.ofNat 2 (fn w 2 2)), l := (fn w 4 1 == 1), scope := (BitVec.ofNat 3 (fn w 5 3)) } w.d w.a w.b w.imm)
  | 0xc =>
    row w false true true true 0xff 0xffffffff (false) (decide (6 ≤ fn w 5 3) || (fn w 2 2 == 0 && fn w 5 3 != 0))
      (.axor w.h { ty := (BitVec.ofNat 2 (fn w 0 2)), ord := (BitVec.ofNat 2 (fn w 2 2)), l := (fn w 4 1 == 1), scope := (BitVec.ofNat 3 (fn w 5 3)) } w.d w.a w.b w.imm)
  | 0xd =>
    row w false false false false 0xec 0x0 (false) (decide (6 ≤ fn w 5 3) || fn w 2 2 == 0)
      (.fence w.h (BitVec.ofNat 2 (fn w 2 2)) (BitVec.ofNat 3 (fn w 5 3)))
  | 0xe =>
    row w false false false false 0xe0 0x3f (false) (decide (6 ≤ fn w 5 3) || im w 0 6 == 0)
      (.xfence w.h (BitVec.ofNat 3 (fn w 5 3)) (BitVec.ofNat 6 (im w 0 6)))
  | 0xf =>
    row w false true true true 0xf0 0xffffffff (false) (decide (6 ≤ fn w 5 3))
      (.bexp w.h (BitVec.ofNat 3 (fn w 5 3)) (fn w 4 1 == 1) w.d w.a w.b w.imm)
  | 0x10 =>
    row w false false true true 0xf0 0xffffffff (false) (decide (6 ≤ fn w 5 3))
      (.barv w.h (BitVec.ofNat 3 (fn w 5 3)) (fn w 4 1 == 1) w.a w.b w.imm)
  | 0x11 =>
    row w false false true true 0xf0 0xffffffff (false) (decide (6 ≤ fn w 5 3))
      (.bwait w.h (BitVec.ofNat 3 (fn w 5 3)) (fn w 4 1 == 1) w.a w.b w.imm)
  | _ => .error 0x04

/-- Group 0x9: the word with index `k` (R113). -/
def decodeG9 (w : AWord) (k : Nat) : Except Nat Instr :=
  match k with
  | 0x0 =>
    row w false true true false 0x10 0xffffffff (false) (false)
      (.wbind w.h (fn w 4 1 == 1) w.d w.a w.imm)
  | 0x1 =>
    row w false false true false 0x0 0x0 (false) (false)
      (.wret w.h w.a)
  | 0x2 =>
    row w false true true true 0x2f 0x0 (false) (badMty (fn w 0 4) (fn w 5 1))
      (.wld w.h (BitVec.ofNat 4 (fn w 0 4)) (fn w 5 1 == 1) w.d w.a w.b)
  | 0x3 =>
    row w false true true true 0x2f 0x0 (false) (badMty (fn w 0 4) (fn w 5 1))
      (.wst w.h (BitVec.ofNat 4 (fn w 0 4)) (fn w 5 1 == 1) w.d w.a w.b)
  | 0x4 =>
    row w false true true true 0x2f 0xf (false) (badMty (fn w 0 4) (fn w 5 1) || fn w 0 4 == 3 || fn w 0 4 == 7)
      (.wvld w.h (BitVec.ofNat 4 (fn w 0 4)) (fn w 5 1 == 1) w.d w.a w.b (BitVec.ofNat 4 (im w 0 4)))
  | 0x5 =>
    row w false true true true 0x2f 0xf (false) (badMty (fn w 0 4) (fn w 5 1) || fn w 0 4 == 3 || fn w 0 4 == 7)
      (.wvst w.h (BitVec.ofNat 4 (fn w 0 4)) (fn w 5 1 == 1) w.d w.a w.b (BitVec.ofNat 4 (im w 0 4)))
  | 0x6 =>
    row w false true true false 0x0 0xf (false) (im w 0 4 == 15)
      (.wqry w.h w.d w.a (BitVec.ofNat 4 (im w 0 4)))
  | 0x7 =>
    row w false true true false 0x0 0x0 (false) (false)
      (.wadj w.h w.d w.a)
  | 0x8 =>
    row w false true true false 0x0 0x3 (false) (false)
      (.wfoot w.h w.d w.a (BitVec.ofNat 2 (im w 0 2)))
  | _ => .error 0x04

/-- Group 0xA: the word with index `k` (R296): its fields, its masks of FN and IMM with the tile guard in IMM bits 31:22,
and its reserved values. -/
def decodeGA (w : AWord) (k : Nat) : Except Nat Instr :=
  match k with
  | 0x0 =>
    row w false true false false 0x0 0xffc00000 (false) ((im w 22 1 == 0 && (im w 23 3 != 0 || im w 26 6 != 0)))
      (.mzero w.h w.d { tge := (im w 22 1 == 1), tm := (BitVec.ofNat 3 (im w 23 3)), tbit := (BitVec.ofNat 6 (im w 26 6)) })
  | 0x1 =>
    row w false true true true 0x1f 0xffc01fff (false) ((im w 22 1 == 0 && (im w 23 3 != 0 || im w 26 6 != 0)) || fn w 0 2 == 3 || fn w 2 2 == 3)
      (.mma w.h w.d w.a w.b (BitVec.ofNat 2 (fn w 0 2)) (BitVec.ofNat 2 (fn w 2 2)) (fn w 4 1 == 1) (BitVec.ofNat 4 (im w 0 4)) (BitVec.ofNat 9 (im w 4 9)) { tge := (im w 22 1 == 1), tm := (BitVec.ofNat 3 (im w 23 3)), tbit := (BitVec.ofNat 6 (im w 26 6)) })
  | 0x2 =>
    row w false true true true 0x1f 0xffc01fff (false) ((im w 22 1 == 0 && (im w 23 3 != 0 || im w 26 6 != 0)) || fn w 0 2 == 3 || fn w 2 2 == 3)
      (.mmas w.h w.d w.a w.b (BitVec.ofNat 2 (fn w 0 2)) (BitVec.ofNat 2 (fn w 2 2)) (fn w 4 1 == 1) (BitVec.ofNat 4 (im w 0 4)) (BitVec.ofNat 9 (im w 4 9)) { tge := (im w 22 1 == 1), tm := (BitVec.ofNat 3 (im w 23 3)), tbit := (BitVec.ofNat 6 (im w 26 6)) })
  | 0x3 =>
    row w false true true true 0x3 0xffc00000 (false) ((im w 22 1 == 0 && (im w 23 3 != 0 || im w 26 6 != 0)) || fn w 0 2 == 3)
      (.mld w.h w.d w.a w.b (BitVec.ofNat 2 (fn w 0 2)) { tge := (im w 22 1 == 1), tm := (BitVec.ofNat 3 (im w 23 3)), tbit := (BitVec.ofNat 6 (im w 26 6)) })
  | 0x4 =>
    row w false true true true 0x1f 0xffc00000 (false) ((im w 22 1 == 0 && (im w 23 3 != 0 || im w 26 6 != 0)) || fn w 3 2 == 3 || decide (5 ≤ fn w 0 3))
      (.mst w.h w.d w.a w.b (BitVec.ofNat 3 (fn w 0 3)) (BitVec.ofNat 2 (fn w 3 2)) { tge := (im w 22 1 == 1), tm := (BitVec.ofNat 3 (im w 23 3)), tbit := (BitVec.ofNat 6 (im w 26 6)) })
  | 0x5 =>
    row w false true true true 0x3f 0xffc001ff (false) ((im w 22 1 == 0 && (im w 23 3 != 0 || im w 26 6 != 0)) || fn w 3 2 == 3 || decide (5 ≤ fn w 0 3))
      (.msst w.h w.d w.a w.b (BitVec.ofNat 9 (im w 0 9)) (BitVec.ofNat 3 (fn w 0 3)) (BitVec.ofNat 2 (fn w 3 2)) (fn w 5 1 == 1) { tge := (im w 22 1 == 1), tm := (BitVec.ofNat 3 (im w 23 3)), tbit := (BitVec.ofNat 6 (im w 26 6)) })
  | 0x6 =>
    row w false true true false 0x0 0xffc01ff0 (false) ((im w 22 1 == 0 && (im w 23 3 != 0 || im w 26 6 != 0)))
      (.madd w.h w.d w.a (BitVec.ofNat 9 (im w 4 9)) { tge := (im w 22 1 == 1), tm := (BitVec.ofNat 3 (im w 23 3)), tbit := (BitVec.ofNat 6 (im w 26 6)) })
  | 0x7 =>
    row w false true true false 0x0 0x0 (false) (false)
      (.mstat w.h w.d w.a)
  | 0x8 =>
    row w false false true false 0x0 0x0 (false) (false)
      (.mclrs w.h w.a)
  | 0x9 =>
    if fn w 0 1 == 0 then
    row w false true true false 0x1 0x0 (false) (false)
      (.mtm w.h w.d w.a)
    else
    row w false true true false 0x1 0x0 (false) (false)
      (.mtmRd w.h w.d w.a)
  | 0xa =>
    if fn w 0 1 == 0 then
    row w false true true false 0x1 0x3f (false) (false)
      (.mtmgSet w.h w.d w.a (BitVec.ofNat 6 (im w 0 6)))
    else
    row w false true true false 0x1 0x3f (false) (false)
      (.mtmgClr w.h w.d w.a (BitVec.ofNat 6 (im w 0 6)))
  | 0xb =>
    row w false false false false 0x0 0x0 (false) (false)
      (.msync w.h)
  | _ => .error 0x04

/-- Group 0xB: the word with index `k` (R113). -/
def decodeGB (w : AWord) (k : Nat) : Except Nat Instr :=
  match k with
  | 0x0 =>
    row w false true true true 0x7 0x7ffff (fn w 2 1 == 0 && w.imm != 0) (im w 0 3 != 0)
      (.cpy w.h w.d w.a w.b (fn w 0 1 == 1) (fn w 1 1 == 1) (fn w 2 1 == 1) (BitVec.ofNat 19 (im w 0 19)))
  | 0x1 =>
    row w false true true true 0x0 0x0 (false) (false)
      (.cpyq w.h w.d w.a w.b)
  | 0x2 =>
    row w false true true true 0x2f 0xffff (false) (badMty (fn w 0 4) (fn w 5 1) || fn w 0 4 == 3 || fn w 0 4 == 7)
      (.gath w.h (BitVec.ofNat 4 (fn w 0 4)) (fn w 5 1 == 1) w.d w.a w.b (BitVec.ofNat 16 (im w 0 16)))
  | 0x3 =>
    row w false true true true 0x2f 0xffff (false) (badMty (fn w 0 4) (fn w 5 1) || fn w 0 4 == 3 || fn w 0 4 == 7)
      (.scat w.h (BitVec.ofNat 4 (fn w 0 4)) (fn w 5 1 == 1) w.d w.a w.b (BitVec.ofNat 16 (im w 0 16)))
  | 0x4 =>
    row w false true true true 0xf 0xffff (false) (decide (2 ≤ fn w 0 4))
      (.scadd w.h (BitVec.ofNat 4 (fn w 0 4)) w.d w.a w.b (BitVec.ofNat 16 (im w 0 16)))
  | 0x5 =>
    row w false false true true 0x7f 0xffffff (false) (decide (2 ≤ fn w 0 4) || fn w 4 3 == 0 || decide (6 ≤ fn w 4 3) || im w 0 24 == 0 || decide (98304 < im w 0 24))
      (.rbar w.h (BitVec.ofNat 4 (fn w 0 4)) (BitVec.ofNat 3 (fn w 4 3)) w.a w.b (BitVec.ofNat 24 (im w 0 24)))
  | 0x6 =>
    row w false true true true 0x3f 0x1ff (false) (fn w 5 1 == 1 && fn w 0 4 != 1 && fn w 0 4 != 2)
      (.ship w.h (BitVec.ofNat 4 (fn w 0 4)) (fn w 4 1 == 1) (fn w 5 1 == 1) w.d w.a w.b (BitVec.ofNat 9 (im w 0 9)))
  | _ => .error 0x04

/-- Group 0xC: the word with index `k` (R113). -/
def decodeGC (w : AWord) (k : Nat) : Except Nat Instr :=
  match k with
  | 0x0 =>
    row w false true true true 0x0 0xffffffff (false) (false)
      (.qpush w.h w.d w.a w.b w.imm)
  | 0x1 =>
    row w false true true true 0x0 0xffffffff (false) (false)
      (.qpop w.h w.d w.a w.b w.imm)
  | 0x2 =>
    row w false true true true 0x0 0xffffffff (false) (false)
      (.qpeek w.h w.d w.a w.b w.imm)
  | 0x3 =>
    row w false false true false 0x0 0x0 (false) (false)
      (.qclose w.h w.a)
  | 0x4 =>
    row w false true true false 0x0 0x0 (false) (false)
      (.qstat w.h w.d w.a)
  | 0x5 =>
    row w false true true false 0x0 0x0 (false) (false)
      (.chbind w.h w.d w.a)
  | 0x6 =>
    row w false true true false 0x0 0x0 (false) (false)
      (.chstat w.h w.d w.a)
  | 0x7 =>
    row w false false true true 0xe0 0x0 (false) (decide (6 ≤ fn w 5 3))
      (.semw w.h (BitVec.ofNat 3 (fn w 5 3)) w.a w.b)
  | 0x8 =>
    row w false false true true 0xe0 0x0 (false) (decide (6 ≤ fn w 5 3))
      (.sems w.h (BitVec.ofNat 3 (fn w 5 3)) w.a w.b)
  | 0x9 =>
    row w false false true true 0xf0 0xffffffff (false) (decide (6 ≤ fn w 5 3))
      (.bar w.h (BitVec.ofNat 3 (fn w 5 3)) (fn w 4 1 == 1) w.a w.b w.imm)
  | _ => .error 0x04

/-- Group 0xD: the word with index `k` (R113). -/
def decodeGD (w : AWord) (k : Nat) : Except Nat Instr :=
  match k with
  | 0x0 =>
    row w false false false false 0x0 0xffffffff (false) (false)
      (.trap w.h w.imm)
  | 0x1 =>
    row w false true true false 0x0 0xfff (false) (false)
      (.sys w.h w.d w.a (BitVec.ofNat 12 (im w 0 12)))
  | 0x2 =>
    row w false false false false 0x0 0x0 (false) (false)
      (.rfe w.h)
  | 0x3 =>
    row w false true true false 0x0 0xff (false) (badControl (im w 0 8))
      (.cwget w.h w.d w.a (BitVec.ofNat 8 (im w 0 8)))
  | 0x4 =>
    row w false false true true 0x0 0xff (false) (badControl (im w 0 8))
      (.cwset w.h w.a w.b (BitVec.ofNat 8 (im w 0 8)))
  | 0x5 =>
    row w false true false false 0x0 0x0 (false) (false)
      (.feat w.h w.d)
  | 0x6 =>
    row w false true true false 0x0 0xff (false) (badWindow (im w 0 8))
      (.exrd w.h w.d w.a (BitVec.ofNat 8 (im w 0 8)))
  | 0x7 =>
    row w false false true true 0x0 0xff (false) (badWindow (im w 0 8))
      (.exwr w.h w.a w.b (BitVec.ofNat 8 (im w 0 8)))
  | 0x8 =>
    row w false false true false 0x1 0x0 (false) (false)
      (.exres w.h w.a (fn w 0 1 == 1))
  | 0x9 =>
    row w false false true false 0x0 0x0 (false) (false)
      (.seed w.h w.a)
  | 0xa =>
    row w false true false true 0x0 0x0 (false) (false)
      (.idle w.h w.d w.b)
  | _ => .error 0x04

/-- An A-form word (R113, R114). -/
def decodeA (w : AWord) : Except Nat Instr :=
  match w.opc.toNat / 256 with
  | 0x0 => decodeG0 w (w.opc.toNat % 256)
  | 0x2 => decodeG2 w (w.opc.toNat % 256)
  | 0x3 => decodeG3 w (w.opc.toNat % 256)
  | 0x4 => decodeG4 w (w.opc.toNat % 256)
  | 0x5 => decodeG5 w (w.opc.toNat % 256)
  | 0x6 => decodeG6 w (w.opc.toNat % 256)
  | 0x7 => decodeG7 w (w.opc.toNat % 256)
  | 0x8 => decodeG8 w (w.opc.toNat % 256)
  | 0x9 => decodeG9 w (w.opc.toNat % 256)
  | 0xa => decodeGA w (w.opc.toNat % 256)
  | 0xb => decodeGB w (w.opc.toNat % 256)
  | 0xc => decodeGC w (w.opc.toNat % 256)
  | 0xd => decodeGD w (w.opc.toNat % 256)
  | 1 => if w.opc.toNat % 256 ≤ 1 then .error 0x05 else .error 0x04
  | _ => .error 0x04

/-- The instruction whose scalar half is `s` and whose vector half is `v`: named by its vector half when the
scalar half discards its result in `zero`, by its scalar half otherwise (log entry 11). -/
def mkPair (h : Hints) (s : SHalf) (v : VHalf) : Option Instr :=
  if s.sd = 0xD0 then
    match v.vop.toNat with
    | 0x0 => some (.vaddPform h v.vd v.va v.vb v.vc v.ty v.rm s)
    | 0x1 => some (.vsubPform h v.vd v.va v.vb v.vc v.ty v.rm s)
    | 0x2 => some (.vmulPform h v.vd v.va v.vb v.vc v.ty v.rm s)
    | 0x3 => some (.vmadPform h v.vd v.va v.vb v.vc v.ty v.rm s)
    | 0x4 => some (.vandPform h v.vd v.va v.vb v.vc v.ty v.rm s)
    | 0x5 => some (.vorPform h v.vd v.va v.vb v.vc v.ty v.rm s)
    | 0x6 => some (.vxorPform h v.vd v.va v.vb v.vc v.ty v.rm s)
    | 0x7 => some (.vshlPform h v.vd v.va v.vb v.vc v.ty v.rm s)
    | 0x8 => some (.vshrPform h v.vd v.va v.vb v.vc v.ty v.rm s)
    | 0x9 => some (.vsarPform h v.vd v.va v.vb v.vc v.ty v.rm s)
    | 0xa => some (.vminPform h v.vd v.va v.vb v.vc v.ty v.rm s)
    | 0xb => some (.vmaxPform h v.vd v.va v.vb v.vc v.ty v.rm s)
    | 0x11 => some (.vpermPform h v.vd v.va v.vb v.vc v.ty v.rm s)
    | 0x15 => some (.vscanPform h v.vd v.va v.vb v.vc v.ty v.rm s)
    | 0x40 => some (.vfaddPform h v.vd v.va v.vb v.vc v.ty v.rm s)
    | 0x41 => some (.vfsubPform h v.vd v.va v.vb v.vc v.ty v.rm s)
    | 0x42 => some (.vfmulPform h v.vd v.va v.vb v.vc v.ty v.rm s)
    | 0x43 => some (.vffmaPform h v.vd v.va v.vb v.vc v.ty v.rm s)
    | 0x44 => some (.vfminPform h v.vd v.va v.vb v.vc v.ty v.rm s)
    | 0x45 => some (.vfmaxPform h v.vd v.va v.vb v.vc v.ty v.rm s)
    | 0x4b => some (.vfscalePform h v.vd v.va v.vb v.vc v.ty v.rm s)
    | 0x4c => some (.vfex2Pform h v.vd v.va v.vb v.vc v.ty v.rm s)
    | 0x4d => some (.vfrsqPform h v.vd v.va v.vb v.vc v.ty v.rm s)
    | _ => none
  else
    match s.sop.toNat with
    | 0 => some (.addPform h s.sd s.sa s.sb v)
    | 1 => some (.subPform h s.sd s.sa s.sb v)
    | 2 => some (.mulPform h s.sd s.sa s.sb v)
    | 3 => some (.mulhPform h s.sd s.sa s.sb v)
    | 4 => some (.mulhnPform h s.sd s.sa s.sb v)
    | 5 => some (.divPform h s.sd s.sa s.sb v)
    | 6 => some (.divnPform h s.sd s.sa s.sb v)
    | 7 => some (.remPform h s.sd s.sa s.sb v)
    | 8 => some (.remnPform h s.sd s.sa s.sb v)
    | 9 => some (.andPform h s.sd s.sa s.sb v)
    | 10 => some (.orPform h s.sd s.sa s.sb v)
    | 11 => some (.xorPform h s.sd s.sa s.sb v)
    | 12 => some (.andnPform h s.sd s.sa s.sb v)
    | 13 => some (.ornPform h s.sd s.sa s.sb v)
    | 14 => some (.shlPform h s.sd s.sa s.sb v)
    | 15 => some (.shrPform h s.sd s.sa s.sb v)
    | 16 => some (.sarPform h s.sd s.sa s.sb v)
    | 17 => some (.rolPform h s.sd s.sa s.sb v)
    | 18 => some (.minPform h s.sd s.sa s.sb v)
    | 19 => some (.maxPform h s.sd s.sa s.sb v)
    | 20 => some (.minnPform h s.sd s.sa s.sb v)
    | 21 => some (.maxnPform h s.sd s.sa s.sb v)
    | 22 => some (.clzPform h s.sd s.sa s.sb v)
    | 23 => some (.ctzPform h s.sd s.sa s.sb v)
    | 24 => some (.popcPform h s.sd s.sa s.sb v)
    | 25 => some (.brevPform h s.sd s.sa s.sb v)
    | 26 => some (.bswapPform h s.sd s.sa s.sb v)
    | 30 => some (.movPform h s.sd s.sa s.sb v)
    | 34 => some (.madPform h s.sd s.sa s.sb v)
    | _ => none

/-- The reason for which a word is not an instruction, or the instruction (R114). -/
def decodeNat (x : Nat) : Except Nat Instr :=
  let fmt := Nat.field x 94 2
  if fmt = 3 then .error 0x01
  else if Nat.field x 81 5 ≠ 0 then .error 0x02
  else if x = 0 then .error 0x03
  else if fmt = 0 then decodeA (splitA x)
  else if fmt = 2 then
    match Nat.field x 69 12 with
    | 0x100 => .ok (.li (hintsOf (x / 2 ^ 81)) (BitVec.ofNat 9 (Nat.field x 60 9)) (BitVec.ofNat 60 (Nat.field x 0 60)))
    | 0x101 => .ok (.lpc (hintsOf (x / 2 ^ 81)) (BitVec.ofNat 9 (Nat.field x 60 9)) (BitVec.ofNat 60 (Nat.field x 0 60)))
    | _ => .error 0x05
  else
    let s := splitS x
    let v := splitV x
    match pairReason s v (Nat.field x 41 8 == 0 && Nat.field x 0 8 == 0) with
    | 0 =>
      match mkPair (hintsOf (x / 2 ^ 81)) s v with
      | some i => .ok i
      | none => .error 0x09
    | r => .error r

/-- Decoding of the 96-bit word that a fetch delivers. -/
def decodeWord (x : BitVec 96) : Except Nat Instr := decodeNat x.toNat

/-- The halves of a P-form word. -/
def Instr.pair? : Instr → Option (Hints × SHalf × VHalf)
  | .addPform h sd sa sb v => some (h, { sop := 0, sd := sd, sa := sa, sb := sb }, v)
  | .subPform h sd sa sb v => some (h, { sop := 1, sd := sd, sa := sa, sb := sb }, v)
  | .mulPform h sd sa sb v => some (h, { sop := 2, sd := sd, sa := sa, sb := sb }, v)
  | .mulhPform h sd sa sb v => some (h, { sop := 3, sd := sd, sa := sa, sb := sb }, v)
  | .mulhnPform h sd sa sb v => some (h, { sop := 4, sd := sd, sa := sa, sb := sb }, v)
  | .divPform h sd sa sb v => some (h, { sop := 5, sd := sd, sa := sa, sb := sb }, v)
  | .divnPform h sd sa sb v => some (h, { sop := 6, sd := sd, sa := sa, sb := sb }, v)
  | .remPform h sd sa sb v => some (h, { sop := 7, sd := sd, sa := sa, sb := sb }, v)
  | .remnPform h sd sa sb v => some (h, { sop := 8, sd := sd, sa := sa, sb := sb }, v)
  | .andPform h sd sa sb v => some (h, { sop := 9, sd := sd, sa := sa, sb := sb }, v)
  | .orPform h sd sa sb v => some (h, { sop := 10, sd := sd, sa := sa, sb := sb }, v)
  | .xorPform h sd sa sb v => some (h, { sop := 11, sd := sd, sa := sa, sb := sb }, v)
  | .andnPform h sd sa sb v => some (h, { sop := 12, sd := sd, sa := sa, sb := sb }, v)
  | .ornPform h sd sa sb v => some (h, { sop := 13, sd := sd, sa := sa, sb := sb }, v)
  | .shlPform h sd sa sb v => some (h, { sop := 14, sd := sd, sa := sa, sb := sb }, v)
  | .shrPform h sd sa sb v => some (h, { sop := 15, sd := sd, sa := sa, sb := sb }, v)
  | .sarPform h sd sa sb v => some (h, { sop := 16, sd := sd, sa := sa, sb := sb }, v)
  | .rolPform h sd sa sb v => some (h, { sop := 17, sd := sd, sa := sa, sb := sb }, v)
  | .minPform h sd sa sb v => some (h, { sop := 18, sd := sd, sa := sa, sb := sb }, v)
  | .maxPform h sd sa sb v => some (h, { sop := 19, sd := sd, sa := sa, sb := sb }, v)
  | .minnPform h sd sa sb v => some (h, { sop := 20, sd := sd, sa := sa, sb := sb }, v)
  | .maxnPform h sd sa sb v => some (h, { sop := 21, sd := sd, sa := sa, sb := sb }, v)
  | .clzPform h sd sa sb v => some (h, { sop := 22, sd := sd, sa := sa, sb := sb }, v)
  | .ctzPform h sd sa sb v => some (h, { sop := 23, sd := sd, sa := sa, sb := sb }, v)
  | .popcPform h sd sa sb v => some (h, { sop := 24, sd := sd, sa := sa, sb := sb }, v)
  | .brevPform h sd sa sb v => some (h, { sop := 25, sd := sd, sa := sa, sb := sb }, v)
  | .bswapPform h sd sa sb v => some (h, { sop := 26, sd := sd, sa := sa, sb := sb }, v)
  | .movPform h sd sa sb v => some (h, { sop := 30, sd := sd, sa := sa, sb := sb }, v)
  | .madPform h sd sa sb v => some (h, { sop := 34, sd := sd, sa := sa, sb := sb }, v)
  | .vaddPform h vd va vb vc ty rm x => some (h, x, { vop := 0, vd := vd, va := va, vb := vb, vc := vc, ty := ty, rm := rm })
  | .vsubPform h vd va vb vc ty rm x => some (h, x, { vop := 1, vd := vd, va := va, vb := vb, vc := vc, ty := ty, rm := rm })
  | .vmulPform h vd va vb vc ty rm x => some (h, x, { vop := 2, vd := vd, va := va, vb := vb, vc := vc, ty := ty, rm := rm })
  | .vmadPform h vd va vb vc ty rm x => some (h, x, { vop := 3, vd := vd, va := va, vb := vb, vc := vc, ty := ty, rm := rm })
  | .vandPform h vd va vb vc ty rm x => some (h, x, { vop := 4, vd := vd, va := va, vb := vb, vc := vc, ty := ty, rm := rm })
  | .vorPform h vd va vb vc ty rm x => some (h, x, { vop := 5, vd := vd, va := va, vb := vb, vc := vc, ty := ty, rm := rm })
  | .vxorPform h vd va vb vc ty rm x => some (h, x, { vop := 6, vd := vd, va := va, vb := vb, vc := vc, ty := ty, rm := rm })
  | .vshlPform h vd va vb vc ty rm x => some (h, x, { vop := 7, vd := vd, va := va, vb := vb, vc := vc, ty := ty, rm := rm })
  | .vshrPform h vd va vb vc ty rm x => some (h, x, { vop := 8, vd := vd, va := va, vb := vb, vc := vc, ty := ty, rm := rm })
  | .vsarPform h vd va vb vc ty rm x => some (h, x, { vop := 9, vd := vd, va := va, vb := vb, vc := vc, ty := ty, rm := rm })
  | .vminPform h vd va vb vc ty rm x => some (h, x, { vop := 10, vd := vd, va := va, vb := vb, vc := vc, ty := ty, rm := rm })
  | .vmaxPform h vd va vb vc ty rm x => some (h, x, { vop := 11, vd := vd, va := va, vb := vb, vc := vc, ty := ty, rm := rm })
  | .vpermPform h vd va vb vc ty rm x => some (h, x, { vop := 17, vd := vd, va := va, vb := vb, vc := vc, ty := ty, rm := rm })
  | .vscanPform h vd va vb vc ty rm x => some (h, x, { vop := 21, vd := vd, va := va, vb := vb, vc := vc, ty := ty, rm := rm })
  | .vfaddPform h vd va vb vc ty rm x => some (h, x, { vop := 64, vd := vd, va := va, vb := vb, vc := vc, ty := ty, rm := rm })
  | .vfsubPform h vd va vb vc ty rm x => some (h, x, { vop := 65, vd := vd, va := va, vb := vb, vc := vc, ty := ty, rm := rm })
  | .vfmulPform h vd va vb vc ty rm x => some (h, x, { vop := 66, vd := vd, va := va, vb := vb, vc := vc, ty := ty, rm := rm })
  | .vffmaPform h vd va vb vc ty rm x => some (h, x, { vop := 67, vd := vd, va := va, vb := vb, vc := vc, ty := ty, rm := rm })
  | .vfminPform h vd va vb vc ty rm x => some (h, x, { vop := 68, vd := vd, va := va, vb := vb, vc := vc, ty := ty, rm := rm })
  | .vfmaxPform h vd va vb vc ty rm x => some (h, x, { vop := 69, vd := vd, va := va, vb := vb, vc := vc, ty := ty, rm := rm })
  | .vfscalePform h vd va vb vc ty rm x => some (h, x, { vop := 75, vd := vd, va := va, vb := vb, vc := vc, ty := ty, rm := rm })
  | .vfex2Pform h vd va vb vc ty rm x => some (h, x, { vop := 76, vd := vd, va := va, vb := vb, vc := vc, ty := ty, rm := rm })
  | .vfrsqPform h vd va vb vc ty rm x => some (h, x, { vop := 77, vd := vd, va := va, vb := vb, vc := vc, ty := ty, rm := rm })
  | _ => none

/-- The name the decoder gives a word that has two names (log entry 11). -/
def Instr.canon (i : Instr) : Instr :=
  match i.pair? with
  | some (h, s, v) => (mkPair h s v).getD i
  | none => i

/-- The word of an instruction, as a number; none for an event. -/
def encodeNat : Instr → Option Nat
  | .powerGood => none
  | .securityAlarm => none
  | .refreshTakeover => none
  | .narelFlitReplay => none
  | .narelPortDown => none
  | .powerPacing => none
  | .notifyDmwr => none
  | .notifyPostedWrite => none
  | .pasidRevocation => none
  | .registerWrite => none
  | .intake => none
  | .start => none
  | .layout => none
  | .format => none
  | .cancel => none
  | .placement => none
  | .urgentPlacement => none
  | .frondStart => none
  | .readyListPlace => none
  | .stealRead => none
  | .stealCas => none
  | .stealPassRetry => none
  | .balancerInterval => none
  | .balancerMove => none
  | .coreRebind => none
  | .dequeTransfer => none
  | .streamSourcePush => none
  | .streamSinkWrite => none
  | .icacheFill => none
  | .pageWalkDone => none
  | .resultLanding => none
  | .storePerformed => none
  | .storeAck => none
  | .crossDieStoreApply => none
  | .migrate => none
  | .migrationArrival => none
  | .fillPick => none
  | .lineArrival => none
  | .fillLanding => none
  | .fillFailure => none
  | .copyComplete => none
  | .cpyqPush => none
  | .matrixWordComplete => none
  | .channelFlitDelivery => none
  | .syncResend => none
  | .felimitTimeout => none
  | .sleepEnd => none
  | .swapRequest => none
  | .urgentQuantumEnd => none
  | .swapBack => none
  | .gangSuspend => none
  | .gangResume => none
  | .hang => none
  | .supervisorMessage => none
  | .frondhalt => none
  | .handlerEntry => none
  | .faultDomainEnd => none
  | .featureMigrate => none
  | .jobRetirement => none
  | .sysAnswer => none
  | .idleWake => none
  | .hostCxlMemAccess => none
  | .status => none
  | .loadfw => none
  | .attest => none
  | .setpkg => none
  | .inval => none
  | .xlans => none
  | .poison => none
  | .setthr => none
  | .clrcnt => none
  | .mailboxDone => none
  | .reductionMergeDone => none
  | .matrixCheckPoint => none
  | .add h w d a b => some (aWord h 0x0 d a (srcFld b) (srcBi b) (BitVec.ofNat 9 (w.toNat * 1)) (srcImm b))
  | .sub h w d a b => some (aWord h 0x1 d a (srcFld b) (srcBi b) (BitVec.ofNat 9 (w.toNat * 1)) (srcImm b))
  | .mul h w d a b => some (aWord h 0x2 d a (srcFld b) (srcBi b) (BitVec.ofNat 9 (w.toNat * 1)) (srcImm b))
  | .mulh h w d a b => some (aWord h 0x3 d a (srcFld b) (srcBi b) (BitVec.ofNat 9 (w.toNat * 1)) (srcImm b))
  | .mulhn h w d a b => some (aWord h 0x4 d a (srcFld b) (srcBi b) (BitVec.ofNat 9 (w.toNat * 1)) (srcImm b))
  | .div h w d a b => some (aWord h 0x5 d a (srcFld b) (srcBi b) (BitVec.ofNat 9 (w.toNat * 1)) (srcImm b))
  | .divn h w d a b => some (aWord h 0x6 d a (srcFld b) (srcBi b) (BitVec.ofNat 9 (w.toNat * 1)) (srcImm b))
  | .rem h w d a b => some (aWord h 0x7 d a (srcFld b) (srcBi b) (BitVec.ofNat 9 (w.toNat * 1)) (srcImm b))
  | .remn h w d a b => some (aWord h 0x8 d a (srcFld b) (srcBi b) (BitVec.ofNat 9 (w.toNat * 1)) (srcImm b))
  | .and h w d a b => some (aWord h 0x9 d a (srcFld b) (srcBi b) (BitVec.ofNat 9 (w.toNat * 1)) (srcImm b))
  | .or h w d a b => some (aWord h 0xa d a (srcFld b) (srcBi b) (BitVec.ofNat 9 (w.toNat * 1)) (srcImm b))
  | .xor h w d a b => some (aWord h 0xb d a (srcFld b) (srcBi b) (BitVec.ofNat 9 (w.toNat * 1)) (srcImm b))
  | .andn h w d a b => some (aWord h 0xc d a (srcFld b) (srcBi b) (BitVec.ofNat 9 (w.toNat * 1)) (srcImm b))
  | .orn h w d a b => some (aWord h 0xd d a (srcFld b) (srcBi b) (BitVec.ofNat 9 (w.toNat * 1)) (srcImm b))
  | .shl h w d a b => some (aWord h 0xe d a (srcFld b) (srcBi b) (BitVec.ofNat 9 (w.toNat * 1)) (srcImm b))
  | .shr h w d a b => some (aWord h 0xf d a (srcFld b) (srcBi b) (BitVec.ofNat 9 (w.toNat * 1)) (srcImm b))
  | .sar h w d a b => some (aWord h 0x10 d a (srcFld b) (srcBi b) (BitVec.ofNat 9 (w.toNat * 1)) (srcImm b))
  | .rol h w d a b => some (aWord h 0x11 d a (srcFld b) (srcBi b) (BitVec.ofNat 9 (w.toNat * 1)) (srcImm b))
  | .min h w d a b => some (aWord h 0x12 d a (srcFld b) (srcBi b) (BitVec.ofNat 9 (w.toNat * 1)) (srcImm b))
  | .max h w d a b => some (aWord h 0x13 d a (srcFld b) (srcBi b) (BitVec.ofNat 9 (w.toNat * 1)) (srcImm b))
  | .minn h w d a b => some (aWord h 0x14 d a (srcFld b) (srcBi b) (BitVec.ofNat 9 (w.toNat * 1)) (srcImm b))
  | .maxn h w d a b => some (aWord h 0x15 d a (srcFld b) (srcBi b) (BitVec.ofNat 9 (w.toNat * 1)) (srcImm b))
  | .clz h w d a => some (aWord h 0x16 d a 0 false (BitVec.ofNat 9 (w.toNat * 1)) 0)
  | .ctz h w d a => some (aWord h 0x17 d a 0 false (BitVec.ofNat 9 (w.toNat * 1)) 0)
  | .popc h w d a => some (aWord h 0x18 d a 0 false (BitVec.ofNat 9 (w.toNat * 1)) 0)
  | .brev h w d a => some (aWord h 0x19 d a 0 false (BitVec.ofNat 9 (w.toNat * 1)) 0)
  | .bswap h w d a => some (aWord h 0x1a d a 0 false (BitVec.ofNat 9 (w.toNat * 1)) 0)
  | .bfx h sg d a pos len1 => some (aWord h 0x1b d a 0 false (BitVec.ofNat 9 (sg.toNat * 1)) (BitVec.ofNat 32 (pos.toNat * 1 + len1.toNat * 256)))
  | .bfi h d a pos len1 => some (aWord h 0x1c d a 0 false 0 (BitVec.ofNat 32 (pos.toNat * 1 + len1.toNat * 256)))
  | .sel h d a b qc qn => some (aWord h 0x1d d a (srcFld b) (srcBi b) (BitVec.ofNat 9 (qc.toNat * 1 + qn.toNat * 16)) (srcImm b))
  | .mov h w d a => some (aWord h 0x1e d a 0 false (BitVec.ofNat 9 (w.toNat * 1)) 0)
  | .sext h wid d a => some (aWord h 0x1f d a 0 false (BitVec.ofNat 9 (wid.toNat * 1)) 0)
  | .zext h wid d a => some (aWord h 0x20 d a 0 false (BitVec.ofNat 9 (wid.toNat * 1)) 0)
  | .lea h d a b sh disp => some (aWord h 0x21 d a b false (BitVec.ofNat 9 (sh.toNat * 1)) disp)
  | .mad h w d a b => some (aWord h 0x22 d a (srcFld b) (srcBi b) (BitVec.ofNat 9 (w.toNat * 1)) (srcImm b))
  | .li h d imm => some (wWord h 0x100 d imm)
  | .lpc h d imm => some (wWord h 0x101 d imm)
  | .cmp h d a b ty cond comb => some (aWord h 0x200 d a (srcFld b) (srcBi b) (BitVec.ofNat 9 (ty.toNat * 1 + cond.toNat * 8 + comb.toNat * 128)) (srcImm b))
  | .tst h d a b z comb => some (aWord h 0x201 d a (srcFld b) (srcBi b) (BitVec.ofNat 9 (z.toNat * 1 + comb.toNat * 128)) (srcImm b))
  | .pand h d a b na nb => some (aWord h 0x202 d a b false (BitVec.ofNat 9 (na.toNat * 1 + nb.toNat * 2)) 0)
  | .por h d a b na nb => some (aWord h 0x203 d a b false (BitVec.ofNat 9 (na.toNat * 1 + nb.toNat * 2)) 0)
  | .pxor h d a b na nb => some (aWord h 0x204 d a b false (BitVec.ofNat 9 (na.toNat * 1 + nb.toNat * 2)) 0)
  | .pnot h d a => some (aWord h 0x205 d a 0 false 0 0)
  | .pset h a => some (aWord h 0x206 0 a 0 false 0 0)
  | .pget h d => some (aWord h 0x207 d 0 0 false 0 0)
  | .br h disp => some (aWord h 0x300 0 0 0 false 0 disp)
  | .jmp h a => some (aWord h 0x301 0 a 0 false 0 0)
  | .call h d disp => some (aWord h 0x302 d 0 0 false 0 disp)
  | .callr h d a => some (aWord h 0x303 d a 0 false 0 0)
  | .loop h a maxt blen => some (aWord h 0x304 0 a 0 false 0 (BitVec.ofNat 32 (maxt.toNat * 4096 + blen.toNat * 1)))
  | .loopw h maxt blen => some (aWord h 0x305 0 0 0 false 0 (BitVec.ofNat 32 (maxt.toNat * 4096 + blen.toNat * 1)))
  | .lexit h => some (aWord h 0x306 0 0 0 false 0 0)
  | .fork h d a b disp => some (aWord h 0x307 d a b false 0 disp)
  | .join h a l => some (aWord h 0x308 0 a 0 false (BitVec.ofNat 9 (l.toNat * 1)) 0)
  | .exit h => some (aWord h 0x309 0 0 0 false 0 0)
  | .nop h => some (aWord h 0x30a 0 0 0 false 0 0)
  | .bch h a n disp => some (aWord h 0x30b 0 a 0 false (BitVec.ofNat 9 (n.toNat * 1)) disp)
  | .sleep h b => some (aWord h 0x30c 0 0 (srcFld b) (srcBi b) 0 (srcImm b))
  | .fadd h rnd d a b => some (aWord h 0x400 d a (srcFld b) (srcBi b) (BitVec.ofNat 9 (rnd.toNat * 1)) (srcImm b))
  | .fsub h rnd d a b => some (aWord h 0x401 d a (srcFld b) (srcBi b) (BitVec.ofNat 9 (rnd.toNat * 1)) (srcImm b))
  | .fmul h rnd d a b => some (aWord h 0x402 d a (srcFld b) (srcBi b) (BitVec.ofNat 9 (rnd.toNat * 1)) (srcImm b))
  | .ffma h rnd d a b c => some (aWord h 0x403 d a b false (BitVec.ofNat 9 (rnd.toNat * 1)) (BitVec.ofNat 32 (c.toNat * 1)))
  | .fmin h p d a b => some (aWord h 0x404 d a (srcFld b) (srcBi b) (BitVec.ofNat 9 (p.toNat * 8)) (srcImm b))
  | .fmax h p d a b => some (aWord h 0x405 d a (srcFld b) (srcBi b) (BitVec.ofNat 9 (p.toNat * 8)) (srcImm b))
  | .fdiv h rnd d a b => some (aWord h 0x406 d a (srcFld b) (srcBi b) (BitVec.ofNat 9 (rnd.toNat * 1)) (srcImm b))
  | .fsqrt h rnd d a => some (aWord h 0x407 d a 0 false (BitVec.ofNat 9 (rnd.toNat * 1)) 0)
  | .frcp h rnd d a => some (aWord h 0x408 d a 0 false (BitVec.ofNat 9 (rnd.toNat * 1)) 0)
  | .fcmp h d a b cond comb => some (aWord h 0x409 d a (srcFld b) (srcBi b) (BitVec.ofNat 9 (cond.toNat * 8 + comb.toNat * 128)) (srcImm b))
  | .fcvt h rnd d a src dst cnt acc => some (aWord h 0x40a d a 0 false (BitVec.ofNat 9 (rnd.toNat * 1)) (BitVec.ofNat 32 (src.toNat * 1 + dst.toNat * 256 + cnt.toNat * 65536 + acc.toNat * 131072)))
  | .fclass h d a => some (aWord h 0x40b d a 0 false 0 0)
  | .vadd h d a b => some (aWord h 0x500 d a (srcFld b) (srcBi b) 0 (srcImm b))
  | .vsub h d a b => some (aWord h 0x501 d a (srcFld b) (srcBi b) 0 (srcImm b))
  | .vmul h d a b => some (aWord h 0x502 d a (srcFld b) (srcBi b) 0 (srcImm b))
  | .vmad h d a b c => some (aWord h 0x503 d a b false 0 (BitVec.ofNat 32 (c.toNat * 1)))
  | .vand h d a b => some (aWord h 0x504 d a (srcFld b) (srcBi b) 0 (srcImm b))
  | .vor h d a b => some (aWord h 0x505 d a (srcFld b) (srcBi b) 0 (srcImm b))
  | .vxor h d a b => some (aWord h 0x506 d a (srcFld b) (srcBi b) 0 (srcImm b))
  | .vshl h d a b => some (aWord h 0x507 d a (srcFld b) (srcBi b) 0 (srcImm b))
  | .vshr h d a b => some (aWord h 0x508 d a (srcFld b) (srcBi b) 0 (srcImm b))
  | .vsar h d a b => some (aWord h 0x509 d a (srcFld b) (srcBi b) 0 (srcImm b))
  | .vmin h lt d a b => some (aWord h 0x50a d a (srcFld b) (srcBi b) (BitVec.ofNat 9 (lt.toNat * 1)) (srcImm b))
  | .vmax h lt d a b => some (aWord h 0x50b d a (srcFld b) (srcBi b) (BitVec.ofNat 9 (lt.toNat * 1)) (srcImm b))
  | .vcmp h lt cond d a b => some (aWord h 0x50c d a (srcFld b) (srcBi b) (BitVec.ofNat 9 (lt.toNat * 1 + cond.toNat * 16)) (srcImm b))
  | .vsel h d a b c => some (aWord h 0x50d d a b false 0 (BitVec.ofNat 32 (c.toNat * 1)))
  | .vbcast h d a => some (aWord h 0x50e d a 0 false 0 0)
  | .vext h lt d a b => some (aWord h 0x50f d a (srcFld b) (srcBi b) (BitVec.ofNat 9 (lt.toNat * 1)) (srcImm b))
  | .vins h d a b => some (aWord h 0x510 d a (srcFld b) (srcBi b) 0 (srcImm b))
  | .vperm h d a b => some (aWord h 0x511 d a b false 0 0)
  | .vredadd h lt d a => some (aWord h 0x512 d a 0 false (BitVec.ofNat 9 (lt.toNat * 1)) 0)
  | .vredmin h lt d a => some (aWord h 0x513 d a 0 false (BitVec.ofNat 9 (lt.toNat * 1)) 0)
  | .vredmax h lt d a => some (aWord h 0x514 d a 0 false (BitVec.ofNat 9 (lt.toNat * 1)) 0)
  | .vscan h ex d a => some (aWord h 0x515 d a 0 false (BitVec.ofNat 9 (ex.toNat * 16)) 0)
  | .viota h d a b => some (aWord h 0x516 d a (srcFld b) (srcBi b) 0 (srcImm b))
  | .vfadd h rnd d a b => some (aWord h 0x600 d a (srcFld b) (srcBi b) (BitVec.ofNat 9 (rnd.toNat * 1)) (srcImm b))
  | .vfsub h rnd d a b => some (aWord h 0x601 d a (srcFld b) (srcBi b) (BitVec.ofNat 9 (rnd.toNat * 1)) (srcImm b))
  | .vfmul h rnd d a b => some (aWord h 0x602 d a (srcFld b) (srcBi b) (BitVec.ofNat 9 (rnd.toNat * 1)) (srcImm b))
  | .vffma h rnd d a b c => some (aWord h 0x603 d a b false (BitVec.ofNat 9 (rnd.toNat * 1)) (BitVec.ofNat 32 (c.toNat * 1)))
  | .vfmin h p rnd d a b => some (aWord h 0x604 d a (srcFld b) (srcBi b) (BitVec.ofNat 9 (p.toNat * 8 + rnd.toNat * 1)) (srcImm b))
  | .vfmax h p rnd d a b => some (aWord h 0x605 d a (srcFld b) (srcBi b) (BitVec.ofNat 9 (p.toNat * 8 + rnd.toNat * 1)) (srcImm b))
  | .vfcmp h cond d a b => some (aWord h 0x606 d a (srcFld b) (srcBi b) (BitVec.ofNat 9 (cond.toNat * 8)) (srcImm b))
  | .vfred h op rnd d a => some (aWord h 0x607 d a 0 false (BitVec.ofNat 9 (op.toNat * 8 + rnd.toNat * 1)) 0)
  | .vfcvt h rnd d a src dst => some (aWord h 0x608 d a 0 false (BitVec.ofNat 9 (rnd.toNat * 1)) (BitVec.ofNat 32 (src.toNat * 1 + dst.toNat * 256)))
  | .vfpack h rnd d a b fcode sel sc cnt acc => some (aWord h 0x609 d a b false (BitVec.ofNat 9 (rnd.toNat * 1)) (BitVec.ofNat 32 (fcode.toNat * 1 + sel.toNat * 16 + sc.toNat * 64 + cnt.toNat * 65536 + acc.toNat * 131072)))
  | .vfunpk h rnd d a b fcode sel sc => some (aWord h 0x60a d a b false (BitVec.ofNat 9 (rnd.toNat * 1)) (BitVec.ofNat 32 (fcode.toNat * 1 + sel.toNat * 16 + sc.toNat * 64)))
  | .vfscale h rnd d a b => some (aWord h 0x60b d a (srcFld b) (srcBi b) (BitVec.ofNat 9 (rnd.toNat * 1)) (srcImm b))
  | .vfex2 h rnd d a => some (aWord h 0x60c d a 0 false (BitVec.ofNat 9 (rnd.toNat * 1)) 0)
  | .vfrsq h rnd d a => some (aWord h 0x60d d a 0 false (BitVec.ofNat 9 (rnd.toNat * 1)) 0)
  | .addPform h sd sa sb v => some (pWord h { sop := 0, sd := sd, sa := sa, sb := sb } v)
  | .subPform h sd sa sb v => some (pWord h { sop := 1, sd := sd, sa := sa, sb := sb } v)
  | .mulPform h sd sa sb v => some (pWord h { sop := 2, sd := sd, sa := sa, sb := sb } v)
  | .mulhPform h sd sa sb v => some (pWord h { sop := 3, sd := sd, sa := sa, sb := sb } v)
  | .mulhnPform h sd sa sb v => some (pWord h { sop := 4, sd := sd, sa := sa, sb := sb } v)
  | .divPform h sd sa sb v => some (pWord h { sop := 5, sd := sd, sa := sa, sb := sb } v)
  | .divnPform h sd sa sb v => some (pWord h { sop := 6, sd := sd, sa := sa, sb := sb } v)
  | .remPform h sd sa sb v => some (pWord h { sop := 7, sd := sd, sa := sa, sb := sb } v)
  | .remnPform h sd sa sb v => some (pWord h { sop := 8, sd := sd, sa := sa, sb := sb } v)
  | .andPform h sd sa sb v => some (pWord h { sop := 9, sd := sd, sa := sa, sb := sb } v)
  | .orPform h sd sa sb v => some (pWord h { sop := 10, sd := sd, sa := sa, sb := sb } v)
  | .xorPform h sd sa sb v => some (pWord h { sop := 11, sd := sd, sa := sa, sb := sb } v)
  | .andnPform h sd sa sb v => some (pWord h { sop := 12, sd := sd, sa := sa, sb := sb } v)
  | .ornPform h sd sa sb v => some (pWord h { sop := 13, sd := sd, sa := sa, sb := sb } v)
  | .shlPform h sd sa sb v => some (pWord h { sop := 14, sd := sd, sa := sa, sb := sb } v)
  | .shrPform h sd sa sb v => some (pWord h { sop := 15, sd := sd, sa := sa, sb := sb } v)
  | .sarPform h sd sa sb v => some (pWord h { sop := 16, sd := sd, sa := sa, sb := sb } v)
  | .rolPform h sd sa sb v => some (pWord h { sop := 17, sd := sd, sa := sa, sb := sb } v)
  | .minPform h sd sa sb v => some (pWord h { sop := 18, sd := sd, sa := sa, sb := sb } v)
  | .maxPform h sd sa sb v => some (pWord h { sop := 19, sd := sd, sa := sa, sb := sb } v)
  | .minnPform h sd sa sb v => some (pWord h { sop := 20, sd := sd, sa := sa, sb := sb } v)
  | .maxnPform h sd sa sb v => some (pWord h { sop := 21, sd := sd, sa := sa, sb := sb } v)
  | .clzPform h sd sa sb v => some (pWord h { sop := 22, sd := sd, sa := sa, sb := sb } v)
  | .ctzPform h sd sa sb v => some (pWord h { sop := 23, sd := sd, sa := sa, sb := sb } v)
  | .popcPform h sd sa sb v => some (pWord h { sop := 24, sd := sd, sa := sa, sb := sb } v)
  | .brevPform h sd sa sb v => some (pWord h { sop := 25, sd := sd, sa := sa, sb := sb } v)
  | .bswapPform h sd sa sb v => some (pWord h { sop := 26, sd := sd, sa := sa, sb := sb } v)
  | .movPform h sd sa sb v => some (pWord h { sop := 30, sd := sd, sa := sa, sb := sb } v)
  | .madPform h sd sa sb v => some (pWord h { sop := 34, sd := sd, sa := sa, sb := sb } v)
  | .vaddPform h vd va vb vc ty rm x => some (pWord h x { vop := 0, vd := vd, va := va, vb := vb, vc := vc, ty := ty, rm := rm })
  | .vsubPform h vd va vb vc ty rm x => some (pWord h x { vop := 1, vd := vd, va := va, vb := vb, vc := vc, ty := ty, rm := rm })
  | .vmulPform h vd va vb vc ty rm x => some (pWord h x { vop := 2, vd := vd, va := va, vb := vb, vc := vc, ty := ty, rm := rm })
  | .vmadPform h vd va vb vc ty rm x => some (pWord h x { vop := 3, vd := vd, va := va, vb := vb, vc := vc, ty := ty, rm := rm })
  | .vandPform h vd va vb vc ty rm x => some (pWord h x { vop := 4, vd := vd, va := va, vb := vb, vc := vc, ty := ty, rm := rm })
  | .vorPform h vd va vb vc ty rm x => some (pWord h x { vop := 5, vd := vd, va := va, vb := vb, vc := vc, ty := ty, rm := rm })
  | .vxorPform h vd va vb vc ty rm x => some (pWord h x { vop := 6, vd := vd, va := va, vb := vb, vc := vc, ty := ty, rm := rm })
  | .vshlPform h vd va vb vc ty rm x => some (pWord h x { vop := 7, vd := vd, va := va, vb := vb, vc := vc, ty := ty, rm := rm })
  | .vshrPform h vd va vb vc ty rm x => some (pWord h x { vop := 8, vd := vd, va := va, vb := vb, vc := vc, ty := ty, rm := rm })
  | .vsarPform h vd va vb vc ty rm x => some (pWord h x { vop := 9, vd := vd, va := va, vb := vb, vc := vc, ty := ty, rm := rm })
  | .vminPform h vd va vb vc ty rm x => some (pWord h x { vop := 10, vd := vd, va := va, vb := vb, vc := vc, ty := ty, rm := rm })
  | .vmaxPform h vd va vb vc ty rm x => some (pWord h x { vop := 11, vd := vd, va := va, vb := vb, vc := vc, ty := ty, rm := rm })
  | .vpermPform h vd va vb vc ty rm x => some (pWord h x { vop := 17, vd := vd, va := va, vb := vb, vc := vc, ty := ty, rm := rm })
  | .vscanPform h vd va vb vc ty rm x => some (pWord h x { vop := 21, vd := vd, va := va, vb := vb, vc := vc, ty := ty, rm := rm })
  | .vfaddPform h vd va vb vc ty rm x => some (pWord h x { vop := 64, vd := vd, va := va, vb := vb, vc := vc, ty := ty, rm := rm })
  | .vfsubPform h vd va vb vc ty rm x => some (pWord h x { vop := 65, vd := vd, va := va, vb := vb, vc := vc, ty := ty, rm := rm })
  | .vfmulPform h vd va vb vc ty rm x => some (pWord h x { vop := 66, vd := vd, va := va, vb := vb, vc := vc, ty := ty, rm := rm })
  | .vffmaPform h vd va vb vc ty rm x => some (pWord h x { vop := 67, vd := vd, va := va, vb := vb, vc := vc, ty := ty, rm := rm })
  | .vfminPform h vd va vb vc ty rm x => some (pWord h x { vop := 68, vd := vd, va := va, vb := vb, vc := vc, ty := ty, rm := rm })
  | .vfmaxPform h vd va vb vc ty rm x => some (pWord h x { vop := 69, vd := vd, va := va, vb := vb, vc := vc, ty := ty, rm := rm })
  | .vfscalePform h vd va vb vc ty rm x => some (pWord h x { vop := 75, vd := vd, va := va, vb := vb, vc := vc, ty := ty, rm := rm })
  | .vfex2Pform h vd va vb vc ty rm x => some (pWord h x { vop := 76, vd := vd, va := va, vb := vb, vc := vc, ty := ty, rm := rm })
  | .vfrsqPform h vd va vb vc ty rm x => some (pWord h x { vop := 77, vd := vd, va := va, vb := vb, vc := vc, ty := ty, rm := rm })
  | .ld h f d a disp => some (aWord h 0x700 d a 0 false (BitVec.ofNat 9 (f.mty.toNat * 1 + f.l.toNat * 16 + f.raw.toNat * 32 + f.ord.toNat * 64)) disp)
  | .st h f a b disp => some (aWord h 0x701 0 a b false (BitVec.ofNat 9 (f.mty.toNat * 1 + f.l.toNat * 16 + f.raw.toNat * 32 + f.ord.toNat * 64)) disp)
  | .vld h f d a disp => some (aWord h 0x702 d a 0 false (BitVec.ofNat 9 (f.mty.toNat * 1 + f.l.toNat * 16 + f.raw.toNat * 32 + f.ord.toNat * 64)) disp)
  | .vst h f a b disp => some (aWord h 0x703 0 a b false (BitVec.ofNat 9 (f.mty.toNat * 1 + f.l.toNat * 16 + f.raw.toNat * 32 + f.ord.toNat * 64)) disp)
  | .vlds h f d a b disp => some (aWord h 0x704 d a b false (BitVec.ofNat 9 (f.mty.toNat * 1 + f.l.toNat * 16 + f.raw.toNat * 32 + f.ord.toNat * 64)) disp)
  | .vsts h f d a b disp => some (aWord h 0x705 d a b false (BitVec.ofNat 9 (f.mty.toNat * 1 + f.l.toNat * 16 + f.raw.toNat * 32 + f.ord.toNat * 64)) disp)
  | .hold h a disp => some (aWord h 0x706 0 a 0 false 0 disp)
  | .pin h d a disp => some (aWord h 0x707 d a 0 false 0 disp)
  | .unpin h d a disp => some (aWord h 0x708 d a 0 false 0 disp)
  | .lsfmt h a fcode n1 => some (aWord h 0x709 0 a 0 false 0 (BitVec.ofNat 32 (fcode.toNat * 1 + n1.toNat * 256)))
  | .ldf h scope l d a disp => some (aWord h 0x800 d a 0 false (BitVec.ofNat 9 (scope.toNat * 32 + l.toNat * 16)) disp)
  | .lde h scope l d a disp => some (aWord h 0x801 d a 0 false (BitVec.ofNat 9 (scope.toNat * 32 + l.toNat * 16)) disp)
  | .stf h scope l a b disp => some (aWord h 0x802 0 a b false (BitVec.ofNat 9 (scope.toNat * 32 + l.toNat * 16)) disp)
  | .sto h scope l a b disp => some (aWord h 0x803 0 a b false (BitVec.ofNat 9 (scope.toNat * 32 + l.toNat * 16)) disp)
  | .clrf h l a disp => some (aWord h 0x804 0 a 0 false (BitVec.ofNat 9 (l.toNat * 16)) disp)
  | .aadd h f d a b disp => some (aWord h 0x805 d a b false (BitVec.ofNat 9 (f.ty.toNat * 1 + f.ord.toNat * 4 + f.l.toNat * 16 + f.scope.toNat * 32)) disp)
  | .acas h f d a b disp => some (aWord h 0x806 d a b false (BitVec.ofNat 9 (f.ty.toNat * 1 + f.ord.toNat * 4 + f.l.toNat * 16 + f.scope.toNat * 32)) disp)
  | .axchg h f d a b disp => some (aWord h 0x807 d a b false (BitVec.ofNat 9 (f.ty.toNat * 1 + f.ord.toNat * 4 + f.l.toNat * 16 + f.scope.toNat * 32)) disp)
  | .amin h f d a b disp => some (aWord h 0x808 d a b false (BitVec.ofNat 9 (f.ty.toNat * 1 + f.ord.toNat * 4 + f.l.toNat * 16 + f.scope.toNat * 32)) disp)
  | .amax h f d a b disp => some (aWord h 0x809 d a b false (BitVec.ofNat 9 (f.ty.toNat * 1 + f.ord.toNat * 4 + f.l.toNat * 16 + f.scope.toNat * 32)) disp)
  | .aand h f d a b disp => some (aWord h 0x80a d a b false (BitVec.ofNat 9 (f.ty.toNat * 1 + f.ord.toNat * 4 + f.l.toNat * 16 + f.scope.toNat * 32)) disp)
  | .aor h f d a b disp => some (aWord h 0x80b d a b false (BitVec.ofNat 9 (f.ty.toNat * 1 + f.ord.toNat * 4 + f.l.toNat * 16 + f.scope.toNat * 32)) disp)
  | .axor h f d a b disp => some (aWord h 0x80c d a b false (BitVec.ofNat 9 (f.ty.toNat * 1 + f.ord.toNat * 4 + f.l.toNat * 16 + f.scope.toNat * 32)) disp)
  | .fence h kind scope => some (aWord h 0x80d 0 0 0 false (BitVec.ofNat 9 (kind.toNat * 4 + scope.toNat * 32)) 0)
  | .xfence h scope mask => some (aWord h 0x80e 0 0 0 false (BitVec.ofNat 9 (scope.toNat * 32)) (BitVec.ofNat 32 (mask.toNat * 1)))
  | .bexp h scope l d a b disp => some (aWord h 0x80f d a b false (BitVec.ofNat 9 (scope.toNat * 32 + l.toNat * 16)) disp)
  | .barv h scope l a b disp => some (aWord h 0x810 0 a b false (BitVec.ofNat 9 (scope.toNat * 32 + l.toNat * 16)) disp)
  | .bwait h scope l a b disp => some (aWord h 0x811 0 a b false (BitVec.ofNat 9 (scope.toNat * 32 + l.toNat * 16)) disp)
  | .wbind h l d a disp => some (aWord h 0x900 d a 0 false (BitVec.ofNat 9 (l.toNat * 16)) disp)
  | .wret h a => some (aWord h 0x901 0 a 0 false 0 0)
  | .wld h mty raw d a b => some (aWord h 0x902 d a b false (BitVec.ofNat 9 (mty.toNat * 1 + raw.toNat * 32)) 0)
  | .wst h mty raw d a b => some (aWord h 0x903 d a b false (BitVec.ofNat 9 (mty.toNat * 1 + raw.toNat * 32)) 0)
  | .wvld h mty raw d a b n1 => some (aWord h 0x904 d a b false (BitVec.ofNat 9 (mty.toNat * 1 + raw.toNat * 32)) (BitVec.ofNat 32 (n1.toNat * 1)))
  | .wvst h mty raw d a b n1 => some (aWord h 0x905 d a b false (BitVec.ofNat 9 (mty.toNat * 1 + raw.toNat * 32)) (BitVec.ofNat 32 (n1.toNat * 1)))
  | .wqry h d a sel => some (aWord h 0x906 d a 0 false 0 (BitVec.ofNat 32 (sel.toNat * 1)))
  | .wadj h d a => some (aWord h 0x907 d a 0 false 0 0)
  | .wfoot h d a sel => some (aWord h 0x908 d a 0 false 0 (BitVec.ofNat 32 (sel.toNat * 1)))
  | .mzero h d tg => some (aWord h 0xa00 d 0 0 false 0 (BitVec.ofNat 32 (tg.tge.toNat * 4194304 + tg.tm.toNat * 8388608 + tg.tbit.toNat * 67108864)))
  | .mma h d a b ta tb l ng1 kg tg => some (aWord h 0xa01 d a b false (BitVec.ofNat 9 (ta.toNat * 1 + tb.toNat * 4 + l.toNat * 16)) (BitVec.ofNat 32 (ng1.toNat * 1 + kg.toNat * 16 + tg.tge.toNat * 4194304 + tg.tm.toNat * 8388608 + tg.tbit.toNat * 67108864)))
  | .mmas h d a b ta tb l ng1 kg tg => some (aWord h 0xa02 d a b false (BitVec.ofNat 9 (ta.toNat * 1 + tb.toNat * 4 + l.toNat * 16)) (BitVec.ofNat 32 (ng1.toNat * 1 + kg.toNat * 16 + tg.tge.toNat * 4194304 + tg.tm.toNat * 8388608 + tg.tbit.toNat * 67108864)))
  | .mld h d a b ty tg => some (aWord h 0xa03 d a b false (BitVec.ofNat 9 (ty.toNat * 1)) (BitVec.ofNat 32 (tg.tge.toNat * 4194304 + tg.tm.toNat * 8388608 + tg.tbit.toNat * 67108864)))
  | .mst h d a b rnd ty tg => some (aWord h 0xa04 d a b false (BitVec.ofNat 9 (rnd.toNat * 1 + ty.toNat * 8)) (BitVec.ofNat 32 (tg.tge.toNat * 4194304 + tg.tm.toNat * 8388608 + tg.tbit.toNat * 67108864)))
  | .msst h d a b c rnd ty l tg => some (aWord h 0xa05 d a b false (BitVec.ofNat 9 (rnd.toNat * 1 + ty.toNat * 8 + l.toNat * 32)) (BitVec.ofNat 32 (c.toNat * 1 + tg.tge.toNat * 4194304 + tg.tm.toNat * 8388608 + tg.tbit.toNat * 67108864)))
  | .madd h d a kg tg => some (aWord h 0xa06 d a 0 false 0 (BitVec.ofNat 32 (kg.toNat * 16 + tg.tge.toNat * 4194304 + tg.tm.toNat * 8388608 + tg.tbit.toNat * 67108864)))
  | .mstat h d a => some (aWord h 0xa07 d a 0 false 0 0)
  | .mclrs h a => some (aWord h 0xa08 0 a 0 false 0 0)
  | .mtm h d a => some (aWord h 0xa09 d a 0 false 0 0)
  | .mtmRd h d a => some (aWord h 0xa09 d a 0 false (BitVec.ofNat 9 (1)) 0)
  | .mtmgSet h d a n => some (aWord h 0xa0a d a 0 false 0 (BitVec.ofNat 32 (n.toNat * 1)))
  | .mtmgClr h d a n => some (aWord h 0xa0a d a 0 false (BitVec.ofNat 9 (1)) (BitVec.ofNat 32 (n.toNat * 1)))
  | .msync h => some (aWord h 0xa0b 0 0 0 false 0 0)
  | .cpy h d a b out l bc bar => some (aWord h 0xb00 d a b false (BitVec.ofNat 9 (out.toNat * 1 + l.toNat * 2 + bc.toNat * 4)) (BitVec.ofNat 32 (bar.toNat * 1)))
  | .cpyq h d a b => some (aWord h 0xb01 d a b false 0 0)
  | .gath h mty raw d a b mask => some (aWord h 0xb02 d a b false (BitVec.ofNat 9 (mty.toNat * 1 + raw.toNat * 32)) (BitVec.ofNat 32 (mask.toNat * 1)))
  | .scat h mty raw d a b mask => some (aWord h 0xb03 d a b false (BitVec.ofNat 9 (mty.toNat * 1 + raw.toNat * 32)) (BitVec.ofNat 32 (mask.toNat * 1)))
  | .scadd h ty d a b mask => some (aWord h 0xb04 d a b false (BitVec.ofNat 9 (ty.toNat * 1)) (BitVec.ofNat 32 (mask.toNat * 1)))
  | .rbar h ty scope a b n => some (aWord h 0xb05 0 a b false (BitVec.ofNat 9 (ty.toNat * 1 + scope.toNat * 16)) (BitVec.ofNat 32 (n.toNat * 1)))
  | .ship h rout w u d a b c => some (aWord h 0xb06 d a b false (BitVec.ofNat 9 (rout.toNat * 1 + w.toNat * 16 + u.toNat * 32)) (BitVec.ofNat 32 (c.toNat * 1)))
  | .qpush h d a b disp => some (aWord h 0xc00 d a b false 0 disp)
  | .qpop h d a b disp => some (aWord h 0xc01 d a b false 0 disp)
  | .qpeek h d a b disp => some (aWord h 0xc02 d a b false 0 disp)
  | .qclose h a => some (aWord h 0xc03 0 a 0 false 0 0)
  | .qstat h d a => some (aWord h 0xc04 d a 0 false 0 0)
  | .chbind h d a => some (aWord h 0xc05 d a 0 false 0 0)
  | .chstat h d a => some (aWord h 0xc06 d a 0 false 0 0)
  | .semw h scope a b => some (aWord h 0xc07 0 a b false (BitVec.ofNat 9 (scope.toNat * 32)) 0)
  | .sems h scope a b => some (aWord h 0xc08 0 a b false (BitVec.ofNat 9 (scope.toNat * 32)) 0)
  | .bar h scope l a b disp => some (aWord h 0xc09 0 a b false (BitVec.ofNat 9 (scope.toNat * 32 + l.toNat * 16)) disp)
  | .trap h code => some (aWord h 0xd00 0 0 0 false 0 code)
  | .sys h d a svc => some (aWord h 0xd01 d a 0 false 0 (BitVec.ofNat 32 (svc.toNat * 1)))
  | .rfe h => some (aWord h 0xd02 0 0 0 false 0 0)
  | .cwget h d a idx => some (aWord h 0xd03 d a 0 false 0 (BitVec.ofNat 32 (idx.toNat * 1)))
  | .cwset h a b idx => some (aWord h 0xd04 0 a b false 0 (BitVec.ofNat 32 (idx.toNat * 1)))
  | .feat h d => some (aWord h 0xd05 d 0 0 false 0 0)
  | .exrd h d a idx => some (aWord h 0xd06 d a 0 false 0 (BitVec.ofNat 32 (idx.toNat * 1)))
  | .exwr h a b idx => some (aWord h 0xd07 0 a b false 0 (BitVec.ofNat 32 (idx.toNat * 1)))
  | .exres h a fin => some (aWord h 0xd08 0 a 0 false (BitVec.ofNat 9 (fin.toNat * 1)) 0)
  | .seed h a => some (aWord h 0xd09 0 a 0 false 0 0)
  | .idle h d b => some (aWord h 0xd0a d 0 b false 0 0)

/-- The 96-bit word of an instruction; none for an event. -/
def encode (i : Instr) : Option (BitVec 96) := (encodeNat i).map (BitVec.ofNat 96)

/-- The 96-bit word stored in 12 bytes as three little-endian 32-bit words (R96). -/
def wordOfBytes : List Byte → Nat
  | [] => 0
  | b :: bs => b.toNat + 256 * wordOfBytes bs

/-- The bytes of a word in storage order (R96), `n` of them. -/
def bytesOfWord : Nat → Nat → List Byte
  | 0, _ => []
  | n + 1, x => BitVec.ofNat 8 x :: bytesOfWord n (x / 256)

/-- The instruction that the decoder reads from the low `nbits` bits of `w`, every higher bit zero. -/
def decodeTableWord (nbits w : Nat) : Option Instr :=
  match decodeWord (BitVec.ofNat 96 (wordOfBytes (bytesOfWord 12 (w % 2 ^ nbits)))) with
  | .ok i => some i
  | .error _ => none

end Sys2Proof
end

