-- ==== Sys2Proof/Machine/Interrupt.lean ====
section
/-! DEFINITION. How fronds and jobs are interrupted: pending causes (R370 to R374), the firmware's answers (R376,
R377), messages to supervisors (R373, R375), urgent swaps (R131 to R133, R380, R381), gang switching (R383 to
R385), and hangs (R386, R387). -/

namespace Sys2Proof.Machine

/-! ## Pending causes -/

/-- A word at which a pending STOREERR is taken: one with SW = 1, whether or not it is an instruction, or one of those that
R372 names. -/
def eligibleWord (word : Nat) : Bool :=
  word.testBit 88 || match decodeNat word with
    | .ok (.fence _ _ _) => true
    | .ok (.xfence _ _ _) => true
    | .ok (.wret _ _) => true
    | .ok (.msync _) => true
    | .ok (.join _ _ _) => true
    | .ok (.exit _) => true
    | _ => false

/-- The reason for which a word is not an instruction (R114). -/
def illegalReason (word : Nat) : Option Nat :=
  match decodeNat word with
  | .error r => some r
  | .ok _ => none

/-- The word to which a frond comes back as the first after a Waiting state in which a STOREERR was recorded, when a cause is
taken at the word at its PC (R372). -/
def keptBack (f : Frond) : Option Nat := if !f.hnd && f.errWait then some f.pc else f.errBack

/-- The cause that is taken at the next word of a frond before it issues, and the frond without it (R370). The precise
cause of a word waits for its own word while those before it are taken, and a word that is eligible for a STOREERR stays so
until it issues (R372). -/
def nextCause (s : State) (f : Frond) : Option (Cause × Frond) :=
  match f.late with
  | c :: cs => some (c, { f with late := cs, errBack := keptBack f })
  | [] =>
    let word := fetchedWord s f
    let eligible := !f.hnd && (f.errWait || f.errBack == some f.pc || (word.map eligibleWord).getD false)
    match (if eligible then f.storeErrs else []) with
    | e :: es =>
      some ({ code := causeSTOREERR, info := e }, { f with storeErrs := es, errWait := false, errBack := keptBack f })
    | [] =>
      match wordCause f with
      | some c => some (c, dropCause f)
      | none => (word.bind illegalReason).map (fun r => ({ code := causeILLEGAL, info := r }, f))

/-- The cause enters the handler of a frond, rather than halting it (R371). -/
def hasHandler (s : State) (f : Frond) (c : Cause) : Bool :=
  handlerCause c.code && !f.hnd && traphOf s f != 0

/-- The next cause of a frond is taken, when `p` holds of it: the word that its slot was refused is no longer the next
one (R122 rule 4). -/
def takeNext (s : State) (uid : Nat) (p : Frond → Cause → Bool) : Host.Outcome State Fault Refusal :=
  match findFrond s uid with
  | none => .refused .notEnabled
  | some f =>
    match nextCause s f with
    | none => .refused .notEnabled
    | some (c, g) =>
      if f.wait == .run && p f c then
        let r := takeCause (notOwed s f) g c.code c.info f.pc ((fetchedWord s f).getD 0)
        .next (updFrond r.1 uid (fun _ => r.2))
      else .refused .notEnabled

/-- HANDLER_ENTRY (R371). -/
def execHandlerEntry (s : State) : Host.Outcome State Fault Refusal :=
  match s.subject with
  | .frond uid => takeNext s uid (hasHandler s)
  | _ => .refused .notEnabled

/-- FRONDHALT (R374). -/
def execFrondhalt (s : State) : Host.Outcome State Fault Refusal :=
  match s.subject with
  | .frond uid => takeNext s uid (fun f c => !hasHandler s f c)
  | _ => .refused .notEnabled

/-! ## The firmware's answers -/

/-- FAULT_DOMAIN_END (R376, R378): the control firmware, as its supervisor, ends a Halted frond. -/
def execFaultDomainEnd (s : State) : Host.Outcome State Fault Refusal :=
  match s.subject with
  | .frond uid =>
    match findFrond s uid with
    | none => .refused .notEnabled
    | some f =>
      if f.wait == .halted && mayRun s f && (slotOf s f).isNone then .next (endDomain s f 0) else .refused .notEnabled
  | _ => .refused .notEnabled

/-- The cores bound to a frond's stage, not draining, that have a feature, in logical order (R377). -/
def featureCores (s : State) (f : Frond) (bit : Nat) : List Nat :=
  match findJob s f.jid with
  | none => []
  | some j => j.cores.filter (fun p =>
      let c := getCore s p
      boundTo c f.jid f.pl f.stage && !draining c && (featBits s p f.jid false).toNat.testBit bit)

/-- FEATURE_MIGRATE (R377). A frond that migrates does so under R231. One with held operands does not leave its slot
(R452), and is treated as a rooted one (log entry 90, DESIGN CHOICE). -/
def execFeatureMigrate (s : State) : Host.Outcome State Fault Refusal :=
  match s.subject with
  | .frond uid =>
    match findFrond s uid with
    | none => .refused .notEnabled
    | some f =>
      match (if mayRun s f then f.wait else .run) with
      | .feature bit =>
        match (if f.rooted || heldCount f != 0 then [] else featureCores s f bit) with
        | [] =>
          let word := (fetchedWord s f).getD 0
          let s := sendMessage s f (messageBits f 2 causeFEATURE bit f.pc word f.hnd)
          .next (endDomain s f 1)
        | home :: _ =>
          let used := (getCore s f.pcid).fwd.length
          if isFrozen s f || hasStores s uid || decide (32 ≤ used) || decide (32 < used + f.outs.length) then .refused .notEnabled
          else
            let t := s.clk + if dieOf home = dieOf f.pcid then 200 else 400
            let s := updCore s f.pcid (fun c => { c with fwd := c.fwd ++ f.outs.map (fun o => o.id) })
            let s := updFrond s uid (fun f =>
              { f with loc := .transit t none, pcid := home, claims := [], lastWalk := none })
            .next (refreshSpent s f.pcid)
      | _ => .refused .notEnabled
  | _ => .refused .notEnabled

/-! ## Messages -/

/-- The messages delivered to a slot so far. -/
def deliveredTo (j : Job) (slot : Nat) : Nat := ((j.delivered.find? (fun d => d.1 == slot)).map (·.2)).getD 0

/-- One more message has been delivered to a slot. -/
def noteDelivered (j : Job) (slot : Nat) : Job :=
  { j with delivered := (slot, (deliveredTo j slot + 1) % 2 ^ 32) :: j.delivered.filter (fun d => d.1 != slot) }

/-- KIND of a message. -/
def Msg.kind (m : Msg) : Nat := m.bits.toNat % 256

/-- The HANG of a job has been taken from its supervisor's slot, so that a new window begins (R387). -/
def hangTaken (s : State) (jid : Nat) : State :=
  updJob s jid (fun j => if j.hangSent then { j with hangSent := false, progress := s.clk } else j)

/-- The words of a message written to its slot: words 1 to 7, then word 0 as a `sto` (R373). -/
def writeMessage (s : State) (a v : Nat) : State :=
  let s := lsWritten (writePlace s (.ls (a + 8)) 56 (v / 2 ^ 64)) (a + 8) 56
  lsWritten (setSync (setLsWord s a (v % 2 ^ 64)) a true) a 8

/-- The port of a slot takes the stores of a message now: the slot's lines have landed, and no new request has reached
the slot in this cycle (R225, R347). -/
def slotTakes (s : State) (a : Nat) : Bool := arrived s s.fresh 0 (.ls a) 64 && !arrivedAt s a 64

/-- SUPERVISOR_MESSAGE (R373): message `k` of a job's waiting ones, the first for its slot. A message whose slot
no context of the job keeps goes to the firmware. -/
def execSupervisorMessage (s : State) : Host.Outcome State Fault Refusal :=
  match s.subject with
  | .element jid k =>
    match findJob s jid with
    | none => .refused .notEnabled
    | some j =>
      match j.phase, j.msgs[k]? with
      | .suspended _, _ => .refused .notEnabled
      | .resuming _, _ => .refused .notEnabled
      | _, none => .refused .notEnabled
      | _, some m =>
        if (j.msgs.take k).any (fun x => x.slot == m.slot) then .refused .notEnabled
        else
          let gone := updJob s jid (fun j => { j with msgs := j.msgs.eraseIdx k })
          match windowOk s jid m.slot with
          | none => .next (pendFirmware gone (dieOf m.pcid) 1)
          | some (p, o) =>
            let a := p * 2 ^ 20 + o
            if syncFull s a || !slotTakes s a then .refused .notEnabled
            else
              let v := m.bits.toNat + 2 ^ 32 * deliveredTo j m.slot
              let s := if m.slot = j.supv ∧ !(j.msgs.any (fun x => x.kind == 1)) then hangTaken gone jid else gone
              .next (writeMessage (updJob s jid (fun j => noteDelivered j m.slot)) a v)
  | _ => .refused .notEnabled

/-! ## Urgent swaps -/

/-- A swap request is no longer on its way. -/
def dropSwap (s : State) (pcid jid : Nat) : State :=
  { s with swaps := delFirst (fun x => x.pcid == pcid && x.jid == jid) s.swaps }

/-- An urgent frond of a core, but for those of its ready list, may issue from cycle `t` on. -/
def shadowFrom (pcid t : Nat) (f : Frond) : Frond :=
  if f.pcid = pcid ∧ f.loc ≠ .ready ∧ f.urgent then { f with notBefore := Nat.max f.notBefore t } else f

/-- SWAP_REQUEST (R131, R380). -/
def execSwapRequest (s : State) : Host.Outcome State Fault Refusal :=
  match s.subject with
  | .swap pcid jid =>
    let c := getCore s pcid
    let early := match c.swapBack with
      | some u => decide (s.clk < u + 48)
      | none => false
    if !(s.swaps.any (fun x => x.pcid == pcid && x.jid == jid)) then .refused .notEnabled
    else
      match c.urgent with
      | none => .next (dropSwap s pcid jid)
      | some u =>
        if u.jid ≠ jid then
          if (findJob s jid).isSome then .refused .notEnabled else .next (dropSwap s pcid jid)
        else if u.t.isSome then .next (dropSwap s pcid jid)
        else if early then .refused .notEnabled
        else
          let s := updCore (dropSwap s pcid jid) pcid (fun c =>
            { c with frozen := some s.clk, urgent := some { u with t := some s.clk } })
          .next { s with fronds := s.fronds.map (shadowFrom pcid (s.clk + 32)) }
  | _ => .refused .notEnabled

/-- A job holds a bound or urgent core in a cluster (R365). -/
def holdsIn (s : State) (cluster jid : Nat) : Bool :=
  s.cores.any (fun c => clusterOf c.pcid == cluster && ((c.bind.map (fun b => b.jid)) == some jid ||
    (c.urgent.map (fun u => u.jid)) == some jid))

/-- A job's run of semaphores in a cluster that it has left returns to firmware (R365). -/
def returnRun (s : State) (cluster jid : Nat) : State :=
  if holdsIn s cluster jid then s
  else { s with sems := s.sems.filter (fun r => !(r.cluster == cluster && r.jid == jid)) }

/-- An urgent context leaves a core, which swaps back if it had been swapped (R133, R365, R448). -/
def swapOut (s : State) (pcid : Nat) : State :=
  match (getCore s pcid).urgent with
  | some u =>
    let t := updCore s pcid (fun c =>
      { c with urgent := none, swapBack := if u.t.isSome then some s.clk else c.swapBack })
    returnRun t (clusterOf pcid) u.jid
  | none => s

/-- A frond of an urgent context remains on a core. -/
def urgentLeft (s : State) (pcid : Nat) : Bool := s.fronds.any (fun f => f.pcid == pcid && f.urgent)

/-- The stage of an urgent context has completed, or its job is over. -/
def urgentOver (s : State) (u : Urgent) : Bool :=
  match findJob s u.jid with
  | some j => !j.live || ((j.stage? u.pl u.stage).map (fun g => g.completed)).getD true
  | none => true

/-- SWAP_BACK (R133, R448): no frond of the urgent context remains on the core. A context whose stage has not completed
stays, and may ask for the core again. -/
def execSwapBack (s : State) : Host.Outcome State Fault Refusal :=
  match s.subject with
  | .core pcid =>
    match (getCore s pcid).urgent with
    | some u =>
      if urgentLeft s pcid then .refused .notEnabled
      else if urgentOver s u then .next (swapOut s pcid)
      else if u.t.isSome then
        .next (updCore s pcid (fun c => { c with urgent := some { u with t := none }, swapBack := some s.clk }))
      else .refused .notEnabled
    | none => .refused .notEnabled
  | _ => .refused .notEnabled

/-- The cycle in which an urgent quantum ends (R133). -/
def quantumEnd (s : State) (u : Urgent) : Option Nat :=
  u.t.map (fun t => t + Nat.min 4800000 (((findJob s u.jid).map (fun j => j.quantum)).getD 4800000))

/-- URGENT_QUANTUM_END (R381): the job's fronds end, it retires with status QUANTUM, and its cores swap back. -/
def execUrgentQuantumEnd (s : State) : Host.Outcome State Fault Refusal :=
  match s.subject with
  | .core pcid =>
    match (getCore s pcid).urgent with
    | none => .refused .notEnabled
    | some u =>
      match quantumEnd s u with
      | none => .refused .notEnabled
      | some t =>
        if s.clk < t || !urgentLeft s pcid then .refused .notEnabled
        else
          let errs := ((s.fronds.filter (fun f => f.jid == u.jid)).map (fun f => f.storeErrs.length + heldCount f)).sum
          let cores := (s.cores.filter (fun c => match c.urgent with
            | some v => v.jid == u.jid
            | none => false)).map (fun c => c.pcid)
          let s := beginRetire (addErrors s u.jid errs) u.jid (some 0x0E)
          .next (cores.foldl swapOut s)
  | _ => .refused .notEnabled

/-- The operations of thawed fronds are examined in their order (R132). One that matches is a write to its word, so that
the others that wait there are examined, but for those whose own turn is still to come (R347). -/
def thawWaits : List PortWait → State → State
  | [], s => s
  | w :: ws, s =>
    let others := (getCore s (w.word / 2 ^ 20)).waitList.filter (fun x => x.word == w.word && x.id != w.id
      && !waitFrozen s x && !ws.any (fun y => y.id == x.id))
    let t := examine s w
    thawWaits ws (if performsNow s w then others.foldl examine t else t)

/-- The waiting operations of Frozen fronds of a core are examined once when its main bank is active again, in
their order (R132), and the fronds are listed again from this cycle (R386). -/
def thaw (s : State) (pcid : Nat) : Option State :=
  let c := getCore s pcid
  match c.frozen, c.swapBack with
  | some t, some u =>
    if t ≤ u ∧ u + 32 ≤ s.clk then
      let s := updCore s pcid (fun c => { c with frozen := none })
      let mine := fun (f : Frond) => f.pcid == pcid && !f.urgent
      let s := { s with fronds := s.fronds.map (fun f => if mine f then { f with since := s.clk } else f) }
      let ws := s.cores.flatMap (fun k => k.waitList.filter (fun w => match findFrond s w.uid with
        | some f => mine f
        | none => false))
      some (thawWaits ws s)
    else none
  | _, _ => none

/-! ## The wait table and hangs -/

/-- The reason and object for which a frond is listed (R386). -/
def listing (s : State) (f : Frond) : Option (Nat × Nat) :=
  if isFrozen s f then none
  else
    match f.wait with
    | .park r obj _ => some (r, obj)
    | .chan n => some (10, 0x90 + n)
    | .resend _ id => (findFlight s id).bind (fun g => (g.elems.head?).map (fun e => match e.place with
      | .ls a => (6, (windowBase + a) % 2 ^ 48)
      | _ => (6, e.va % 2 ^ 48)))
    | .port id => s.cores.findSome? (fun c => c.holds.findSome? (fun q =>
        if q.waiters.any (fun w => w.proxy == some id) then some (0, q.block % 2 ^ 42) else none)
      <|> ((c.turned.find? (fun x => x.1 == id)).map (fun x => (0, x.2.1 % 2 ^ 42))))
    | _ => none

/-- An entry of a wait table (R386). -/
def tableEntry (f : Frond) (x : Nat × Nat) : BitVec 256 :=
  let slot := match f.loc with
    | .slot _ => 1
    | _ => 0
  BitVec.ofNat 256 (f.pc + 2 ^ 64 * (f.since % 2 ^ 64) + 2 ^ 136 * (x.2 % 2 ^ 48) + 2 ^ 187 * slot + 2 ^ 188 * x.1
    + 2 ^ 192 * f.jid + 2 ^ 208 * f.fid)

/-- The listed fronds of a cluster, in the order in which they were listed. -/
def clusterListed (s : State) (cluster : Nat) : List (Frond × Nat × Nat) :=
  sortBy (fun a b => decide (a.1.since ≤ b.1.since))
    ((s.fronds.filter (fun f => clusterOf f.pcid == cluster)).filterMap (fun f => (listing s f).map (fun x => (f, x))))

/-- The clusters of a job's fronds, by die and cluster. -/
def jobClusters (s : State) (jid : Nat) : List Nat :=
  (s.fronds.filter (fun f => f.jid == jid)).foldl (fun acc f => setAdd (clusterOf f.pcid) acc) []

/-- The snapshot of a job: its entries in the tables, by die, cluster and SINCE, and how many are left out of
full tables (R386, R387). -/
def snapshotOf (s : State) (jid : Nat) : List (BitVec 256) × Nat :=
  (jobClusters s jid).foldl (fun acc k =>
    let all := clusterListed s k
    let mine := fun (x : Frond × Nat × Nat) => x.1.jid == jid
    (acc.1 ++ ((all.take 2048).filter mine).map (fun x => tableEntry x.1 x.2),
      acc.2 + ((all.drop 2048).filter mine).length)) ([], 0)

/-- A queue's stream has work in flight: elements to push that fit, or elements to write (R32, R387). -/
def streamBusy (q : Queue) : Bool :=
  (q.prod == 0xF && !q.closed && !q.full) || (q.cons == 0xF && q.occupancy != 0)

/-- Every participant of a reduction phase has arrived (R275). -/
def Phase.complete (p : Phase) : Bool := p.parts.all (fun c => p.arrived.contains c)

/-- A core's carrel fill for a job is in flight: it has not failed, and its translation does not wait for the host's answer
(R223, R241). -/
def fillBusy (s : State) (c : Core) (jid : Nat) : Bool :=
  match c.fill with
  | some x => x.jid == jid && x.failed.isNone &&
    (x.ready || !s.walks.any (fun w => w.fill == some c.pcid && w.fault.isSome))
  | none => false

/-- Work of a job is in flight in an engine, the copy and reduction engines included, a stream, a fill or a `cpyq`
(R387). -/
def workInFlight (s : State) (j : Job) : Bool :=
  s.engines.any (fun e => e.queue.any (fun w => w.jid == j.jid))
    || s.copies.any (fun c => c.jid == j.jid)
    || s.phases.any (fun p => p.jid == j.jid && p.complete)
    || j.pipes.any (fun p => p.queues.any streamBusy)
    || s.cores.any (fun c => fillBusy s c j.jid)
    || s.copyqs.any (fun c => c.jid == j.jid && match theQueue s c.jid c.pl c.q with
      | some q => q.closed || !q.full
      | none => false)

/-- The conditions of a hang that hold in one cycle (R387). -/
def hangQuiet (s : State) (j : Job) : Bool :=
  s.fronds.all (fun f => f.jid != j.jid || (listing s f).isSome) && !workInFlight s j

/-- The hang window of a job has passed (R387). -/
def hangDue (s : State) (j : Job) : Bool :=
  j.phase == .running && !j.hangSent && hangQuiet s j && decide (j.progress + 2 ^ j.hangk ≤ s.clk)

/-- A message of KIND 1 (R375). -/
def hangBits (jid entries omitted : Nat) : BitVec 512 :=
  BitVec.ofNat 512 (1 + 2 ^ 8 * causeHANG + 2 ^ 16 * jid + 2 ^ 448 * entries + 2 ^ 480 * omitted)

/-- The die whose firmware supervises a job: that of its first logical core. -/
def jobDie (j : Job) : Nat := ((j.cores.head?).map dieOf).getD 0

/-- HANG (R387). -/
def execHang (s : State) : Host.Outcome State Fault Refusal :=
  match s.subject with
  | .job jid =>
    match findJob s jid with
    | none => .refused .notEnabled
    | some j =>
      if !hangDue s j then .refused .notEnabled
      else
        let x := snapshotOf s jid
        let s := updJob s jid (fun j => { j with snapshot := x.1, hangSent := true })
        match supervisorSlot s jid j.supv with
        | none => .next (beginRetire (pendFirmware s (jobDie j) 1) jid (some 0x0D))
        | some slot =>
          let m : Msg := { slot := slot, pcid := (slot - windowBase) / 2 ^ 20
                           bits := hangBits jid x.1.length x.2 }
          .next (updJob s jid (fun j => { j with msgs := j.msgs ++ [m] }))
  | _ => .refused .notEnabled

/-! ## Ownership of engines -/

/-- The job that owns the engine of a tile now: that of the lowest core of the tile bound to a stage whose mask
has bit 0 (R279). -/
def engineOwner (s : State) (tile : Nat) : Option Nat :=
  (List.range 4).findSome? (fun i =>
    match (getCore s (4 * tile + i)).bind with
    | none => none
    | some b =>
      match (findJob s b.jid).bind (fun j => j.stage? b.pl b.stage) with
      | some g => if g.feat.getLsbD 0 then some b.jid else none
      | none => none)

/-- The ownership of a tile's engine brought up to date. The counters go to the job that loses it, and its set is
cleared; while words of that job are still queued, both wait until the next job's first word (R279, R402). -/
def refreshEngine (s : State) (tile : Nat) : State :=
  let o := engineOwner s tile
  let e := getEngine s tile
  if e.owner = o then s
  else if e.queue.any (fun w => !w.urgent) then updEngine s tile (fun e => { e with owner := o, passed := true })
  else
    let s := match e.mainJob with
      | some j => addCounters s j e.main
      | none => s
    updEngine s tile (fun e => { e with owner := o, main := EngSet.clear, mainJob := none, passed := false })

/-- The binding of a core changed, with the engine of its tile. -/
def setBind (s : State) (pcid : Nat) (b : Option Bind) : State :=
  refreshEngine (updCore s pcid (fun c => { c with bind := b })) (tileOf pcid)

/-! ## Gang switching -/

/-- An access of a job that a suspension waits for: neither one that a port has answered with no match, nor a
request of a word that has not issued (R383). -/
def movingFlight (jid : Nat) (g : Flight) : Bool :=
  g.jid == jid && !requestOnly g && !(match g.op with
    | .sync _ _ => g.first.isSome && g.elems.all (fun e => !e.performed)
    | _ => false)

/-- A frond of a suspending job has come to rest: no result of it is outstanding, no record of it travels, and no `exit`
or `join` of it is still to end it (R383). -/
def atRest (f : Frond) : Bool :=
  f.outs.isEmpty && f.wait != .exiting && f.wait != .joined && match f.loc with
    | .transit _ _ => false
    | _ => true

/-- The issued words of a job have been performed, and its engines and streams have finished (R383). -/
def drained (s : State) (j : Job) : Bool :=
  !s.flights.any (movingFlight j.jid) && !workInFlight s j && s.fronds.all (fun f => f.jid != j.jid || atRest f)
    && s.orphans.all (fun o => match findFrond s o.1 with
      | some f => f.jid != j.jid
      | none => true)
    && j.cores.all (fun p =>
      let c := getCore s p
      !c.steal.carries || decide (dequeCap c ≤ dequeCount c))

/-- Every block of a job is written back and its carrel freed, on one core; pin counts are kept (R383, R384). -/
def flushCore (s : State) (pcid : Nat) : State :=
  (List.range (getCore s pcid).carrels.length).foldl (fun s k =>
    match (getCore s pcid).carrels[k]? with
    | none => s
    | some x => x.dirty.foldl (writeBack pcid k x) s) s

/-- Some of `n` bytes at a local-store address lie in the areas of its core's urgent context (R448). -/
def inUrgent (s : State) (a n : Nat) : Bool :=
  match (getCore s (a / 2 ^ 20)).urgent with
  | some u => decide (u.begin_ < a % 2 ^ 20 + n ∧ a % 2 ^ 20 < u.top)
  | none => false

/-- `n` bytes at a local-store address lie on one of the cores, outside the areas of an urgent context (R448). -/
def onOwn (s : State) (cores : List Nat) (a n : Nat) : Bool := cores.contains (a / 2 ^ 20) && !inUrgent s a n

/-- A region of local store, by address / 0x4000, is a job's on one of the cores: it does not lie whole in the areas of an
urgent context (R184, R448). -/
def ownRegion (s : State) (cores : List Nat) (r : Nat) : Bool :=
  let a := r * blockSize
  cores.contains (a / 2 ^ 20) && !(match (getCore s (a / 2 ^ 20)).urgent with
    | some u => decide (u.begin_ ≤ a % 2 ^ 20 ∧ a % 2 ^ 20 + blockSize ≤ u.top)
    | none => false)

/-- The local-store bytes of a job's cores, but those of the carrels. -/
def savedBytes (s : State) (cores : List Nat) : List (Nat × Byte) :=
  s.ls.filter (fun b => onOwn s cores b.1 1 &&
    decide (b.1 % 2 ^ 20 < lsSize - blockSize * (getCore s (b.1 / 2 ^ 20)).carrels.length))

/-- The size of a suspension image (R384). -/
def imageSize (cores tiles : Nat) : Nat := 65536 + cores * 524288 + tiles * 266240

/-- The image written to memory, and counted (R227): the `pcid` table, then bytes that only an N9 of the same image reads, which R384
leaves open. Nothing is written in a marked granule (R447; log entry 18). -/
def writeImage (s : State) (addr : Nat) (cores : List Nat) (tiles : Nat) : State :=
  let n := imageSize cores.length tiles
  let byteAt := fun (i : Nat) =>
    if i < 2 * cores.length then BitVec.ofNat 8 (nth cores (i / 2) / 256 ^ (i % 2)) else Config.imageByte (s.choices + i)
  let put := fun (m : List (Nat × Byte)) (i : Nat) =>
    if poisoned s (addr + i) then m else mapPut 0 (addr + i) (byteAt i) m
  countBare { s with hbm := (List.range n).foldl put s.hbm, choices := s.choices + n } addr n

/-- The engines that a job owns, as its image holds them (R384). -/
def ownedTiles (s : State) (jid : Nat) : List Engine :=
  (s.engines.filter (fun e => e.owner == some jid)).map (fun e =>
    if e.holdsFor false jid then e else { e with main := EngSet.clear })

/-- The main sets that hold values of a job are cleared: their counters lie in its image, or go into its sums where it no
longer owns the engine (R279, R402). -/
def clearSets (jid : Nat) (s : State) : State :=
  let held := s.engines.filter (fun e => e.mainJob == some jid)
  let lost := held.filter (fun e => !(e.owner == some jid && e.holdsFor false jid))
  let s := lost.foldl (fun s e => addCounters s jid e.main) s
  { s with engines := s.engines.map (fun e =>
      let e := if e.mainJob = some jid then { e with main := EngSet.clear, mainJob := none, passed := false } else e
      if e.owner = some jid then { e with owner := none } else e) }

/-- A frond of a suspended job lies in its image. -/
def toImage (jid : Nat) (f : Frond) : Frond :=
  if f.jid = jid then { f with loc := .image f.slot?, claims := [], lastWalk := none } else f

/-- A waiting operation is one of a job's. -/
def waitOf (s : State) (jid : Nat) (w : PortWait) : Bool :=
  match findFrond s w.uid with
  | some f => f.jid == jid
  | none => false

/-- A core leaves its job, and keeps nothing of it. -/
def freeCore (jid : Nat) (s : State) (pcid : Nat) : State :=
  let c := getCore s pcid
  refreshEngine (setCore s { Core.fresh pcid with
    urgent := c.urgent, frozen := c.frozen, swapBack := c.swapBack, lost := c.lost, pipes := c.pipes
    owed := c.owed.filter (fun x => decide (64 ≤ x)), created := c.created.filter (fun x => x.1 != jid)
    waitList := c.waitList.filter (fun w => !waitOf s jid w) }) (tileOf pcid)

/-- The copies of a job's code, translations and walks are dropped (R92, R221). -/
def dropCached (s : State) (jid : Nat) : State :=
  { s with
      ilines := s.ilines.filter (fun l => l.jid != jid)
      ifills := s.ifills.filter (fun l => l.jid != jid)
      tstore := s.tstore.filter (fun t => t.jid != jid)
      walks := s.walks.filter (fun w => w.jid != jid) }

/-- An image with the job, and with what the machine keeps of it beside its cores, as they stand (R384, R446). -/
def keepWork (s : State) (jid : Nat) (img : Image) : Image :=
  let mine := (s.fronds.filter (fun f => f.jid == jid)).map (toImage jid)
  { img with
      job := findJob s jid, fronds := mine
      flights := s.flights.filter (fun g => g.jid == jid)
      phases := s.phases.filter (fun p => p.jid == jid)
      copyqs := s.copyqs.filter (fun c => c.jid == jid)
      catalogue := s.catalogue.filter (fun e => e.jid == jid)
      binds := s.binds.filter (fun b => mine.any (fun f => f.uid == b.uid))
      directory := s.directory.filter (fun d => d.jid == jid) }

/-- GANG_SUSPEND (R383, R384). -/
def execGangSuspend (s : State) : Host.Outcome State Fault Refusal :=
  match s.subject with
  | .job jid =>
    match findJob s jid with
    | none => .refused .notEnabled
    | some j =>
      match j.phase with
      | .suspending addr =>
        if !drained s j then .refused .notEnabled
        else
          let s := j.cores.foldl flushCore s
          let engines := ownedTiles s jid
          let mine := onOwn s j.cores
          let img : Image :=
            { jid := jid, addr := addr, cores := j.cores.map (getCore s), fronds := [], ls := savedBytes s j.cores
              empties := s.empties.filter (fun w => mine (8 * w) 8)
              marks := s.lsPoison.filter (fun g => mine (64 * g) 64)
              fmts := s.fmtMap.filter (fun r => ownRegion s j.cores r.1)
              job := none, flights := [], phases := [], copyqs := [], catalogue := [], binds := [], directory := []
              engines := engines, sems := s.sems.filter (fun r => r.jid == jid) }
          let img := keepWork s jid img
          let s := writeImage (clearSets jid s) addr j.cores engines.length
          let s := { s with
            images := s.images.filter (fun i => !(i.jid == jid && i.addr == addr)) ++ [img]
            fronds := s.fronds.map (toImage jid)
            ls := s.ls.filter (fun b => !mine b.1 1)
            empties := s.empties.filter (fun w => !mine (8 * w) 8)
            lsPoison := s.lsPoison.filter (fun g => !mine (64 * g) 64)
            sems := s.sems.filter (fun r => r.jid != jid) }
          let s := dropCached (j.cores.foldl (freeCore jid) s) jid
          .next (pendFirmware (updJob s jid (fun j => { j with phase := .suspended addr })) (jobDie j) 4)
      | _ => .refused .notEnabled
  | _ => .refused .notEnabled

end Sys2Proof.Machine
end

