-- ==== Sys2Proof/Machine/System.lean ====
section
/-! DEFINITION. Group 0xD (R388 to R397): traps and returns, services of the firmware, control words, the
supervisor's window, random streams and firmware events. -/

namespace Sys2Proof.Machine

/-- R389 `trap`. -/
def execTrap (h : Hints) (code : BitVec 32) (s : State) : Host.Outcome State Fault Refusal :=
  runWord { h := h, grp := 0xD, fields := [] } (do return .past causeUSER code.toNat) s

/-- R391 `sys`: the frond is Blocked until SYS_ANSWER. -/
def execSys (h : Hints) (d a : Opnd) (svc : BitVec 12) (s : State) : Host.Outcome State Fault Refusal :=
  runWord { h := h, grp := 0xD, fields := [fieldD .gonly d, fieldA .g a] } (do
    let x ← readG 1 a
    return .latch (.sys svc.toNat x (destOf d) h)) s

/-- R390 `rfe`. -/
def execRfe (h : Hints) (s : State) : Host.Outcome State Fault Refusal :=
  runWord { h := h, grp := 0xD, fields := [] } (do
    let f ← getF
    match returnFromHandler f with
    | .error c => throw (.trap c.code c.info)
    | .ok f' =>
      modF (fun _ => f')
      return .to f'.pc) s

/-! ## Control words (R394) -/

/-- Fuse floors and ceilings of the budget fields of R23, from REGS to MOVES. A ceiling that R23 gives by
another field is that field's own. -/
def fuseBounds : List (Nat × Nat) :=
  [(8, 128), (1, 4608), (1, 4608), (0, 16), (0, 262144), (16, 1024), (10, 24), (1024, 16777216), (0, 256)
  , (0, 256), (1, 64)]

/-- The floor (even) or ceiling (odd) of a budget word of a die: the last value written, or the fuses'. -/
def budgetWord (s : State) (die i : Nat) : Nat :=
  match s.budgets.find? (fun b => b.1 == die && b.2.1 == i) with
  | some b => b.2.2
  | none =>
    let f := fuseBounds.getD (i / 2) (0, 0)
    if i % 2 = 0 then f.1 else f.2

/-- A budget word written, at the nearer bound when the value lies outside the fuses'. -/
def setBudget (s : State) (die i v : Nat) : State :=
  let f := fuseBounds.getD (i / 2) (0, 0)
  let v := if v < f.1 then f.1 else if f.2 < v then f.2 else v
  { s with budgets := (die, i, v) :: s.budgets.filter (fun b => !(b.1 == die && b.2.1 == i)) }

/-- SUSPEND and RESUME as they read. -/
def phaseCode (p : JobPhase) : Nat :=
  match p with
  | .suspending _ => 1
  | .suspended _ => 2
  | .resuming _ => 3
  | _ => 0

/-- A control word of a job as it reads. -/
def jobWord (j : Job) (i : Nat) : Nat :=
  if i = 0 then j.quantum
  else if i = 1 then j.ferl
  else if i = 2 then j.fet
  else if i = 3 then j.hangk
  else if i = 0x30 then 0
  else phaseCode j.phase

/-- The budget words are die words. -/
def dieWord (i : Nat) : Bool := decide (0x10 ≤ i ∧ i ≤ 0x25)

/-- A value that a control word admits. -/
def controlRange (i v : Nat) : Bool :=
  if i = 0 then decide (1 ≤ v ∧ v ≤ 4800000)
  else if i = 1 then decide (1 ≤ v ∧ v ≤ 65535)
  else if i = 2 then decide (2 ^ 10 ≤ v ∧ v ≤ 2 ^ 32)
  else if i = 3 then decide (16 ≤ v ∧ v ≤ 30)
  else if i = 0x30 then decide (v < 2 ^ 13) && isCore v
  else if i = 0x40 || i = 0x41 then decide (v < 2 ^ 52) && v % 4096 == 0 && paExists v
  else true

/-- A control word of a job written. -/
def setJobWord (s : State) (jid i v : Nat) : State :=
  let up := fun g => updJob s jid g
  if i = 0 then up (fun j => { j with quantum := v })
  else if i = 1 then up (fun j => { j with ferl := v })
  else if i = 2 then up (fun j => { j with fet := v })
  else if i = 3 then up (fun j => { j with hangk := v })
  else if i = 0x30 then { s with swaps := s.swaps ++ [{ pcid := v, jid := jid }] }
  else if i = 0x40 then
    up (fun j => if j.phase == .running && !j.urgent then { j with phase := .suspending v } else j)
  else
    up (fun j => match j.phase with
      | .suspended _ => { j with phase := .resuming v }
      | _ => j)

/-- The live job that a per-job control word names. -/
def controlJob (a : Opnd) (x : Word) : M Job := do
  let c ← get
  match findJob c.s x.toNat with
  | none => throw (.trap causeOPERAND (operandInfo 5 1 a.toNat))
  | some j =>
    trapIf (!j.live) causeOPERAND (operandInfo 5 1 a.toNat)
    return j

/-- R394 `cwget`. -/
def execCwget (h : Hints) (d a : Opnd) (idx : BitVec 8) (s : State) : Host.Outcome State Fault Refusal :=
  runWord { h := h, grp := 0xD, fields := [fieldD .gonly d, fieldA .g a], priv := true } (do
    let x ← readG 1 a
    let c ← get
    if dieWord idx.toNat then
      writeG d (BitVec.ofNat 64 (budgetWord c.s (dieOf c.f.pcid) (idx.toNat - 0x10)))
    else
      let j ← controlJob a x
      writeG d (BitVec.ofNat 64 (jobWord j idx.toNat))
    return .seq) s

/-- R394 `cwset`. -/
def execCwset (h : Hints) (a b : Opnd) (idx : BitVec 8) (s : State) : Host.Outcome State Fault Refusal :=
  runWord { h := h, grp := 0xD, fields := [fieldA .g a, fieldB .g b], priv := true } (do
    let x ← readG 1 a
    let y ← readG 2 b
    let c ← get
    if dieWord idx.toNat then modS (fun s => setBudget s (dieOf c.f.pcid) (idx.toNat - 0x10) y.toNat)
    else
      let j ← controlJob a x
      trapIf (!controlRange idx.toNat y.toNat) causeOPERAND (operandInfo 5 2 b.toNat)
      modS (fun s => setJobWord s j.jid idx.toNat y.toNat)
    return .seq) s

/-- R392 `feat`. -/
def execFeat (h : Hints) (d : Opnd) (s : State) : Host.Outcome State Fault Refusal :=
  runWord { h := h, grp := 0xD, fields := [fieldD .gonly d] } (do
    let c ← get
    writeG d ((featBits c.s c.f.pcid c.f.jid c.f.urgent).setWidth 64)
    return .seq) s

/-! ## The supervisor's window (R395) -/

/-- An item of the window of a frond. -/
def windowItem (f : Frond) (i : Nat) : Word :=
  let halt := fun (g : Halt → Nat) => BitVec.ofNat 64 ((f.halt.map g).getD 0)
  if i < 0x80 then f.reg i
  else if i = 0x80 then BitVec.ofNat 64 f.pc
  else if i = 0x81 then f.epc
  else if i = 0x82 then f.ecause
  else if i = 0x83 then f.einfo
  else if i = 0x84 then fstRead f
  else if i = 0x85 then (f.preds ||| 1).setWidth 64
  else if i = 0x86 then f.sseed
  else if i = 0x87 then f.ix
  else if i = 0x88 then halt Halt.cause
  else if i = 0x89 then halt Halt.info
  else if i = 0x8A then halt Halt.pc
  else if i < 0x98 then
    BitVec.ofNat 64 (((f.loops[(i - 0x90) / 2]?).map levelBits).getD 0 / 2 ^ (64 * ((i - 0x90) % 2)))
  else if i = 0x98 then halt Halt.word
  else if i = 0x99 then halt (fun x => x.word / 2 ^ 64)
  else if i = 0x9A then
    BitVec.ofNat 64 ((List.range 4).map (fun w => (viewOf f w).isSome.toNat * 2 ^ w)).sum
  else BitVec.ofNat 64 (((viewOf f ((i - 0xA0) / 8)).map BitVec.toNat).getD 0 / 2 ^ (64 * ((i - 0xA0) % 8)))

/-- An item of the window that `exwr` may write. -/
def windowWritable (i : Nat) : Bool := decide (i ≤ 0x86)

/-- An item of the window of a frond written. -/
def setWindowItem (f : Frond) (i : Nat) (x : Word) : Frond :=
  if i < 0x80 then f.setReg i x
  else if i = 0x80 then { f with pc := x.toNat % 2 ^ 56 }
  else if i = 0x81 then { f with epc := x }
  else if i = 0x82 then { f with ecause := x }
  else if i = 0x83 then { f with einfo := x }
  else if i = 0x84 then { f with flags := x.setWidth 7, hnd := x.toNat.testBit 11 }
  else if i = 0x85 then { f with preds := x.setWidth 16 ||| 1 }
  else { f with sseed := x }

/-- The Halted frond that a target operand names, once nothing of it is outstanding (R395). -/
def windowTarget (a : Opnd) (x : Word) : M Frond := do
  let c ← get
  let jid := x.toNat / 2 ^ 48
  let bad := Stop.trap causeOPERAND (operandInfo 5 1 a.toNat)
  match c.s.fronds.find? (fun f => f.jid == jid && f.fid == x.toNat % 2 ^ 48 && f.wait == .halted) with
  | none => throw bad
  | some f =>
    let supv := match stageOf c.s f with
      | some g => g.supv
      | none => 0
    if !c.f.control && (jid != c.f.jid || supv == 0) then throw bad
    stallIf (!f.outs.isEmpty)
    return f

/-- The register count of a target, checked against a window index (R395). -/
def checkWindow (f : Frond) (i : Nat) : M Unit :=
  trapIf (decide (i < 0x80) && decide (f.regs ≤ i)) causeOPERAND (operandInfo 2 0xA i)

/-- R395 `exrd`. -/
def execExrd (h : Hints) (d a : Opnd) (idx : BitVec 8) (s : State) : Host.Outcome State Fault Refusal :=
  runWord { h := h, grp := 0xD, fields := [fieldD .gonly d, fieldA .g a] } (do
    limitOuts
    let x ← readG 1 a
    let f ← windowTarget a x
    checkWindow f idx.toNat
    launch h false { path := pathCORE, op := .value (windowItem f idx.toNat).toNat, dest := destOf d, elems := [] }) s

/-- R395 `exwr`. -/
def execExwr (h : Hints) (a b : Opnd) (idx : BitVec 8) (s : State) : Host.Outcome State Fault Refusal :=
  runWord { h := h, grp := 0xD, fields := [fieldA .g a, fieldB .g b] } (do
    let x ← readG 1 a
    let y ← readG 2 b
    let f ← windowTarget a x
    trapIf (!windowWritable idx.toNat) causeOPERAND (operandInfo 4 0xA idx.toNat)
    checkWindow f idx.toNat
    trapIf (idx == 0x80 && y.toNat % 4 != 0) causeOPERAND (operandInfo 5 2 b.toNat)
    modS (fun s => updFrond s f.uid (fun f => setWindowItem f idx.toNat y))
    return .seq) s

/-- A Halted frond that `exres.end` has marked for its end. -/
def markedEnd (f : Frond) : Bool := f.wait == .exiting && f.halt.isSome

/-- R395 `exres`. -/
def execExres (h : Hints) (a : Opnd) (fin : Bool) (s : State) : Host.Outcome State Fault Refusal :=
  match runWord { h := h, grp := 0xD, fields := [fieldA .g a] } (do
      let x ← readG 1 a
      let f ← windowTarget a x
      if fin then modS (fun s => updFrond s f.uid (fun f => { f with wait := .exiting }))
      else modS (fun s => updFrond s f.uid (fun f =>
        { f with wait := .run, halt := none, notBefore := s.clk + 16 }))
      return .seq) s with
  | .next t =>
    match t.fronds.find? markedEnd with
    | some f => .next (endDomain t f 0)
    | none => .next t
  | o => o

/-- R393 `seed`. -/
def execSeed (h : Hints) (a : Opnd) (s : State) : Host.Outcome State Fault Refusal :=
  runWord { h := h, grp := 0xD, fields := [fieldA .g a] } (do
    let x ← readG 1 a
    modF (fun f => { f with sseed := x })
    return .seq) s

/-- The pending firmware events of a die. -/
def pendingEvents (s : State) (die : Nat) : BitVec 6 := s.mgmt.events.getD die 0

/-- The pending firmware events of a die cleared. -/
def clearEvents (s : State) (die : Nat) : State :=
  { s with mgmt := { s.mgmt with events := s.mgmt.events.set die 0 } }

/-- R396 `idle`. -/
def execIdle (h : Hints) (d b : Opnd) (s : State) : Host.Outcome State Fault Refusal :=
  runWord { h := h, grp := 0xD, fields := [fieldD .gonly d, fieldB .g b], priv := true } (do
    let y ← readG 2 b
    let c ← get
    let die := dieOf c.f.pcid
    let m := pendingEvents c.s die
    if m ≠ 0 then
      modS (fun s => clearEvents s die)
      writeG d (m.setWidth 64)
      return .seq
    else return .latch (.idle (if y = 0 then none else some (c.s.clk + y.toNat)) (destOf d) h)) s

end Sys2Proof.Machine
end

