-- ==== Sys2Proof/Machine/Placing.lean ====
section
/-! DEFINITION. Placing work: placement (R23, R67 to R72, R75, R448), the start of fronds (R76, R77, R121, R123),
stealing (R79 to R81), the balancer (R82 to R86), the resumption of a suspended job (R385), and stream controllers
(R32, R90). -/

namespace Sys2Proof.Machine

/-! ## Slots and windows -/

/-- The lowest-numbered Empty slot of a bank of a core (R76, R121). -/
def freeSlot (s : State) (pcid : Nat) (urgent : Bool) : Option Nat :=
  (List.range 64).find? (fun n => !s.fronds.any (fun f => inSlot f pcid n urgent))

/-- The lowest base of a free run of `regs` entries in the register file of a bank (R123). -/
def freeRun (s : State) (pcid : Nat) (urgent : Bool) (regs : Nat) : Option Nat :=
  let used := slotFronds s pcid urgent
  ((List.range 256).map (fun i => 8 * i)).find? (fun b => decide (b + regs ≤ 2048) &&
    used.all (fun f => decide (b + regs ≤ f.base ∨ f.base + f.regs ≤ b)))

/-- The slot and the window base of a frond that a bank of a core places now. -/
def freePlace (s : State) (pcid : Nat) (urgent : Bool) (regs : Nat) : Option (Nat × Nat) :=
  (freeSlot s pcid urgent).bind (fun n => (freeRun s pcid urgent regs).map (fun b => (n, b)))

/-- The first cycle in which a frond placed now on a bank may issue (R121, R131). -/
def firstIssue (s : State) (pcid : Nat) (urgent : Bool) : Nat :=
  match urgent, (getCore s pcid).urgent with
  | true, some u => Nat.max (s.clk + 16) ((u.t.map (fun t => t + 32)).getD 0)
  | _, _ => s.clk + 16

/-- The core has placed no frond in this cycle, and a main bank is not Frozen (R121, R132). -/
def mayPlace (s : State) (pcid : Nat) (urgent : Bool) : Bool :=
  let c := getCore s pcid
  c.placedAt != some s.clk && (urgent || !frozenAt c s.clk)

/-- The ready list of a bank of a core, in order (R121). -/
def readyList (s : State) (pcid : Nat) (urgent : Bool) : List Frond :=
  sortBy (fun a b => decide (a.seq ≤ b.seq))
    (s.fronds.filter (fun f => f.pcid == pcid && f.urgent == urgent && f.loc == .ready))

/-- READY_LIST_PLACE (R121): a frond is placed in a later cycle than that in which it joined its list (R407). -/
def execReadyListPlace (s : State) : Host.Outcome State Fault Refusal :=
  match s.subject with
  | .bank pcid urgent =>
    match readyList s pcid urgent with
    | [] => .refused .notEnabled
    | f :: _ =>
      match freePlace s pcid urgent f.regs, (findJob s f.jid).map Job.runs with
      | some (n, b), some true =>
        if !mayPlace s pcid urgent || decide (s.clk < f.notBefore) then .refused .notEnabled
        else
          let t := firstIssue s pcid urgent
          let s := updFrond s f.uid (fun f => { f with loc := .slot n, base := b, notBefore := t })
          .next (updCore s pcid (fun c => { c with placedAt := some s.clk }))
      | _, _ => .refused .notEnabled
  | _ => .refused .notEnabled

/-! ## Frond start -/

/-- What a new frond starts with. -/
structure Birth where
  pcid : Nat
  urgent : Bool
  jid : Nat
  pl : Nat
  pc : Nat
  ix : Word
  /-- `g0` upward (R33). -/
  regs : List Word
  feed : Option (Nat × List Byte)
  deriving DecidableEq, Repr

/-- How many fronds of a job were created on a core. -/
def createdOn (c : Core) (jid : Nat) : Nat := ((c.created.find? (fun x => x.1 == jid)).map (·.2)).getD 0

/-- One more frond of a job has been created on a core. -/
def noteCreated (c : Core) (jid : Nat) : Core :=
  { c with created := (jid, createdOn c jid + 1) :: c.created.filter (fun x => x.1 != jid) }

/-- A frond is created in slot `n` with window base `base` (R33, R34, R110, R117, R123). -/
def startFrond (s : State) (g : Stage) (b : Birth) (n base : Nat) : State :=
  let c := getCore s b.pcid
  let f : Frond :=
    { uid := s.fresh, fid := logicalOf s b.jid b.pcid % 2 ^ 16 * 2 ^ 32 + createdOn c b.jid % 2 ^ 32
      jid := b.jid, pl := b.pl, stage := g.snum, urgent := b.urgent, control := false, pcid := b.pcid
      loc := .slot n, record := 0, base := base, regs := g.regs
      g := b.regs ++ List.replicate (g.regs - b.regs.length) 0, pc := b.pc, preds := 0, flags := 0
      hnd := false, rooted := b.urgent || decide (16 < g.regs), entryDepth := 0, loops := []
      epc := 0, ecause := 0, einfo := 0, sseed := BitVec.ofNat 64 (g.snum * 2 ^ 48) ||| b.ix, ix := b.ix
      views := List.replicate 4 none, outs := [], held := [], heldPc := 0, heldH := [], heldHPc := 0
      chans := List.replicate 8 Chan.unboundPort, wait := .run, notBefore := firstIssue s b.pcid b.urgent
      claims := [], lastWalk := none, late := [], storeErrs := [], cause := none, swMark := false
      errWait := false, since := s.clk, seq := s.fresh, feed := b.feed, halt := none }
  let s := { s with fresh := s.fresh + 1, fronds := s.fronds ++ [f] }
  setCore s { noteCreated c b.jid with placedAt := some s.clk }

/-- A work item of a job has started (R403). -/
def countItem (s : State) (jid : Nat) : State := updJob s jid (fun j => { j with items := (j.items + 1) % 2 ^ 48 })

/-- What a spore waits for has been performed at package scope: an atomic at its home, a store with its acknowledgement,
and a load with its landing (R156, R320, R328). -/
def depDone (s : State) (id : Nat) : Bool :=
  match findFlight s id with
  | none => true
  | some g => g.op.reads && g.op.writes && g.elems.all (fun e => e.performed)

/-- A deque entry (R73). -/
structure Spore where
  index : Nat
  kind : Nat
  pc : Nat
  a0 : Nat
  a1 : Nat
  joinva : Nat
  info : SporeMeta
  deriving DecidableEq, Repr

/-- The entry at index `i` of a core's deque. -/
def sporeAt (s : State) (c : Core) (i : Nat) : Spore :=
  let b := readNat s.ls (dequeAddr c i) 32
  { index := i, kind := Nat.field b 62 2, pc := Nat.field b 0 56, a0 := Nat.field b 64 64, a1 := Nat.field b 128 64
    joinva := Nat.field b 192 64
    info := (c.spores.find? (fun m => m.index == i)).getD { index := i, ix := 0, deps := [], from_ := 0 } }

/-- A spore may be taken, in a later cycle than that of its `fork` (R76, R156). -/
def takeable (s : State) (x : Spore) : Bool := decide (x.info.from_ ≤ s.clk) && x.info.deps.all (depDone s)

/-- The index of a core's newest entry. -/
def bottomIndex (c : Core) : Nat := (c.bot + 2 ^ 16 - 1) % 2 ^ 16

/-- What the model keeps of an entry is dropped with it. -/
def dropMeta (c : Core) (i : Nat) : Core := { c with spores := c.spores.filter (fun m => m.index != i) }

/-- A core's tag after a change of its bottom entry: it moves on when that is the entry at TOP (R74). -/
def tagAfter (c : Core) : Nat := if dequeCount c = 1 then (c.tag + 1) % 2 ^ 32 else c.tag

/-- The entry at the bottom of a core's deque leaves it (R77). -/
def popBottom (s : State) (pcid : Nat) : State :=
  let c := getCore s pcid
  let i := bottomIndex c
  wakeForks (setCore s { dropMeta c i with bot := i, tag := tagAfter c }) pcid

/-- A core takes from the bottom of its deque (R77): the state, and what starts. -/
def takeBottom (s : State) (pcid : Nat) (b : Bind) : Option (State × Birth × Bool) :=
  let c := getCore s pcid
  if !dequeNonempty c || c.swapAt == some s.clk then none
  else
    let x := sporeAt s c (bottomIndex c)
    if !takeable s x then none
    else
      let birth : Birth := { pcid := pcid, urgent := false, jid := b.jid, pl := b.pl, pc := x.pc, ix := x.info.ix
                             regs := [BitVec.ofNat 64 x.a0, BitVec.ofNat 64 x.a1, BitVec.ofNat 64 x.joinva]
                             feed := none }
      if x.kind = 1 then some (popBottom s pcid, birth, false)
      else
        let item := { birth with ix := BitVec.ofNat 64 x.a0, regs := [BitVec.ofNat 64 x.a0] }
        if x.a1 ≤ x.a0 + 1 then some (popBottom s pcid, item, true)
        else
          let s := { s with ls := writeNat s.ls (dequeAddr c x.index + 8) 8 (x.a0 + 1) }
          some (setCore s { c with tag := tagAfter c }, item, true)

/-- The feed queue of a stage, with its number (R15). -/
def feedQueue (j : Job) (pl : Nat) (g : Stage) : Option (Nat × Queue) :=
  g.fed.bind (fun n => (inQueue j pl g.snum n).bind (fun i => (j.queue? pl i).map (fun q => (i, q))))

/-- A core takes an element of its own segment of its stage's feed queue (R15, R76). -/
def takeFeed (s : State) (j : Job) (pcid pl : Nat) (g : Stage) (urgent : Bool) : Option (State × Birth) :=
  (feedQueue j pl g).bind (fun (i, q) =>
    if q.segs.any (fun x => x.pcid == some pcid && !x.elems.isEmpty) then
      (popElem s j.jid pl i pcid).map (fun (e, s) =>
        let ix := BitVec.ofNat 64 e.num
        (wakeIfDone s j.jid pl i,
          { pcid := pcid, urgent := urgent, jid := j.jid, pl := pl, pc := g.entry % 2 ^ 56, ix := ix
            regs := [ix], feed := some (i, e.bytes) }))
    else none)

/-- A core takes nothing more from its deque: its move has taken effect (R85). -/
def movedOn (c : Core) : Bool :=
  match c.move with
  | some m => m.began
  | none => false

/-- A thief's compare-and-swap reaches a core's deque in this cycle, so that its bottom entry, which may be taken, is
taken in the next one and nothing else before it (R76, R80). -/
def bottomBusy (s : State) (c : Core) : Bool :=
  dequeNonempty c && c.swapAt == some s.clk && takeable s (sporeAt s c (bottomIndex c))

/-- The start of a frond on a core's main bank (R76). -/
def startMain (s : State) (pcid : Nat) : Option State :=
  let c := getCore s pcid
  match c.bind with
  | none => none
  | some b =>
    match (findJob s b.jid).bind (fun j => (j.stage? b.pl b.stage).map (fun g => (j, g))) with
    | none => none
    | some (j, g) =>
      match freePlace s pcid false g.regs with
      | none => none
      | some (n, base) =>
        if !j.runs || !mayPlace s pcid false || !(readyList s pcid false).isEmpty || (!movedOn c && bottomBusy s c) then
          none
        else
          match (if movedOn c then none else takeBottom s pcid b) with
          | some (s, x, item) => some (startFrond (if item then countItem s j.jid else s) g x n base)
          | none => (takeFeed s j pcid b.pl g false).map (fun (s, x) => startFrond (countItem s j.jid) g x n base)

/-- Firmware asks for the core of an urgent frond, unless it has (R380). -/
def askSwap (s : State) (pcid : Nat) : State :=
  match (getCore s pcid).urgent with
  | some u =>
    if u.t.isSome || s.swaps.any (fun x => x.pcid == pcid && x.jid == u.jid) then s
    else { s with swaps := s.swaps ++ [{ pcid := pcid, jid := u.jid }] }
  | none => s

/-- The next item of an urgent context (R75, R448). -/
def takeUrgent (s : State) (pcid : Nat) (u : Urgent) (g : Stage) : Option (State × Birth) :=
  if u.hi ≤ u.lo then none
  else
    let ix := BitVec.ofNat 64 u.lo
    some (updCore s pcid (fun c => { c with urgent := some { u with lo := u.lo + 1 } }),
      { pcid := pcid, urgent := true, jid := u.jid, pl := u.pl, pc := g.entry % 2 ^ 56, ix := ix
        regs := [ix], feed := none })

/-- The start of a frond on a core's shadow bank (R130, R448). -/
def startUrgent (s : State) (pcid : Nat) : Option State :=
  match (getCore s pcid).urgent with
  | none => none
  | some u =>
    match (findJob s u.jid).bind (fun j => (j.stage? u.pl u.stage).map (fun g => (j, g))) with
    | none => none
    | some (j, g) =>
      match freePlace s pcid true g.regs with
      | none => none
      | some (n, base) =>
        if !j.runs || !mayPlace s pcid true then none
        else
          let got := match takeUrgent s pcid u g with
            | some x => some x
            | none => takeFeed s j pcid u.pl g true
          got.map (fun (s, x) => askSwap (startFrond (countItem s j.jid) g x n base) pcid)

/-- FROND_START (R76). -/
def execFrondStart (s : State) : Host.Outcome State Fault Refusal :=
  match s.subject with
  | .bank pcid urgent =>
    match (if urgent then startUrgent s pcid else startMain s pcid) with
    | some t => .next t
    | none => .refused .notEnabled
  | _ => .refused .notEnabled

/-! ## Stealing -/

/-- The level of R79 at which a victim stands. -/
def stealLevel (a b : Nat) : Nat :=
  if tileOf a = tileOf b then 0 else if clusterOf a = clusterOf b then 1 else if dieOf a = dieOf b then 2 else 3

/-- The victims of a thief at one level, by ascending logical core from the one after the last tried (R79). -/
def victimsAt (s : State) (c : Core) (b : Bind) (level : Nat) : List Nat :=
  match findJob s b.jid with
  | none => []
  | some j =>
    let vs := j.cores.filter (fun p =>
      p != c.pcid && stealLevel c.pcid p == level && (getCore s p).bind == some b)
    match (c.lastVictim.getD level none) with
    | none => vs
    | some l =>
      let after := fun (p : Nat) => decide (l < (j.logical p).getD 0)
      vs.filter after ++ vs.filter (fun p => !after p)

/-- The first victim at a level or above, with those left at its level; `fuel` counts the levels left. -/
def firstVictim (s : State) (c : Core) (b : Bind) : Nat → Nat → Option (Nat × Nat × List Nat)
  | _, 0 => none
  | level, fuel + 1 =>
    match victimsAt s c b level with
    | v :: vs => some (level, v, vs)
    | [] => firstVictim s c b (level + 1) fuel

/-- The victim of a steal's next read. -/
def nextVictim (s : State) (c : Core) (b : Bind) : Option (Nat × Nat × List Nat) :=
  match c.steal with
  | .idle => firstVictim s c b 0 4
  | .trying level (v :: vs) _ => some (level, v, vs)
  | .trying level [] _ => firstVictim s c b (level + 1) (3 - level)
  | _ => none

/-- The cycle from which a steal goes on. -/
def stealDue : Steal → Nat
  | .trying _ _ t => t
  | .swapping _ _ _ _ _ t => t
  | .resting t => t
  | .carrying _ _ t => t
  | .idle => 0

/-- The steal of a core after a victim that gave nothing (R79): the next victim, or rest after a full pass. -/
def afterVictim (s : State) (pcid level : Nat) (left : List Nat) (due : Nat) : State :=
  let c := getCore s pcid
  let more := match c.bind with
    | some b => !left.isEmpty || (firstVictim s c b (level + 1) (3 - level)).isSome
    | none => false
  setCore s { c with steal := if more then .trying level left due else .resting (s.clk + 1024) }

/-- A core looks for a victim: it is bound, has a free slot with a free run of registers and an empty deque, and nothing
comes before a steal (R76, R79, R85). -/
def maySteal (s : State) (pcid : Nat) : Option Bind :=
  let c := getCore s pcid
  match c.bind with
  | none => none
  | some b =>
    match (findJob s b.jid).bind (fun j => (j.stage? b.pl b.stage).map (fun g => (j, g))) with
    | none => none
    | some (j, g) =>
      let fed := match feedQueue j b.pl g with
        | some (_, q) => q.segs.any (fun x => x.pcid == some pcid && !x.elems.isEmpty)
        | none => false
      if j.runs && !dequeNonempty c && !movedOn c && !frozenAt c s.clk && (readyList s pcid false).isEmpty
          && !fed && (freePlace s pcid false g.regs).isSome then some b else none

/-- A thief gives up a pass that it may no longer make. -/
def endPass (s : State) (pcid : Nat) : State := updCore s pcid (fun c => { c with steal := .idle })

/-- STEAL_READ (R79, R80, R156). A pass whose last victims have gone is over, and the core rests. -/
def execStealRead (s : State) : Host.Outcome State Fault Refusal :=
  match s.subject with
  | .core pcid =>
    let c := getCore s pcid
    match maySteal s pcid with
    | none =>
      match c.steal with
      | .trying _ _ _ => .next (endPass s pcid)
      | _ => .refused .notEnabled
    | some b =>
      match nextVictim s c b with
      | none =>
        match c.steal with
        | .trying _ _ due =>
          if s.clk < due then .refused .notEnabled
          else .next (updCore s pcid (fun c => { c with steal := .resting (s.clk + 1024) }))
        | _ => .refused .notEnabled
      | some (level, v, left) =>
        let hop := (distCore pcid v).half
        if s.clk < stealDue c.steal then .refused .notEnabled
        else
          let s := setCore s { c with lastVictim := c.lastVictim.set level (some (logicalOf s b.jid v)) }
          let k := getCore s v
          if dequeNonempty k && k.bind == some b && takeable s (sporeAt s k k.top) then
            .next (updCore s pcid (fun c => { c with steal := .swapping level left v k.tag k.top (s.clk + 2 * hop) }))
          else .next (afterVictim s pcid level left (s.clk + hop))
  | _ => .refused .notEnabled

/-- The compare-and-swap at a victim's port takes or splits its top entry (R80): the state, with the bits that the
thief receives and the `ix` of the forking frond. -/
def swapTop (s : State) (v : Nat) : State × Nat × Word :=
  let k := getCore s v
  let x := sporeAt s k k.top
  let k' := { k with tag := (k.tag + 1) % 2 ^ 32, swapAt := some s.clk }
  if x.kind = 1 ∨ x.a1 ≤ x.a0 + 1 then
    (wakeForks (setCore s { dropMeta k' k.top with top := (k.top + 1) % 2 ^ 16 }) v,
      sporeBits x.kind x.pc x.a0 x.a1 x.joinva, x.info.ix)
  else
    let mid := x.a0 + (x.a1 - x.a0) / 2
    (setCore { s with ls := writeNat s.ls (dequeAddr k k.top + 16) 8 mid } k',
      sporeBits 2 x.pc mid x.a1 x.joinva, x.info.ix)

/-- STEAL_CAS (R80, R81): after the owner's take of the same cycle. What it takes is on its way to the thief. A thief whose
own deque its forks have filled meanwhile waits for room (log entry 102, DESIGN CHOICE: R78 and R80 do not name it). -/
def execStealCas (s : State) : Host.Outcome State Fault Refusal :=
  match s.subject with
  | .core pcid =>
    let c := getCore s pcid
    match c.steal with
    | .swapping level left v tag top due =>
      let k := getCore s v
      if s.clk < due ∨ dequeCap c ≤ dequeCount c ∨ (startMain s v).isSome then .refused .notEnabled
      else if dequeNonempty k && k.bind == c.bind && k.tag == tag && k.top == top then
        let r := swapTop s v
        let t := s.clk + (distCore pcid v).half
        .next (updCore r.1 pcid (fun c => { c with steal := .carrying r.2.1 r.2.2 t }))
      else .next (afterVictim s pcid level left (s.clk + (distCore pcid v).half))
    | _ => .refused .notEnabled
  | _ => .refused .notEnabled

/-- What a core's compare-and-swap took has come to it, and stands at its own BOT (R80), once its deque has room (log
entry 102, DESIGN CHOICE). -/
def stolenLands (s : State) (pcid : Nat) : Option State :=
  let c := getCore s pcid
  match c.steal with
  | .carrying bits ix due =>
    if s.clk < due ∨ dequeCap c ≤ dequeCount c then none else some (pushSpore (endPass s pcid) pcid bits ix [] 0)
  | _ => none

/-- STEAL_PASS_RETRY (R79). -/
def execStealPassRetry (s : State) : Host.Outcome State Fault Refusal :=
  match s.subject with
  | .core pcid =>
    match (getCore s pcid).steal with
    | .resting t => if t ≤ s.clk then .next (endPass s pcid) else .refused .notEnabled
    | _ => .refused .notEnabled
  | _ => .refused .notEnabled

/-! ## Budgets (R22, R23) -/

/-- The least power of two that is `n` or more. -/
def powerUp (n : Nat) : Nat := if n ≤ 1 then 1 else 2 ^ (Nat.log2 (n - 1) + 1)

/-- `n` rounded up as the table of R23 states for budget field `i`, from REGS (0) to MOVES (10). -/
def roundField (i n : Nat) : Nat :=
  match i with
  | 0 => (n + 7) / 8 * 8
  | 4 => (n + 255) / 256 * 256
  | 5 => powerUp n
  | _ => n

/-- The floor and ceiling of a budget field: the narrowest of the dies' (R23, R394; log entry 21). -/
def budgetRange (s : State) (i : Nat) : Nat × Nat :=
  let f := fuseBounds.getD i (0, 0)
  (List.range 9).foldl (fun b d => (Nat.max b.1 (budgetWord s d (2 * i)), Nat.min b.2 (budgetWord s d (2 * i + 1)))) f

/-- A budget field rounded and clamped, under a further ceiling (R23). The ceiling wins over a floor above it (log
entry 70). -/
def clampField (s : State) (i ceil v : Nat) : Nat :=
  let b := budgetRange s i
  Nat.min (Nat.max (roundField i v) b.1) (Nat.min b.2 ceil)

/-- The effective budget fields of a stage, from those asked for (R23). -/
def stageBudget (s : State) (v : List Nat) : List Nat :=
  let cmax := clampField s 2 4608 (nth v 2)
  [clampField s 0 128 (nth v 0), clampField s 1 cmax (nth v 1), cmax, clampField s 3 16 (nth v 3),
    clampField s 4 262144 (nth v 4), clampField s 5 1024 (nth v 5)]

/-- The effective budget fields of a pipeline, from those asked for (R23, R70). -/
def pipeBudget (s : State) (v : List Nat) : List Nat :=
  let hi := clampField s 8 256 (nth v 1)
  [clampField s 6 24 (nth v 0), hi, clampField s 9 hi (nth v 2), clampField s 10 64 (nth v 3)]

/-- A stage with its effective budget; one of an urgent job has no carrels, no hold storage and no deque (R24, R448). -/
def clampStage (s : State) (urgent : Bool) (g : Stage) : Stage :=
  let b := stageBudget s g.asked
  { g with
      regs := nth b 0, cmin := nth b 1, cmax := nth b 2
      carr := if urgent then 0 else nth b 3, holdb := if urgent then 0 else nth b 4
      deq := if urgent then 0 else nth b 5 }

/-- A pipeline with its effective budget. -/
def clampPipe (s : State) (urgent : Bool) (p : Pipe) : Pipe :=
  let b := pipeBudget s p.asked
  { p with
      bint := nth b 0, himark := nth b 1, lomark := nth b 2, moves := nth b 3
      stages := p.stages.map (clampStage s urgent) }

/-- Clamping changes a budget field of a job (R23). -/
def clampChanges (s : State) (j : Job) : Bool :=
  clampField s 7 16777216 j.askedLone != j.askedLone || j.pipes.any (fun p =>
    pipeBudget s p.asked != p.asked || p.stages.any (fun g => stageBudget s g.asked != g.asked))

/-- A job with its effective budget, and its clamp flag (R23). -/
def clampJob (s : State) (j : Job) : Job :=
  { j with
      lone := clampField s 7 16777216 j.askedLone
      pipes := j.pipes.map (clampPipe s j.urgent)
      clamp := j.clamp || clampChanges s j }

/-! ## Local-store areas (R71, R72, R448) -/

/-- A size rounded up to a multiple of 8 (R71). -/
def pad8 (n : Nat) : Nat := (n + 7) / 8 * 8

/-- The queues that a stage consumes, by number and in the order of their segments (R72). -/
def segmentQueues (p : Pipe) (snum : Nat) : List (Nat × Queue) :=
  sortBy (fun a b => decide (b.2.esz ≤ a.2.esz))
    ((portQueues p snum Queue.cons).filterMap (fun i => (p.queues[i]?).map (fun q => (i, q))))

/-- Bytes of a segment of a queue. -/
def segmentBytes (q : Queue) : Nat := q.segn * 2 ^ q.esz

/-- Bytes of the segments of a stage. -/
def segmentsSize (p : Pipe) (snum : Nat) : Nat := ((segmentQueues p snum).map (fun q => segmentBytes q.2)).sum

/-- The offsets of a stage's segments on a bound core, by queue, downward from an offset (R72). -/
def segmentsDown : List (Nat × Queue) → Nat → List (Nat × Nat)
  | [], _ => []
  | (i, q) :: qs, top => (i, top - segmentBytes q) :: segmentsDown qs (top - segmentBytes q)

/-- The offsets of a stage's segments in an urgent context, by queue, upward from an offset (R448). -/
def segmentsUp : List (Nat × Queue) → Nat → List (Nat × Nat)
  | [], _ => []
  | (i, q) :: qs, low =>
    let at_ := (low + 2 ^ q.esz - 1) / 2 ^ q.esz * 2 ^ q.esz
    (i, at_) :: segmentsUp qs (at_ + segmentBytes q)

/-- The largest value of a stage field in a pipeline (R71). -/
def pipeMax (p : Pipe) (g : Stage → Nat) : Nat := p.stages.foldl (fun m x => Nat.max m (g x)) 0

/-- The offset of the argument copy on a bound core (R72). -/
def argsOff (j : Job) : Nat := pad8 j.lsImage.length

/-- The start of the deque area, below which the segments lie (R72). -/
def dequeStart (p : Pipe) : Nat :=
  lsSize - blockSize * pipeMax p Stage.carr - pipeMax p Stage.holdb - 32 * pipeMax p Stage.deq

/-- The ends of the two groups of areas on a core bound to a stage (R72). -/
def areaEnds (j : Job) (p : Pipe) (g : Stage) : Nat × Nat :=
  (argsOff j + g.args.length, dequeStart p - segmentsSize p g.snum)

/-- The local store that one bound core needs for a stage (R24, R71). -/
def stageNeed (j : Job) (p : Pipe) (g : Stage) : Nat :=
  blockSize * pipeMax p Stage.carr + pipeMax p Stage.holdb + 32 * pipeMax p Stage.deq + segmentsSize p g.snum
    + g.args.length + j.lsImage.length

/-- A job as its placement takes it: the budget words written since its intake apply, unless a core could no longer hold
its areas (R24, R394; log entry 70). -/
def placedBudget (s : State) (j : Job) : Job :=
  let k := clampJob s j
  if k.pipes.any (fun p => p.stages.any (fun g => decide (lsSize < stageNeed k p g))) then j else k

/-- The free space of a core (R448). -/
def freeSpace (c : Core) : Nat × Nat := if c.bind.isSome then (c.lowEnd, c.segOff) else (0, lsSize)

/-- `n` rounded up to a multiple of `a`. -/
def alignUp (n a : Nat) : Nat := (n + a - 1) / a * a

/-- The offset of the argument copy and the end of the areas of an urgent stage placed from an offset (R448). -/
def urgentAreas (j : Job) (p : Pipe) (g : Stage) (start : Nat) : Nat × Nat :=
  let args := pad8 start + argsOff j
  (args, (segmentQueues p g.snum).foldl (fun a q => alignUp a (2 ^ q.2.esz) + segmentBytes q.2) (args + g.args.length))

/-- The free space of a core holds the areas of an urgent stage (R448). -/
def urgentFits (j : Job) (p : Pipe) (g : Stage) (c : Core) : Bool :=
  let x := freeSpace c
  decide ((urgentAreas j p g x.1).2 ≤ x.2)

/-- The areas of a stage reach those of the core's urgent context (R448). -/
def reachesUrgent (c : Core) (lowEnd segOff : Nat) : Bool :=
  match c.urgent with
  | some u => decide (u.begin_ < lowEnd ∨ segOff < u.top)
  | none => false

/-- Bytes written at a local-store address. -/
def writeBytes (s : State) (a : Nat) (bs : List Byte) : State :=
  { s with ls := writeNat s.ls a bs.length (bytesNat bs) }

/-! ## Placement -/

/-- The stages of a job with the cores that firmware chooses for each: pipeline number, pipeline, stage, cores. -/
def planOf (j : Job) (cores : List (List (List Nat))) : List (Nat × Pipe × Stage × List Nat) :=
  j.pipes.zipIdx.flatMap (fun (p, i) =>
    p.stages.zipIdx.map (fun (g, k) => (i, p, g, (((cores[i]?).bind (fun x => x[k]?)).getD []))))

/-- The cores of a plan, ascending (R68). -/
def planCores (plan : List (Nat × Pipe × Stage × List Nat)) : List Nat :=
  plan.foldl (fun acc x => x.2.2.2.foldl (fun acc p => setAdd p acc) acc) []

/-- Firmware gives every stage a number of cores within its limits, and no core twice (R67). -/
def planFits (plan : List (Nat × Pipe × Stage × List Nat)) : Bool :=
  plan.all (fun x => decide (x.2.2.1.cmin ≤ x.2.2.2.length ∧ x.2.2.2.length ≤ x.2.2.1.cmax) && x.2.2.2.all isCore)
    && (planCores plan).length == (plan.map (fun x => x.2.2.2.length)).sum

/-- A core is another job's, and bound or on its way to a stage that needs the engine (R67, R85). -/
def engineTaken (s : State) (c : Core) (jid : Nat) : Bool :=
  match c.bind with
  | none => false
  | some b => b.jid != jid && (b.stage :: (c.move.map (fun m => m.stage)).toList).any (fun n =>
      ((findJob s b.jid).bind (fun j => j.stage? b.pl n)).elim false (fun g => g.feat.getLsbD 0))

/-- No other job has a core of a tile for a stage that needs the engine (R67, R279). -/
def tileFree (s : State) (tile jid : Nat) : Bool :=
  engineOn s tile && (List.range 4).all (fun i => !engineTaken s (getCore s (4 * tile + i)) jid)

/-- A core has every feature that a stage of a job needs (R21, R67, R83). -/
def coreSuits (s : State) (jid pcid : Nat) (g : Stage) : Bool :=
  (getCore s pcid).lost &&& 0xE#4 == 0 && (!g.feat.getLsbD 0 || tileFree s (tileOf pcid) jid)

/-- A waiting job that is placed before another: a lower class, or the same class and earlier acceptance (R67). -/
def placedBefore (a b : Job) : Bool :=
  a.phase == .waiting && (decide (a.prio < b.prio) || (a.prio == b.prio && decide (a.order < b.order)))

/-- A packet whose job's placement has begun gives up its entry (R51). -/
def freePacket (s : State) (jid : Nat) : State :=
  let keep := fun (p : Packet) => p.job != some jid
  { s with aqis := s.aqis.map (fun a => { a with ordinary := a.ordinary.filter keep, ahead := a.ahead.filter keep }) }

/-- The free blocks of 32 semaphores of a cluster. -/
def semBlocks (s : State) (cluster : Nat) : List Nat :=
  (List.range 8).filter (fun b => !s.sems.any (fun r =>
    r.cluster == cluster && decide (r.base ≤ 32 * b ∧ 32 * b < r.base + r.size)))

/-- The number of blocks of a list that follow `b` without a gap, `b` included. -/
def runLength (b : Nat) : List Nat → Nat
  | [] => 0
  | x :: xs => if x = b then runLength (b + 1) xs + 1 else 0

/-- Firmware grants a job a run of the semaphores of a cluster, of a size that is a free choice (R365; log
entry 2); none when no run is free. -/
def grantSems (jid : Nat) (s : State) (cluster : Nat) : State :=
  match semBlocks s cluster with
  | [] => s
  | b :: bs =>
    let n := 32 * (1 + Config.pick s.choices % runLength b (b :: bs))
    let r : SemRun := { cluster := cluster, jid := jid, base := 32 * b, size := n, counts := List.replicate n 0
                        waiters := [] }
    { s with choices := s.choices + 1, sems := s.sems ++ [r] }

/-- Every cluster of a list grants its semaphores, once each. -/
def grantAll (s : State) (jid : Nat) (cores : List Nat) : State :=
  (cores.foldl (fun acc p => setAdd (clusterOf p) acc) []).foldl (grantSems jid) s

/-- The segments of queue `i` when its consumers have their cores, in logical order, each at its offset; a sink has one
in its base die (R31, R72, R90). -/
def firstSegs (snum : Nat) (cores : List Nat) (off : Nat → List (Nat × Nat)) (q : Queue) (i : Nat) : Queue :=
  let seg := fun (p : Option Nat) (o : Nat) => ({ pcid := p, accepting := true, off := o, head := 0, elems := [] } : Seg)
  if q.cons = 0xF then { q with segs := [seg none 0] }
  else if q.cons = snum then { q with segs := cores.map (fun p => seg (some p) (mapGet 0 i (off p))) }
  else q

/-- The offsets of the segments of a stage on a core, by queue: in the areas of a bound core, or in those of an urgent
context (R72, R448). -/
def segmentOffs (s : State) (j : Job) (p : Pipe) (g : Stage) (pcid : Nat) : List (Nat × Nat) :=
  let qs := segmentQueues p g.snum
  if j.urgent then segmentsUp qs ((urgentAreas j p g (freeSpace (getCore s pcid)).1).1 + g.args.length)
  else segmentsDown qs (dequeStart p)

/-- The segments of every queue of a plan. -/
def layQueues (s : State) (plan : List (Nat × Pipe × Stage × List Nat)) (j : Job) : Job :=
  plan.foldl (fun j x =>
    let cs := sortBy (fun a b => decide (a ≤ b)) x.2.2.2
    j.updPipe x.1 (fun p =>
      { p with queues := p.queues.zipIdx.map (fun q => firstSegs x.2.2.1.snum cs (segmentOffs s j x.2.1 x.2.2.1) q.1 q.2) })) j

/-- The job takes the cores of its placement (R68, R82). -/
def placedJob (s : State) (plan : List (Nat × Pipe × Stage × List Nat)) (j : Job) : Job :=
  let j := layQueues s plan j
  { j with phase := .running, cores := planCores plan, progress := s.clk
           pipes := j.pipes.map (fun p => { p with placedAt := s.clk, intervals := 0 }) }

/-- The format codes without those of some cores, each of which is 0 again (R184). -/
def clearCodes (cores : List Nat) (m : List (Nat × Nat)) : List (Nat × Nat) :=
  m.filter (fun r => !cores.contains (r.1 * blockSize / 2 ^ 20))

/-- A core is bound to a stage: its areas are laid out, and its sync bits, format codes and carrels start afresh
(R35, R72, R184, R226). -/
def bindCore (j : Job) (pl : Nat) (p : Pipe) (g : Stage) (s : State) (pcid : Nat) : State :=
  let c := getCore s pcid
  let e := areaEnds j p g
  let carr := pipeMax p Stage.carr
  let holdb := pipeMax p Stage.holdb
  let k := { Core.fresh pcid with
    args := argsOff j, carrels := List.replicate carr Carrel.none, holdOff := lsSize - blockSize * carr - holdb
    holdLen := holdb, dequeOff := dequeStart p, dequeLen := 32 * pipeMax p Stage.deq, segOff := e.2, lowEnd := e.1
    waitList := c.waitList, fwd := c.fwd, urgent := c.urgent, frozen := c.frozen, swapBack := c.swapBack
    lost := c.lost, created := c.created.filter (fun x => x.1 != j.jid), pipes := c.pipes, owed := c.owed }
  let s := { setCore s k with
    empties := s.empties.filter (fun w => !onOwn s [pcid] (8 * w) 8)
    fmtMap := clearCodes [pcid] s.fmtMap }
  let s := setBind s pcid (some { jid := j.jid, pl := pl, stage := g.snum })
  writeBytes (writeBytes s (pcid * 2 ^ 20) j.lsImage) (pcid * 2 ^ 20 + argsOff j) g.args

/-- The interval of work items of the core of rank `j` among `m` (R75). -/
def interval (n m j : Nat) : Nat × Nat := ((n * j + m - 1) / m, (n * (j + 1) + m - 1) / m)

/-- Work items of a ranged stage (R28). -/
def itemCount (g : Stage) : Nat := if g.fed.isSome then 0 else g.n0 * g.n1 * g.n2

/-- The range spores of a stage are placed on its cores (R75). -/
def placeSpores (g : Stage) (cores : List Nat) (s : State) : State :=
  let cs := sortBy (fun a b => decide (a ≤ b)) cores
  cs.zipIdx.foldl (fun s (p, i) =>
    let r := interval (itemCount g) cs.length i
    if r.1 < r.2 then pushSpore s p (sporeBits 2 (g.entry % 2 ^ 56) r.1 r.2 0) 0 [] 0 else s) s

/-- Each of the cores suits its stage, and is free for it (R67). -/
def planFree (s : State) (j : Job) (plan : List (Nat × Pipe × Stage × List Nat)) : Bool :=
  plan.all (fun x => x.2.2.2.all (fun p =>
    let c := getCore s p
    let e := areaEnds j x.2.1 x.2.2.1
    c.bind.isNone && coreSuits s j.jid p x.2.2.1 && !reachesUrgent c e.1 e.2))

/-- The ranged stages without work items complete at placement, whatever their input queues hold (R61). -/
def completeEmpty (s : State) (j : Job) : State :=
  j.pipes.zipIdx.foldl (fun s (p, pl) =>
    (p.stages.filter (fun g => g.fed.isNone && itemCount g == 0)).foldl (fun s g => completeStage s j.jid pl g.snum) s) s

/-- What placement does for a job beyond its cores (R51, R365). -/
def beginPlacement (s : State) (jid : Nat) (cores : List Nat) : State :=
  grantAll (freePacket { s with mgmt := { s.mgmt with placedAny := true } } jid) jid cores

/-- Firmware marks units of a core failed in service: it loses bits 1 to 3 of its features (R21; log entry 73). -/
def loseUnits (s : State) (pcid : Nat) (lost : BitVec 4) : State :=
  updCore s pcid (fun c => { c with lost := c.lost ||| (lost &&& 0xE#4) })

/-- PLACEMENT (R61, R67 to R75): the cores are firmware's choice, an input. So is which cores it takes units out of, for
every later placement (R21). -/
def execPlacement (s : State) : Host.Outcome State Fault Refusal :=
  match s.subject with
  | .units pcid lost =>
    if s.mgmt.state == .operational && isCore pcid then .next (loseUnits s pcid lost) else .refused .notEnabled
  | .placement jid cores =>
    match findJob s jid with
    | none => .refused .notEnabled
    | some j =>
      let j := placedBudget s j
      let plan := planOf j cores
      if j.phase != .waiting || j.urgent || s.mgmt.state != .operational || s.jobs.any (fun k => placedBefore k j)
          || !planFits plan || !planFree s j plan then .refused .notEnabled
      else
        let s := updJob s jid (fun _ => placedJob s plan j)
        let s := plan.foldl (fun s x => x.2.2.2.foldl (bindCore j x.1 x.2.1 x.2.2.1) s) s
        let s := plan.foldl (fun s x => placeSpores x.2.2.1 x.2.2.2 s) s
        .next (settleJob (completeEmpty (beginPlacement s jid (planCores plan)) j) jid)
  | _ => .refused .notEnabled

/-- An urgent context is placed on a shadow bank (R448). -/
def placeUrgent (j : Job) (pl : Nat) (p : Pipe) (g : Stage) (m : Nat) (s : State) (x : Nat × Nat) : State :=
  let c := getCore s x.1
  let start := pad8 (freeSpace c).1
  let a := urgentAreas j p g start
  let r := interval (itemCount g) m x.2
  let u : Urgent := { jid := j.jid, pl := pl, stage := g.snum, t := none, args := a.1, top := a.2, begin_ := start
                      lo := r.1, hi := r.2 }
  let s := setCore s { c with urgent := some u }
  writeBytes (writeBytes s (x.1 * 2 ^ 20 + start) j.lsImage) (x.1 * 2 ^ 20 + a.1) g.args

/-- The cores of an urgent plan have empty shadow banks, the features of their stages and room (R67, R380, R448). -/
def urgentFree (s : State) (j : Job) (plan : List (Nat × Pipe × Stage × List Nat)) : Bool :=
  plan.all (fun x => x.2.2.2.all (fun p =>
    let c := getCore s p
    c.urgent.isNone && !urgentLeft s p && c.lost &&& 0xE#4 == 0
      && (!x.2.2.1.feat.getLsbD 0 || engineOn s (tileOf p)) && urgentFits j x.2.1 x.2.2.1 c))

/-- URGENT_PLACEMENT (R67, R448). -/
def execUrgentPlacement (s : State) : Host.Outcome State Fault Refusal :=
  match s.subject with
  | .placement jid cores =>
    match findJob s jid with
    | none => .refused .notEnabled
    | some j =>
      let j := placedBudget s j
      let plan := planOf j cores
      if j.phase != .waiting || !j.urgent || s.mgmt.state != .operational || s.jobs.any (fun k => placedBefore k j)
          || !planFits plan || !urgentFree s j plan then .refused .notEnabled
      else
        let s := updJob s jid (fun _ => placedJob s plan j)
        let s := plan.foldl (fun s x =>
          (sortBy (fun a b => decide (a ≤ b)) x.2.2.2).zipIdx.foldl
            (placeUrgent j x.1 x.2.1 x.2.2.1 x.2.2.2.length) s) s
        .next (settleJob (completeEmpty (beginPlacement s jid (planCores plan)) j) jid)
  | _ => .refused .notEnabled

/-! ## The balancer -/

/-- Cores that count as held by a stage (R84). -/
def heldCores (s : State) (jid pl snum : Nat) : Nat :=
  (s.cores.filter (fun c => match c.bind with
    | some b => b.jid == jid && b.pl == pl && (match c.move with
      | some m => m.stage == snum
      | none => b.stage == snum)
    | none => false)).length

/-- The term of one input queue in a score (R82). -/
def queueTerm (q : Queue) : Nat :=
  if q.capacity = 0 then (if q.occupancy = 0 then 0 else 256) else q.occupancy * 256 / q.capacity

/-- The score of a stage (R82). -/
def score (s : State) (j : Job) (pl : Nat) (p : Pipe) (g : Stage) : Nat :=
  let at_ := fun (e : Queue → Nat) => (portQueues p g.snum e).filterMap (fun i => p.queues[i]?)
  if g.completed || (at_ Queue.prod).any Queue.full then 0
  else if g.fed.isSome then Nat.min 256 ((at_ Queue.cons).map queueTerm).sum
  else if s.cores.any (fun c => boundTo c j.jid pl g.snum && dequeNonempty c) then 128
  else 0

/-- The first element that no other one precedes. -/
def bestOf {α : Type} (before : α → α → Bool) : List α → Option α
  | [] => none
  | x :: xs => some (xs.foldl (fun a b => if before b a then b else a) x)

/-- Cores of a stage that are not draining (R84). -/
def stayingCores (s : State) (jid pl snum : Nat) : Nat :=
  (s.cores.filter (fun c => boundTo c jid pl snum && !draining c)).length

/-- The donor of the next move to a receiver, among the stages not dropped. A stage that has not completed keeps CMIN
cores that are not draining (R83, R84). -/
def donor (s : State) (j : Job) (pl : Nat) (p : Pipe) (scores : List (Nat × Nat)) (dropped : List Nat) (r : Stage) :
    Option Stage :=
  let sc := fun (g : Stage) => mapGet 0 g.snum scores
  bestOf (fun a b => decide (sc a < sc b) || (sc a == sc b && decide (a.snum < b.snum)))
    (p.stages.filter (fun g => g.snum != r.snum && !dropped.contains g.snum &&
      ((decide (sc g ≤ p.lomark) && decide (g.cmin < stayingCores s j.jid pl g.snum))
        || (g.completed && decide (0 < stayingCores s j.jid pl g.snum)))))

/-- The receiver of the next move: the best of those for which a donor exists (R83). -/
def receiver (s : State) (j : Job) (pl : Nat) (p : Pipe) (scores : List (Nat × Nat)) (dropped : List Nat) :
    Option Stage :=
  let sc := fun (g : Stage) => mapGet 0 g.snum scores
  bestOf (fun a b => decide (sc b < sc a) || (sc a == sc b && decide (a.snum < b.snum)))
    (p.stages.filter (fun g => !g.completed && decide (p.himark ≤ sc g) && decide (heldCores s j.jid pl g.snum < g.cmax)
      && (donor s j pl p scores dropped g).isSome))

/-- The core that a donor gives (R83 step 2). `moved` holds the dies of the cores moved in this interval. -/
def givenCore (s : State) (j : Job) (pl : Nat) (p : Pipe) (d r : Stage) (moved : List Nat) : Option Nat :=
  let live := fun (c : Nat) => (s.fronds.filter (fun f =>
    f.pcid == c && f.jid == j.jid && f.pl == pl && f.stage == d.snum)).length
  bestOf (fun a b => decide (live a < live b) ||
      (live a == live b && decide ((j.logical b).getD 0 < (j.logical a).getD 0)))
    (j.cores.filter (fun c => boundTo (getCore s c) j.jid pl d.snum && !draining (getCore s c)
      && coreSuits s j.jid c r && decide ((moved.filter (· == dieOf c)).length < p.moves)))

/-- The moves of one interval's end (R83). -/
def decideMoves (j : Job) (pl : Nat) (p : Pipe) (scores : List (Nat × Nat)) :
    Nat → List Nat → List Nat → State → State
  | 0, _, _, s => s
  | fuel + 1, dropped, moved, s =>
    match receiver s j pl p scores dropped with
    | none => s
    | some r =>
      match donor s j pl p scores dropped r with
      | none => s
      | some d =>
        match givenCore s j pl p d r moved with
        | none => decideMoves j pl p scores fuel (d.snum :: dropped) moved s
        | some c =>
          decideMoves j pl p scores fuel dropped (dieOf c :: moved)
            (updCore s c (fun k => { k with move := some { stage := r.snum, at_ := s.clk + 64, began := false } }))

/-- The cycle of the next interval's end (R82). -/
def nextInterval (p : Pipe) : Nat := p.placedAt + (p.intervals + 1) * 2 ^ p.bint

/-- BALANCER_INTERVAL (R82, R83). An interval that ends while the job is being suspended, is suspended or resumes passes
without scores or moves (log entry 103, DESIGN CHOICE: R82 and R383 do not speak of it). -/
def execBalancerInterval (s : State) : Host.Outcome State Fault Refusal :=
  match s.subject with
  | .pipe jid pl =>
    match (findJob s jid).bind (fun j => (j.pipes[pl]?).map (fun p => (j, p))) with
    | none => .refused .notEnabled
    | some (j, p) =>
      if s.clk < nextInterval p || j.cores.isEmpty || !j.live then .refused .notEnabled
      else
        let s := updJob s jid (fun j => j.updPipe pl (fun p => { p with intervals := p.intervals + 1 }))
        if j.urgent || !j.runs then .next s
        else
          let scores := p.stages.foldl (fun m g => mapPut 0 g.snum (score s j pl p g) m) []
          .next (decideMoves j pl p scores (j.cores.length + p.stages.length) [] [] s)
  | _ => .refused .notEnabled

/-- BALANCER_MOVE (R83, R85 steps 1 and 2). -/
def execBalancerMove (s : State) : Host.Outcome State Fault Refusal :=
  match s.subject with
  | .core pcid =>
    let c := getCore s pcid
    match c.move, c.bind with
    | some m, some b =>
      if m.began || decide (s.clk < m.at_) then .refused .notEnabled
      else
        let s := setCore s { c with move := some { m with began := true } }
        let stop := fun (g : Seg) => if g.pcid = some pcid then { g with accepting := false } else g
        .next (updJob s b.jid (fun j => j.updPipe b.pl (fun p =>
          { p with queues := p.queues.map (fun q =>
              if endNames q.cons b.stage then { q with segs := q.segs.map stop } else q) })))
    | _, _ => .refused .notEnabled
  | _ => .refused .notEnabled

/-- The core to which a draining core's entries pass (R85 step 1). -/
def transferTo (s : State) (b : Bind) : Option Nat :=
  (findJob s b.jid).bind (fun j => j.cores.find? (fun p =>
    (getCore s p).bind == some b && !draining (getCore s p)))

/-- DEQUE_TRANSFER (R85 step 1): one entry, the one at TOP. -/
def execDequeTransfer (s : State) : Host.Outcome State Fault Refusal :=
  match s.subject with
  | .core pcid =>
    let c := getCore s pcid
    match c.bind.bind (transferTo s) with
    | none => .refused .notEnabled
    | some p =>
      let t := getCore s p
      if !movedOn c || !dequeNonempty c || dequeCap t ≤ dequeCount t then .refused .notEnabled
      else
        let x := sporeAt s c c.top
        let s := setCore s { dropMeta c c.top with top := (c.top + 1) % 2 ^ 16, tag := (c.tag + 1) % 2 ^ 32 }
        .next (pushSpore (wakeForks s pcid) p (sporeBits x.kind x.pc x.a0 x.a1 x.joinva) x.info.ix x.info.deps
          x.info.from_)
  | _ => .refused .notEnabled

/-- A frond of a stage is in a slot, on the ready list or in the hold storage of a core. -/
def frondHere (s : State) (pcid : Nat) (b : Bind) : Bool :=
  s.fronds.any (fun f => f.jid == b.jid && f.pl == b.pl && f.stage == b.stage && !f.urgent &&
    (onCore f pcid || (f.pcid == pcid && f.loc == .hold)))

/-- A draining core has met the conditions of R85 step 4. -/
def drainedCore (s : State) (c : Core) (b : Bind) (p : Pipe) : Bool :=
  movedOn c && !dequeNonempty c && !frondHere s c.pcid b
    && (match c.steal with
      | .swapping _ _ _ _ _ _ => false
      | st => !st.carries)
    && p.queues.all (fun q => !endNames q.cons b.stage ||
      q.segs.all (fun g => g.pcid != some c.pcid || g.elems.isEmpty))

/-- A segment of a core put into a queue, in logical order. -/
def addSegment (j : Job) (pcid off : Nat) (segs : List Seg) : List Seg :=
  insertBy (fun a b => decide ((j.logical (a.pcid.getD 0)).getD 0 ≤ (j.logical (b.pcid.getD 0)).getD 0))
    { pcid := some pcid, accepting := true, off := off, head := 0, elems := [] } segs

/-- The segments of a core's old stage are released, and those of its new stage begin to accept (R85, R87). -/
def moveSegments (s : State) (j : Job) (b : Bind) (pcid new : Nat) : State :=
  let s := updJob s j.jid (fun j => j.updPipe b.pl (fun p =>
    let offs := segmentsDown (segmentQueues p new) (dequeStart p)
    { p with queues := p.queues.zipIdx.map (fun (q, i) =>
        if endNames q.cons b.stage then { q with segs := q.segs.filter (fun g => g.pcid != some pcid) }
        else if endNames q.cons new then { q with segs := addSegment j pcid (mapGet 0 i offs) q.segs }
        else q) }))
  (List.range 32).foldl (fun s i =>
    match theQueue s j.jid b.pl i with
    | some q => if endNames q.cons new then wakePushes s j.jid b.pl q else s
    | none => s) s

/-- CORE_REBIND (R85 step 4, R448). -/
def execCoreRebind (s : State) : Host.Outcome State Fault Refusal :=
  match s.subject with
  | .core pcid =>
    let c := getCore s pcid
    match c.move, c.bind with
    | some m, some b =>
      match (findJob s b.jid).bind (fun j => (j.pipes[b.pl]?).bind (fun p =>
          (j.stage? b.pl m.stage).map (fun g => (j, p, g)))) with
      | none => .refused .notEnabled
      | some (j, p, g) =>
        let e := areaEnds j p g
        let held := !g.args.isEmpty && arrivedAt s (pcid * 2 ^ 20 + argsOff j) g.args.length
        if !j.runs || !drainedCore s c b p || reachesUrgent c e.1 e.2 || held then .refused .notEnabled
        else
          let s := setCore s { c with move := none, steal := .idle, lowEnd := e.1, segOff := e.2 }
          let s := setBind s pcid (some { b with stage := m.stage })
          let a := pcid * 2 ^ 20 + argsOff j
          let s := writeBytes s a g.args
          let s := if g.args.isEmpty then s else lsWritten s a g.args.length
          .next (settleJob (moveSegments s j b pcid m.stage) j.jid)
    | _, _ => .refused .notEnabled
  | _ => .refused .notEnabled

/-! ## Resuming a suspended job -/

/-- The place of a logical core after a resume: `old` and `new` list the cores in logical order. -/
def movedCore (old new : List Nat) (p : Nat) : Nat :=
  match findIdx (fun c => c == p) old with
  | some i => (new[i]?).getD p
  | none => p

/-- A local-store address after a resume. -/
def movedAddr (old new : List Nat) (a : Nat) : Nat := movedCore old new (a / 2 ^ 20) * 2 ^ 20 + a % 2 ^ 20

/-- A place after a resume. -/
def movedPlace (old new : List Nat) : Place → Place
  | .ls a => .ls (movedAddr old new a)
  | p => p

/-- A flight of a job after a resume. -/
def movedFlight (old new : List Nat) (jid : Nat) (g : Flight) : Flight :=
  if g.jid = jid then
    { g with pcid := movedCore old new g.pcid
             elems := g.elems.map (fun e =>
               { e with place := movedPlace old new e.place, va := vaOf (movedPlace old new e.place) e.va }) }
  else g

/-- A reduction phase of a job after a resume. -/
def movedPhase (old new : List Nat) (jid : Nat) (p : Phase) : Phase :=
  if p.jid = jid then
    { p with opener := movedCore old new p.opener, parts := p.parts.map (movedCore old new), arrived := p.arrived.map (movedCore old new)
             places := p.places.map (movedPlace old new) }
  else p

/-- Some granule of `n` bytes of a physical range is marked (R447). -/
def rangeMarked (s : State) (a n : Nat) : Bool := s.poison.any (fun g => decide (64 * g < a + n ∧ a < 64 * g + 64))

/-- The leaf of a block of a job in the tables as they stand at its resume; none where they give none (R385). -/
def leafOf (s : State) (jid block : Nat) : Option Leaf :=
  (findJob s jid).bind (fun j => match translatePasid s j.space (block * blockSize) false with
    | .ok l => some l
    | .error _ => none)

/-- The PA of a block through its leaf. -/
def leafPa (l : Leaf) (block : Nat) : Nat := l.pa + block * blockSize % l.size

/-- The leaf through which a carrel of a suspended core is filled again: its block is pinned, its page is in device memory, and
none of its granules is marked (R241, R385, R447; log entry 18). -/
def refetchLeaf (s : State) (x : Carrel) : Option Leaf :=
  if x.pins = 0 then none
  else (leafOf s x.jid x.block).filter (fun l => !l.host && !rangeMarked s (leafPa l x.block) blockSize)

/-- A carrel at the resume of its core: that of a pinned block as a fill through its leaf leaves it, and any other empty. -/
def keptCarrel (s : State) (x : Carrel) : Carrel :=
  match refetchLeaf s x with
  | some l => { x with pa := leafPa l x.block, spl := some l.spl, cnt := l.cnt, tier := l.tier, dirty := [], spent := none }
  | none => Carrel.none

/-- The block of carrel `k` of a core, `x` in its image, filled again: its translation is stored, its page's code stamped, its
bytes read, and the fill counted (R185, R221, R227, R385). -/
def refetch (pcid : Nat) (s : State) (x : Carrel) (k : Nat) : State :=
  match refetchLeaf s x with
  | none => s
  | some l =>
    let a := pcid * 2 ^ 20 + carrelOff k
    let pa := leafPa l x.block
    let s := addTrans s (transOf (dieOf pcid) x.jid (x.block * blockSize) l)
    let s := setRegion { s with ls := writeNat s.ls a blockSize (readNat s.hbm pa blockSize) } a l.fcode
    let s := noteLeaf (lsWhole s a blockSize) pa blockSize l.cnt
    if l.cnt then countAccess s pa 256 l.tier.toNat else s

/-- A flight of a job that stays in being over its suspension: it is no request of a word that has not issued, or one that has a
place in the queue of a block at a home port or among those that wait for a hold-table entry there (R234, R383, R385). -/
def staysQueued (s : State) (cores : List Core) (g : Flight) : Bool :=
  !requestOnly g || cores.any (fun c => c.turned.any (fun x => x.1 == g.id)
    || c.holds.any (fun q => q.waiters.any (fun w => w.proxy == some g.id))) && (findFrond s g.uid).isSome

/-- A core restored: its blocks are absent but for the pinned ones, which are filled again, and what waits in its queues stays
there. Its main bank stays Frozen while an urgent context of the core is active (R130, R385). -/
def restoreCore (old new : List Nat) (jid : Nat) (s : State) (c : Core) : State :=
  let p := movedCore old new c.pcid
  let now := getCore s p
  let st := match c.steal with
    | .carrying bits ix _ => .carrying bits ix s.clk
    | _ => .idle
  let here := fun (id : Nat) => (findFlight s id).isSome
  let stay := fun (q : HoldQ) => { q with waiters := q.waiters.filter (fun w => w.proxy.all here) }
  let c' := { c with
    created := now.created ++ c.created.filter (fun x => x.1 == jid), steal := st
    holds := (c.holds.map stay).filter (fun q => !q.waiters.isEmpty)
    turned := c.turned.filter (fun x => here x.1)
    pcid := p, carrels := c.carrels.map (keptCarrel s), fill := none, urgent := now.urgent, frozen := now.frozen
    swapBack := now.swapBack, lost := now.lost, pipes := now.pipes, owed := now.owed, fwd := []
    waitList := now.waitList ++ (c.waitList.filter (waitOf s jid)).map (fun w =>
      { w with word := movedAddr old new w.word }) }
  c.carrels.zipIdx.foldl (fun s x => refetch p s x.1 x.2) (setCore s c')

/-- A frond of a job after a resume: one that is ready joins the ready list, and any other is where it was, but that a miss is
made again, and so is a request that has no place in a queue (`kept` gives the flights of those that do; R121, R385). Each
keeps its order among the fronds of its core (log entry 96, DESIGN CHOICE). -/
def restoreFrond (old new : List Nat) (jid clk : Nat) (kept : Nat → Bool) (f : Frond) : Frond :=
  if f.jid ≠ jid then f
  else
    let f := { f with pcid := movedCore old new f.pcid, notBefore := clk + 1, since := clk }
    let again := match f.wait with
      | .park 1 _ _ => true
      | .icache => true
      | .port id => !kept id
      | _ => false
    let f := match f.wait with
      | .park 7 obj info => { f with wait := .park 7 (movedCore old new obj) info }
      | _ => if again then { f with wait := .run } else f
    match f.loc with
    | .image (some n) => if f.wait == .run then { f with loc := .ready } else { f with loc := .slot n }
    | .image none => if f.wait == .run then { f with loc := .ready } else { f with loc := .hold }
    | _ => f

/-- The `pcid` table of an image (R384). -/
def imageCores (s : State) (addr n : Nat) : List Nat := (List.range n).map (fun i => readNat s.hbm (addr + 2 * i) 2)

/-- A core can take the place of a core of an image: it is free, has every feature of its stage, and its areas do not
reach those of an urgent context (R21, R67, R448). -/
def takesOver (s : State) (j : Job) (c : Core) (p : Nat) : Bool :=
  isCore p && (getCore s p).bind.isNone && !reachesUrgent (getCore s p) c.lowEnd c.segOff
    && match c.bind.bind (fun b => j.stage? b.pl b.stage) with
      | some g => coreSuits s j.jid p g
      | none => true
    && match c.bind.bind (fun b => c.move.bind (fun m => j.stage? b.pl m.stage)) with
      | some g => coreSuits s j.jid p g
      | none => true

/-- The cores of a `pcid` table can take a suspended job (R67). -/
def coresFree (s : State) (j : Job) (img : Image) (cores : List Nat) : Bool :=
  (img.cores.zip cores).all (fun x => takesOver s j x.1 x.2)
    && decide ((cores.foldl (fun acc p => setAdd p acc) []).length = cores.length)
    && cores.all (fun p => !(getEngine s (tileOf p)).queue.any (fun w => !w.urgent))

/-- The cluster that takes the place of a cluster after a resume. -/
def movedCluster (old new : List Nat) (k : Nat) : Nat :=
  ((old.zip new).find? (fun x => clusterOf x.1 == k)).elim k (fun x => clusterOf x.2)

/-- A saved run of semaphores is granted again in its cluster, at the lowest free blocks that hold it; none when the
cluster has no such blocks (R365, R383). -/
def restoreRun (old new : List Nat) (s : State) (r : SemRun) : Option State :=
  let k := movedCluster old new r.cluster
  let free := semBlocks s k
  (free.find? (fun b => decide (r.size ≤ 32 * runLength b (free.dropWhile (fun x => decide (x < b)))))).map (fun b =>
    { s with sems := s.sems ++ [{ r with cluster := k, base := 32 * b }] })

/-- Every saved run of a job granted again. -/
def restoreRuns (old new : List Nat) (runs : List SemRun) (s : State) : Option State :=
  runs.foldl (fun s r => s.bind (fun s => restoreRun old new s r)) (some s)

/-- The `pcid` table of an image can be read: none of its granules is marked (R447). -/
def tableReads (s : State) (addr n : Nat) : Bool := !rangeMarked s addr (2 * n)

/-- The image of a job at an address: the one that was written there, or else its latest, which has been carried there
(R384). -/
def imageAt (s : State) (jid addr : Nat) : Option Image :=
  match s.images.find? (fun i => i.jid == jid && i.addr == addr) with
  | some i => some i
  | none => (s.images.filter (fun i => i.jid == jid)).getLast?

/-- An image is the latest of its job, which stands as it does there. -/
def isLatest (s : State) (img : Image) : Bool :=
  ((s.images.filter (fun i => i.jid == img.jid)).getLast?.map (fun i => i.addr)) == some img.addr

/-- A suspended job as it was when an earlier image was written: its work after that checkpoint is run again (R446). -/
def rollBack (s : State) (img : Image) : State :=
  match img.job with
  | none => s
  | some old =>
    let mine := fun (uid : Nat) => s.fronds.any (fun f => f.uid == uid && f.jid == img.jid)
    { s with
        jobs := s.jobs.map (fun j => if j.jid = img.jid then { old with phase := j.phase } else j)
        fronds := img.fronds.foldl (fun fs f => insertBy (fun a b => decide (a.uid ≤ b.uid)) f fs)
          (s.fronds.filter (fun f => f.jid != img.jid))
        orphans := s.orphans.filter (fun o => !mine o.1)
        flights := s.flights.filter (fun g => g.jid != img.jid) ++ img.flights
        phases := s.phases.filter (fun p => p.jid != img.jid) ++ img.phases
        copyqs := s.copyqs.filter (fun c => c.jid != img.jid) ++ img.copyqs
        catalogue := s.catalogue.filter (fun e => e.jid != img.jid) ++ img.catalogue
        binds := s.binds.filter (fun b => !mine b.uid) ++ img.binds
        directory := s.directory.filter (fun d => d.jid != img.jid) ++ img.directory }

/-- A job about to resume from its image at an address: the state, the job and the image (R385, R446). -/
def resumeFrom (s : State) (jid addr : Nat) : Option (State × Job × Image) :=
  (imageAt s jid addr).bind (fun img =>
    let t := if isLatest s img then s else rollBack s img
    (findJob t jid).map (fun j => (t, j, img)))

/-- The names and the places in an order that an image holds: those of its fronds, flights, phases, queued copies and of what
waits for a hold-table entry. -/
def imageNames (img : Image) : List Nat :=
  img.fronds.flatMap (fun f => [f.uid, f.seq]) ++ img.flights.map (fun g => g.id) ++ img.phases.map (fun p => p.id)
    ++ img.copyqs.map (fun c => c.id) ++ img.cores.flatMap (fun c => c.turned.map (fun x => x.2.2))

/-- A package may take over the job of an image: no job here has its id, and its names are new here. -/
def mayTakeOver (s : State) (img : Image) : Bool :=
  s.mgmt.state == .operational && img.job.isSome && (findJob s img.jid).isNone && s.records.all (fun r => r.jid != img.jid)
    && (img.job.map (fun j => j.jid)) == some img.jid && (imageNames img).all (fun n => decide (s.fresh ≤ n))

/-- The job of a failed package comes to this one with the checkpoint image that firmware has carried to its memory: it
resumes as one that was suspended here (R384, R385, R446; log entry 68). -/
def takeOver (s : State) (img : Image) : State :=
  match img.job with
  | none => s
  | some j =>
    rollBack { s with
      jobs := s.jobs ++ [{ j with phase := .resuming img.addr }]
      images := s.images.filter (fun i => i.jid != img.jid) ++ [img]
      fresh := (imageNames img).foldl Nat.max s.fresh + 1 } img

/-- GANG_RESUME (R385). The image stays, as a checkpoint (R446). The stages whose conditions were met meanwhile complete (R89).
With an image as its subject it brings the job of a failed package, which resumes after that. The format codes are part of the
image and are laid back with it (log entry 18, DESIGN CHOICE: R384's list names none, and R184 has code 0 at a binding). -/
def execGangResume (s : State) : Host.Outcome State Fault Refusal :=
  match s.subject with
  | .spare img => if mayTakeOver s img then .next (takeOver s img) else .refused .notEnabled
  | .job jid =>
    match (findJob s jid).map Job.phase with
    | some (.resuming addr) =>
      match resumeFrom s jid addr with
      | none => .refused .notEnabled
      | some (s, j, img) =>
        let old := j.cores
        let new := imageCores s addr old.length
        match (if tableReads s addr old.length && coresFree s j img new then restoreRuns old new img.sems s else none) with
        | none => .refused .notEnabled
        | some s =>
          let s := countBare s addr (imageSize old.length img.engines.length)
          let s := updJob s jid (fun j =>
            { j with
                phase := .running, cores := new, progress := s.clk
                pipes := j.pipes.map (fun p => { p with queues := p.queues.map (fun q =>
                  { q with segs := q.segs.map (fun g => { g with pcid := g.pcid.map (movedCore old new) }) }) }) })
          let s := { s with
            ls := img.ls.foldl (fun m b => mapPut 0 (movedAddr old new b.1) b.2 m) s.ls
            empties := img.empties.foldl (fun m w => setAdd (movedAddr old new (8 * w) / 8) m) s.empties
            lsPoison := img.marks.foldl (fun m g => setAdd (movedAddr old new (64 * g) / 64) m) s.lsPoison
            fmtMap := img.fmts.foldl (fun m r => mapPut 0 (movedAddr old new (r.1 * blockSize) / blockSize) r.2 m)
              (clearCodes new s.fmtMap)
            flights := (s.flights.filter (fun g => g.jid != jid || staysQueued s img.cores g)).map (movedFlight old new jid)
            phases := s.phases.map (movedPhase old new jid)
            copyqs := s.copyqs.map (fun c => if c.jid = jid then { c with pcid := movedCore old new c.pcid } else c) }
          let s := img.cores.foldl (restoreCore old new jid) s
          let s := new.foldl (fun s p => refreshEngine s (tileOf p)) s
          let s := img.engines.foldl (fun s e =>
            updEngine s (tileOf (movedCore old new ((old.find? (fun p => tileOf p == e.tile)).getD (4 * e.tile))))
              (fun x => { x with main := e.main, mainJob := some jid, passed := false })) s
          let s := { s with fronds := s.fronds.map (restoreFrond old new jid s.clk (fun id => (findFlight s id).isSome)) }
          .next (settleJob (pendFirmware s (jobDie { j with cores := new }) 4) jid)
    | _ => .refused .notEnabled
  | _ => .refused .notEnabled

/-! ## Stream controllers -/

/-- A stream controller works for its job. -/
def streamRuns (j : Job) : Bool :=
  match j.phase with
  | .running => true
  | .suspending _ => true
  | .retiring _ => true
  | _ => false

/-- Where a byte of a stream's region lies, with the leaf that reached it; none while it has no translation (log
entry 19). -/
def streamPlace (s : State) (j : Job) (va : Nat) (write : Bool) : Option (Place × Leaf) :=
  match (if va < 2 ^ 56 ∧ inWindow va = false then translatePasid s j.space va write else .error 0) with
  | .error _ => none
  | .ok l =>
    let pa := l.pa + va % l.size
    some (if l.host then .host pa
      else if l.walk && j.walks then .walk j.jid (va / blockSize) (va % blockSize) (pa - va % blockSize)
      else .hbm pa, l)

/-- The granules of a stream's access are counted (R227). -/
def countStream (s : State) (p : Place) (l : Leaf) (n : Nat) : State :=
  match resolve s p with
  | .hbm pa => countLeaf s pa n l
  | _ => s

/-- The port of a stream's element serves it now: it gives way to the requests of urgent contexts, unless the job is
urgent (R243). -/
def streamServed (s : State) (j : Job) (p : Place) : Bool := j.urgent || !urgentWaits s p

/-- A place `n` bytes on. -/
def placePlus (p : Place) (n : Nat) : Place :=
  match p with
  | .ls a => .ls (a + n)
  | .hbm a => .hbm (a + n)
  | .host a => .host (a + n)
  | .walk j b o pa => .walk j b (o + n) pa

/-- No byte of a stream's element is among the lines that a fill in flight has still to bring (R230). -/
def landedAll (s : State) (p : Place) (n : Nat) : Bool :=
  (List.range (n / 8)).all (fun i => blockLanded s (placePlus p (8 * i)))

/-- The bytes of an element as a source reads them, in pieces of 8; a piece that cannot be read gives free values
(log entry 17). -/
def streamBytes (s : State) (p : Place) (n : Nat) : List Byte :=
  (List.range (n / 8)).flatMap (fun i =>
    match readPlace s (resolve s (placePlus p (8 * i))) 8 with
    | some v => natBytes 8 v
    | none => (List.range 8).map (fun k => Config.unreadByte (s.choices + 8 * i + k)))

/-- STREAM_SOURCE_PUSH (R32, R90). -/
def execStreamSourcePush (s : State) : Host.Outcome State Fault Refusal :=
  match s.subject with
  | .queue jid pl qn =>
    match findJob s jid, theQueue s jid pl qn with
    | some j, some q =>
      let n := 2 ^ q.esz
      if q.prod ≠ 0xF || q.closed || !streamRuns j || !j.live then .refused .notEnabled
      else
        match streamPlace s j (q.sva + q.streamed) false with
        | none => .refused .notEnabled
        | some (p, l) =>
          if !landedAll s p n || !streamServed s j p || ringReached s q then .refused .notEnabled
          else
            match pushElem { s with choices := s.choices + n } jid pl qn (streamBytes s p n) with
            | none => .refused .notEnabled
            | some s =>
              let s := updJob (countStream s p l n) jid (fun j => j.updQueue pl qn (fun q =>
                { q with streamed := q.streamed + n }))
              .next (if q.slen ≤ q.streamed + n then settleJob (closeQueue s jid pl qn) jid else s)
    | _, _ => .refused .notEnabled
  | _ => .refused .notEnabled

/-- One piece of an element is written by a sink; a piece in a marked granule is dropped (R250, R447). -/
def sinkPiece (p : Place) (bytes : List Byte) (s : State) (i : Nat) : State :=
  let t := resolve s (placePlus p (8 * i))
  if markedIn s t 8 then s else writeHome s t 8 (bytesNat ((bytes.drop (8 * i)).take 8))

/-- The pieces of an element that a sink drops. -/
def sinkFails (s : State) (p : Place) (n : Nat) : Bool :=
  (List.range (n / 8)).any (fun i => markedIn s (resolve s (placePlus p (8 * i))) 8)

/-- A failed write of a sink: an error record, and one error of the job (R250, R398). -/
def sinkError (s : State) (j : Job) (va : Nat) : State :=
  let r := Config.rmwRecord (va / 64 * 64)
  addErrors (errorRecord s r.1 j.aqi j.pasid r.2 j.jid) j.jid 1

/-- An element of a sink is written at its place in the region (R32). -/
def sinkWrite (s : State) (j : Job) (q : Queue) (bytes : List Byte) : Option State :=
  (streamPlace s j (q.sva + q.streamed) true).bind (fun (p, l) =>
    let late := match resolve s p with
      | .ls a => arrivedAt s a bytes.length
      | _ => false
    if late || !landedAll s p bytes.length || !streamServed s j p then none
    else
      let bad := sinkFails s p bytes.length
      let t := (List.range (bytes.length / 8)).foldl (sinkPiece p bytes) (countStream s p l bytes.length)
      some (if bad then sinkError t j (q.sva + q.streamed) else t))

/-- STREAM_SINK_WRITE (R32, R90). -/
def execStreamSinkWrite (s : State) : Host.Outcome State Fault Refusal :=
  match s.subject with
  | .queue jid pl qn =>
    match findJob s jid, theQueue s jid pl qn with
    | some j, some q =>
      match q.segs with
      | [{ elems := e :: _, .. }] =>
        if q.cons ≠ 0xF || !streamRuns j then .refused .notEnabled
        else
          let done := fun (s : State) =>
            match popElem s jid pl qn 0 with
            | some (_, s) => settleJob s jid
            | none => s
          let next := fun (s : State) => updJob s jid (fun j => j.updQueue pl qn (fun q =>
            { q with streamed := q.streamed + e.bytes.length }))
          if q.slen ≤ q.streamed then .next (done (addErrors s jid 1))
          else
            match sinkWrite s j q e.bytes with
            | some t => .next (done (next (noteProgress t jid)))
            | none => .refused .notEnabled
      | _ => .refused .notEnabled
    | _, _ => .refused .notEnabled
  | _ => .refused .notEnabled

end Sys2Proof.Machine
end

