-- ==== Sys2Proof/Machine/Host.lean ====
section
/-! DEFINITION. The host's side: notify pages and registers (R45 to R55), request packets (R56 to R66), intake
(R16 to R31, R59), and the retirement of jobs (R401 to R405). -/

namespace Sys2Proof.Machine

/-! ## Numbers in byte strings -/

/-- The number in `n` bytes from byte `off` of a byte string. -/
def bytesAt (bs : List Byte) (off n : Nat) : Nat := bytesNat ((bs.drop off).take n)

/-- The bytes from `lo` up to `hi` are zero. -/
def zeroBytes (bs : List Byte) (lo hi : Nat) : Bool := ((bs.take hi).drop lo).all (fun b => b == 0)

/-! ## Notify pages -/

/-- One interface changed. -/
def updAqi (s : State) (n : Nat) (g : Aqi → Aqi) : State := { s with aqis := s.aqis.modify n g }

/-- The status block of an interface (R52). -/
def statusBlock (s : State) (a : Aqi) : List Byte :=
  natBytes 2 (32 - a.ordinary.length) ++ natBytes 2 (4 - a.ahead.length) ++ natBytes 4 a.accepted
    ++ natBytes 4 a.retried ++ natBytes 4 a.refused
    ++ natBytes 4 (s.jobs.filter (fun j => j.live && j.aqi == a.n)).length ++ List.replicate 44 0

/-- A request is answered with Unsupported Request, with an error record unless `code` is 0 (R50, R52). The record of
a request without a PASID prefix has PASID 0 (log entry 70). -/
def unsupported (s : State) (n code off : Nat) (pasid : Option Nat) : State :=
  let s := updAqi { s with reply := .unsupported } n (fun a => { a with refused := (a.refused + 1) % 2 ^ 32 })
  if code = 0 then s else errorRecord s code n (pasid.getD 0) off 0

/-- A packet is accepted, or answered with Retry (R51, R52). -/
def acceptPacket (s : State) (a : Aqi) (off pasid pent : Nat) (data : List Byte) : State :=
  let full := if off = 0 then decide (32 ≤ a.ordinary.length) else decide (4 ≤ a.ahead.length)
  if full then
    updAqi { s with reply := .retry } a.n (fun a => { a with retried := (a.retried + 1) % 2 ^ 32 })
  else
    let p : Packet := { bytes := data, off := off, pasid := pasid, at_ := s.clk, order := s.fresh, pent := pent
                        job := none }
    updAqi { s with reply := .accepted, fresh := s.fresh + 1 } a.n (fun a =>
      let a := { a with accepted := (a.accepted + 1) % 2 ^ 32 }
      if off = 0 then { a with ordinary := a.ordinary ++ [p] } else { a with ahead := a.ahead ++ [p] })

/-- The answer to a request at a notify page (R50). -/
def answerNotify (s : State) (a : Aqi) (off len : Nat) (read : Bool) (pasid : Option Nat) (data : List Byte) : State :=
  if !a.en then unsupported s a.n 0 off pasid
  else
    match pasid.bind (fun p => (pasidEntry a p).map (fun e => (p, e))) with
    | none => unsupported s a.n 0x02 off pasid
    | some (p, e) =>
      if !read && len == 64 && data.length == 64 && (off == 0 || off == 0x200) then acceptPacket s a off p e data
      else if !read && len == 64 && data.length == 64 && off == 0x100 then
        if a.urg then acceptPacket s a off p e data else unsupported s a.n 0x03 off pasid
      else if read && off == 0x40 && decide (1 ≤ len ∧ len ≤ 64) then
        { s with reply := .completion ((statusBlock s a).take len) }
      else unsupported s a.n 0x01 off pasid

/-! ## Register reads -/

/-- A Bool as bit `n`. -/
def bitAt (b : Bool) (n : Nat) : Nat := b.toNat * 2 ^ n

/-- A read of 8 bytes of the configuration block of an interface (R46 to R49): reserved bits and unlisted offsets
read 0. -/
def readAqiReg (a : Aqi) (off : Nat) : Nat :=
  if off = 0 then bitAt a.en 0 + bitAt a.priv 1 + bitAt a.urg 2
  else if off = 0x008 then a.s2root
  else if off = 0x010 then a.errBase
  else if off = 0x018 then a.errHead
  else if off = 0x020 then a.errTail
  else if off = 0x028 then a.errVec.toNat
  else if 0x100 ≤ off ∧ off < 0x500 ∧ off % 8 = 0 then
    match a.pasids[(off - 0x100) / 16]? with
    | some e => if off % 16 = 8 then e.root else e.pasid + bitAt e.nest 62 + bitAt e.valid 63
    | none => 0
  else if 0x800 ≤ off ∧ off < 0xA00 ∧ off % 8 = 0 then
    match a.remap[(off - 0x800) / 8]? with
    | some (v, m) => m + bitAt v 63
    | none => 0
  else 0

/-- MSTAT (R439). -/
def mstat (m : Mgmt) : Nat :=
  let st := match m.state with
    | .bringingUp => 0
    | .safe => 1
    | .operational => 2
  st + 2 ^ 4 * m.refseq.toNat + 2 ^ 5 * m.fwok.toNat + 2 ^ 6 * m.alarm.toNat + 2 ^ 7 * m.erased.toNat
    + 2 ^ 8 * (m.fail % 16) + 2 ^ 12 * (m.step % 16)

/-- A read of 8 bytes of the management block (R439): unlisted offsets read 0, as does MBDB's bit 0 (log entry 91, DESIGN
CHOICE). -/
def readMgmtReg (m : Mgmt) (off : Nat) : Nat :=
  if off = 0 then mstat m
  else if off = 0x008 then m.pkgnum
  else if off = 0x010 then m.pwr
  else if 0x40 ≤ off ∧ off < 0x80 ∧ off % 8 = 0 then bytesAt m.cmd (off - 0x40) 8
  else if off = 0x80 then bitAt m.busy 1 + bitAt m.done 2
  else if 0xC0 ≤ off ∧ off < 0x100 ∧ off % 8 = 0 then bytesAt m.rsp (off - 0xC0) 8
  else if off = 0x100 then m.evBase
  else if off = 0x108 then m.evHead
  else if off = 0x110 then m.evTail
  else if off = 0x118 then m.evVec.toNat
  else 0

/-- A read of 8 bytes of the MSI-X table (R45, R66; log entry 7): address, then data, mask and pending bit. The pending bit is
read at bit 33 of the second 8 bytes (log entry 107, DESIGN CHOICE: R66 refers to the PCIe rules, and gives it no place). -/
def readMsix (s : State) (off : Nat) : Nat :=
  if 512 ≤ off / 16 ∨ off % 8 ≠ 0 then 0
  else
    let e := mapGet msixZero (off / 16) s.msix
    if off % 16 = 0 then e.addr else e.data + bitAt e.masked 32 + bitAt e.pending 33

/-- A read of 8 bytes of what the model keeps of the configuration space (R45; log entry 71): at 0 the capability,
bit 0 a DMWr completer and bits 12:8 the width of a PASID; at 8 the Message Control word of MSI-X. -/
def readConfig (s : State) (off : Nat) : Nat :=
  if off = 0 then 1 + 20 * 2 ^ 8
  else if off = 8 then 511 + bitAt s.msixHush 14 + bitAt s.msixOn 15
  else 0

/-- What a driver's read of 8 bytes of a block of registers returns. -/
def readRegister (s : State) (block : RegBlock) (off : Nat) : Nat :=
  match block with
  | .mgmt => readMgmtReg s.mgmt off
  | .aqi n => ((s.aqis[n]?).map (fun a => readAqiReg a off)).getD 0
  | .msix => readMsix s off
  | .config => readConfig s off

/-- NOTIFY_DMWR (R50): a DMWr, or a memory read; also a driver's read of a register, which changes nothing (R5, R46,
R439). -/
def execNotifyDmwr (s : State) : Host.Outcome State Fault Refusal :=
  match s.subject with
  | .registerRead block off =>
    if s.mgmt.dark then .refused .notEnabled
    else .next { s with reply := .completion (natBytes 8 (readRegister s block off)) }
  | .notify n off len read pasid data =>
    match s.aqis[n]? with
    | none => .refused .notEnabled
    | some a => if s.mgmt.dark then .refused .notEnabled else .next (answerNotify s a off len read pasid data)
  | _ => .refused .notEnabled

/-- NOTIFY_POSTED_WRITE (R50). -/
def execNotifyPostedWrite (s : State) : Host.Outcome State Fault Refusal :=
  match s.subject with
  | .posted n off pasid =>
    match s.aqis[n]? with
    | none => .refused .notEnabled
    | some _ =>
      if s.mgmt.dark then .refused .notEnabled
      else .next (errorRecord { s with reply := .none } 0x01 n (pasid.getD 0) off 0)
  | _ => .refused .notEnabled

/-! ## Revocation -/

/-- An accepted packet is dropped before its intake (R54). Its record names no job, whatever JID the packet names (log
entry 70). -/
def dropPacket (s : State) (n : Nat) (p : Packet) : State :=
  let out := fun (l : List Packet) => l.filter (fun x => x.order != p.order)
  errorRecord (updAqi s n (fun a => { a with ordinary := out a.ordinary, ahead := out a.ahead }))
    0x07 n p.pasid (bytesAt p.bytes 4 4) 0

/-- A live job ends without a record (R54, R442). -/
def endSilently (s : State) (j : Job) : State :=
  errorRecord (beginRetire s j.jid none) 0x06 j.aqi j.pasid (j.tag % 2 ^ 32) j.jid

/-- A PASID of an interface is revoked (R54). -/
def revoke (s : State) (n pasid : Nat) : State :=
  match s.aqis[n]? with
  | none => s
  | some a =>
    let ps := (a.ahead ++ a.ordinary).filter (fun p => p.pasid == pasid && p.job.isNone)
    let s := ps.foldl (fun s p => dropPacket s n p) s
    (s.jobs.filter (fun j => j.live && j.aqi == n && j.pasid == pasid)).foldl endSilently s

/-- A PASID table entry after a write of its low (false) or high half (R48). -/
def writeEntry (e : PasidEntry) (high : Bool) (v : Nat) : PasidEntry :=
  if high then { e with root := v }
  else { e with valid := v.testBit 63, nest := v.testBit 62, pasid := v % 2 ^ 20 }

/-- A write to a PASID table: the index and the new entry. -/
def pasidWrite (a : Aqi) (off v : Nat) : Option (Nat × PasidEntry) :=
  if off < 0x100 ∨ 0x500 ≤ off ∨ off % 8 ≠ 0 then none
  else
    let i := (off - 0x100) / 16
    (a.pasids[i]?).map (fun e => (i, writeEntry e (off % 16 == 8) v))

/-- Jobs and packets whose entry no longer holds their PASID go to the lowest one that does (R55), and the translations
of such a job are made anew. -/
def reseat (s : State) (n : Nat) : State :=
  match s.aqis[n]? with
  | none => s
  | some a =>
    let seat := fun (pasid pent : Nat) =>
      if ((a.pasids[pent]?).map (entryHolds pasid)).getD false then pent else (pasidEntry a pasid).getD pent
    let pk := fun (p : Packet) => { p with pent := seat p.pasid p.pent }
    let s := updAqi s n (fun a => { a with ordinary := a.ordinary.map pk, ahead := a.ahead.map pk })
    let moved := fun (j : Job) => j.aqi == n && seat j.pasid j.pent != j.pent
    let gone := (s.jobs.filter moved).map (fun j => j.jid)
    { s with
        jobs := s.jobs.map (fun j => if j.aqi = n then
          { j with pent := seat j.pasid j.pent, cpent := seat j.pasid j.cpent } else j)
        tstore := s.tstore.filter (fun t => !gone.contains t.jid) }

/-- The PASID that a write to an interface's PASID table revokes (R54): one that a VALID entry held and none holds
after it. A write that puts another PASID into a VALID entry counts as one that clears it (log entry 70). -/
def revokes (a : Aqi) (off v : Nat) : Option Nat :=
  (pasidWrite a off v).bind (fun (i, e) => (a.pasids[i]?).bind (fun old =>
    let now := { a with pasids := a.pasids.set i e }
    if old.valid && (pasidEntry now old.pasid).isNone then some old.pasid else none))

/-- A write to an interface's PASID table (R48, R54, R55). -/
def writePasid (s : State) (a : Aqi) (off v : Nat) : State :=
  match pasidWrite a off v with
  | none => s
  | some (i, e) =>
    let t := reseat (updAqi s a.n (fun a => { a with pasids := a.pasids.set i e })) a.n
    match revokes a off v with
    | some p => revoke t a.n p
    | none => t

/-- PASID_REVOCATION (R54). -/
def execPasidRevocation (s : State) : Host.Outcome State Fault Refusal :=
  match s.subject with
  | .pasidWrite n off v =>
    match s.aqis[n]? with
    | none => .refused .notEnabled
    | some a =>
      if s.mgmt.dark || (revokes a off v.toNat).isNone then .refused .notEnabled else .next (writePasid s a off v.toNat)
  | _ => .refused .notEnabled

/-! ## Registers -/

/-- A write to the configuration block of an interface (R46 to R49, R438). -/
def writeAqiReg (s : State) (a : Aqi) (off : Nat) (v : Word) : State :=
  let x := v.toNat
  let n := a.n
  if off = 0 then
    let en := if s.mgmt.state == .operational then x.testBit 0 else a.en
    updAqi s n (fun a => { a with en := en, priv := x.testBit 1, urg := x.testBit 2 })
  else if off = 0x008 then updAqi s n (fun a => { a with s2root := x })
  else if off = 0x010 then updAqi s n (fun a => { a with errBase := x })
  else if off = 0x020 then updAqi s n (fun a => { a with errTail := x % 256 })
  else if off = 0x028 then updAqi s n (fun a => { a with errVec := v })
  else if 0x800 ≤ off ∧ off < 0xA00 ∧ off % 8 = 0 then
    updAqi s n (fun a => { a with remap := a.remap.set ((off - 0x800) / 8) (x.testBit 63, x % 512) })
  else writePasid s a off x

/-- A byte string with 8 bytes replaced. -/
def putBytes (bs : List Byte) (off v : Nat) : List Byte := bs.take off ++ natBytes 8 v ++ bs.drop (off + 8)

/-- A write to the management block (R439, R440). A driver's write of MBDB's bit 1 has no effect (log entry 91, DESIGN
CHOICE). -/
def writeMgmtReg (s : State) (off : Nat) (v : Word) : State :=
  let m := s.mgmt
  let x := v.toNat
  if 0x40 ≤ off ∧ off < 0x80 ∧ off % 8 = 0 then
    if m.busy then s else { s with mgmt := { m with cmd := putBytes m.cmd (off - 0x40) x } }
  else if off = 0x80 then
    if m.busy then s
    else
      let s := { s with mgmt := { m with busy := x.testBit 0, done := x.testBit 2, answer := none, inval := none } }
      if x.testBit 0 then pendFirmwareAll s 0 else s
  else if off = 0x100 then { s with mgmt := { m with evBase := x } }
  else if off = 0x110 then { s with mgmt := { m with evTail := x % 256 } }
  else if off = 0x118 then { s with mgmt := { m with evVec := v } }
  else s

/-- A write to the MSI-X table: unmasking a pending entry sends its message (R45, R66). -/
def writeMsix (s : State) (off : Nat) (v : Word) : State :=
  let i := off / 16
  if 512 ≤ i ∨ off % 8 ≠ 0 then s
  else
    let e := mapGet msixZero i s.msix
    if off % 16 = 0 then { s with msix := mapPut msixZero i { e with addr := v.toNat } s.msix }
    else
      let masked := v.toNat.testBit 32
      let send := e.pending && !masked && s.msixOn && !s.msixHush
      let e' := { e with data := v.toNat % 2 ^ 32, masked := masked, pending := e.pending && !send }
      let s := { s with msix := mapPut msixZero i e' s.msix }
      if send then sendMsix s i else s

/-- A write to the configuration space: MSI-X Enable and Function Mask (R45, R66; log entry 71). Clearing the mask
sends the messages of the entries that are pending and not masked themselves. -/
def writeConfig (s : State) (off : Nat) (v : Word) : State :=
  if off ≠ 8 then s
  else
    let s := { s with msixOn := v.toNat.testBit 15, msixHush := v.toNat.testBit 14 }
    if !s.msixOn || s.msixHush then s
    else
      (s.msix.filter (fun e => e.2.pending && !e.2.masked)).foldl (fun s e =>
        sendMsix { s with msix := mapPut msixZero e.1 { e.2 with pending := false } s.msix } e.1) s

/-- REGISTER_WRITE (R46 to R49, R439). -/
def execRegisterWrite (s : State) : Host.Outcome State Fault Refusal :=
  match s.subject with
  | .register block off v =>
    if s.mgmt.dark then .refused .notEnabled
    else
      match block with
      | .mgmt => .next (writeMgmtReg s off v)
      | .msix => .next (writeMsix s off v)
      | .config => .next (writeConfig s off v)
      | .aqi n =>
        match s.aqis[n]? with
        | some a => .next (writeAqiReg s a off v)
        | none => .refused .notEnabled
  | _ => .refused .notEnabled

/-! ## Completion records -/

/-- The fields of a completion record (R403). -/
structure Record where
  status : Nat
  clamp : Bool := false
  flt : Nat := 0
  tag : Nat
  jid : Nat
  count : Nat := 0
  cycles : Nat
  sat : Nat := 0
  inf : Nat := 0
  nan : Nat := 0
  errors : Nat := 0
  deriving DecidableEq, Repr

/-- A completion record as its 32 bytes (R403). -/
def recordBits (r : Record) : Nat :=
  let cap := fun (x w : Nat) => Nat.min x (2 ^ w - 1)
  r.status + 2 ^ 8 * r.clamp.toNat + 2 ^ 10 * (r.flt / 2 % 64) + 2 ^ 16 * (r.tag % 2 ^ 32) + 2 ^ 48 * (r.jid % 2 ^ 16)
    + 2 ^ 64 * (r.count % 2 ^ 48) + 2 ^ 112 * cap r.cycles 56 + 2 ^ 168 * cap r.sat 22 + 2 ^ 190 * cap r.inf 22
    + 2 ^ 212 * cap r.nan 22 + 2 ^ 234 * cap r.errors 22

/-- The interrupt of a completion record, or of a packet with CRA 0: the message of its remap entry, or error record 0x05 when
that is not VALID (R66). A VEC past the table names an entry that is not VALID (log entry 70). -/
def raiseIrq (s : State) (aqi pasid vec tag jid : Nat) : State :=
  match (s.aqis[aqi]?).bind (fun a => a.remap[vec]?) with
  | some (true, m) => sendMsix s m
  | _ => errorRecord s 0x05 aqi pasid (tag % 2 ^ 32) jid

/-- A completion record sets out for its CRA (R65, R405). One that cannot be translated is not written, and error record 0x04
is logged; with CRA 0 the interrupt alone is left. A misaligned CRA is taken as it is (log entry 70). `packet` says that the
record ends a packet rather than a job. -/
def writeRecord (s : State) (x : Space) (cra : Nat) (irq : Bool) (vec : Nat) (packet : Bool) (r : Record) : State :=
  let code4 := errorRecord s 0x04 x.aqi x.pasid (r.tag % 2 ^ 32) r.jid
  if cra = 0 then if irq then raiseIrq s x.aqi x.pasid vec r.tag r.jid else s
  else if 2 ^ 56 ≤ cra then code4
  else
    match translatePasid s x cra true with
    | .error _ => code4
    | .ok l =>
      let a := l.pa + cra % l.size
      let s := if l.host then s else countLeaf s a 32 l
      let w : RecWrite := { place := if l.host then .host a else .hbm a, bits := recordBits r, left := [1, 2, 3], va := cra
                            aqi := x.aqi, pasid := x.pasid, vec := if irq then some vec else none, tag := r.tag
                            jid := r.jid, packet := packet }
      { s with records := s.records ++ [w] }

/-- Piece `k` of a record written: one aligned piece of 8 bytes (R405). Memory that is marked keeps its bytes (R250, R447). -/
def putPiece (s : State) (w : RecWrite) (k : Nat) : State :=
  let p := placePlus w.place (8 * k)
  if markedIn s p 8 then s else writePlace s p 8 (Nat.field w.bits (64 * k) 64)

/-- Piece `k` of the oldest record on its way is written: pieces 1 to 3 in any order, then piece 0, and with it the interrupt
(R66, R405). The next record waits for it. None when the piece may not be written now. -/
def recordPiece (s : State) (k : Nat) : Option State :=
  match s.records with
  | [] => none
  | w :: ws =>
    if w.left.contains k then
      some { putPiece s w k with records := { w with left := w.left.filter (fun x => x != k) } :: ws }
    else if k = 0 ∧ w.left = [] then
      let t := { putPiece s w 0 with records := ws }
      some (match w.vec with
        | some v => raiseIrq t w.aqi w.pasid v w.tag w.jid
        | none => t)
    else none

/-! ## Packets -/

/-- Fields of the common header (R56). -/
def Packet.op (p : Packet) : Nat := bytesAt p.bytes 0 1
def Packet.go (p : Packet) : Bool := (bytesAt p.bytes 1 1).testBit 1
def Packet.irq (p : Packet) : Bool := (bytesAt p.bytes 1 1).testBit 0
def Packet.vec (p : Packet) : Nat := bytesAt p.bytes 2 2
def Packet.tag (p : Packet) : Nat := bytesAt p.bytes 4 4
def Packet.cra (p : Packet) : Nat := bytesAt p.bytes 8 8
/-- JID of a packet that is not an INTAKE. -/
def Packet.jid (p : Packet) : Nat := bytesAt p.bytes 16 2

/-- The address space of a packet (R55). -/
def Packet.space (p : Packet) (n : Nat) : Space := { aqi := n, pasid := p.pasid, pent := p.pent }

/-- The packet of an interface that is next: those of offsets 0x100 and 0x200 come first, and none begins before the
one at work has completed (R58; log entry 20). -/
def nextPacket (a : Aqi) : Option Packet :=
  if (a.ahead ++ a.ordinary).any (fun p => p.job.isSome) then none else (a.ahead ++ a.ordinary).head?

/-- A packet's intake is complete: it gives up its entry (R51). -/
def releasePacket (s : State) (n : Nat) (p : Packet) : State :=
  let out := fun (l : List Packet) => l.filter (fun x => x.order != p.order)
  updAqi s n (fun a => { a with ordinary := out a.ordinary, ahead := out a.ahead })

/-- A packet waits for a job: for its placement, or its retirement. -/
def holdPacket (s : State) (n : Nat) (p : Packet) (jid : Nat) : State :=
  let wait := fun (x : Packet) => if x.order = p.order then { x with job := some jid } else x
  updAqi s n (fun a => { a with ordinary := a.ordinary.map wait, ahead := a.ahead.map wait })

/-- A packet finishes with a record of its own (R65, R404). `clamp` is the clamp flag of a job that its INTAKE leaves
open (R23, R403). -/
def finishPacket (s : State) (n : Nat) (p : Packet) (status jid count : Nat) (clamp : Bool := false) : State :=
  writeRecord (releasePacket s n p) (p.space n) p.cra p.irq p.vec true
    { status := status, clamp := clamp, tag := p.tag, jid := jid, count := count, cycles := s.clk - p.at_ }

/-- The PACKET checks on the header (R56, R57). -/
def headerOk (p : Packet) (offs : List Nat) (go : Bool) : Bool :=
  offs.contains p.off && (bytesAt p.bytes 1 1 < (if go then 4 else 2)) && p.vec < 64 && p.cra % 32 == 0

/-- The record of the latest packet of an interface is still on its way: the packet has not completed (R58, R405). -/
def recordOwed (s : State) (n : Nat) : Bool := s.records.any (fun w => w.packet && w.aqi == n)

/-- The packet at an interface whose turn it is, with its interface, when firmware serves packets of its kind. -/
def turnPacket (s : State) (n : Nat) (kind : Nat → Bool) : Option (Aqi × Packet) :=
  (s.aqis[n]?).bind (fun a => (nextPacket a).bind (fun p =>
    if kind p.op && s.mgmt.state == .operational && !recordOwed s n then some (a, p) else none))

/-- The job that a packet may act on: a live one (R63). -/
def liveJob (s : State) (jid : Nat) : Option Job := (findJob s jid).filter Job.live

/-! ## Region control blocks (R18 to R27) -/

/-- An RCB as its bits. -/
abbrev Rcb := Nat

/-- Fields of R19. -/
def rcbKind (r : Rcb) : Nat := Nat.field r 0 2
def rcbParent (r : Rcb) : Nat := Nat.field r 64 64
def rcbChild (r : Rcb) : Nat := Nat.field r 128 64
def rcbSibling (r : Rcb) : Nat := Nat.field r 192 64

/-- Inheritable fields of R22: low bit, width, and the default of a job RCB. In order: PRIO, FDOM, REGS, CMIN,
CMAX, CARR, HOLDB, DEQ, BINT, LONE, HIMARK, LOMARK, MOVES, TRAPH, SUPV, FEAT, WSET. -/
def inheritable : List (Nat × Nat × Nat) :=
  [(4, 4, 2), (8, 4, 1), (16, 16, 16), (32, 16, 1), (48, 16, 4608), (304, 8, 4), (256, 32, 16384), (288, 16, 256)
  , (312, 8, 16), (320, 32, 65536), (352, 16, 192), (368, 16, 64), (656, 8, 8), (384, 64, 0), (448, 64, 0)
  , (512, 64, 0), (576, 64, 0)]

/-- Positions in `inheritable`. -/
abbrev iPRIO : Nat := 0
abbrev iFDOM : Nat := 1
abbrev iREGS : Nat := 2
abbrev iCMIN : Nat := 3
abbrev iCMAX : Nat := 4
abbrev iCARR : Nat := 5
abbrev iHOLDB : Nat := 6
abbrev iDEQ : Nat := 7
abbrev iBINT : Nat := 8
abbrev iLONE : Nat := 9
abbrev iHIMARK : Nat := 10
abbrev iLOMARK : Nat := 11
abbrev iMOVES : Nat := 12
abbrev iTRAPH : Nat := 13
abbrev iSUPV : Nat := 14
abbrev iFEAT : Nat := 15
abbrev iWSET : Nat := 16

/-- The effective values of an RCB before clamping, from those of its parent (R22); `defaults` for a job RCB. -/
def inherit (r : Rcb) (parent : List Nat) : List Nat :=
  inheritable.zipIdx.map (fun (x, i) =>
    let own := Nat.field r x.1 x.2.1
    if own = 2 ^ x.2.1 - 1 then nth parent i else own)

/-- The defaults of a job RCB (R22). -/
def defaults : List Nat := inheritable.map (fun x => x.2.2)

/-- The reads of an intake, each counted as it is made (R227): an answer, or the status of a refusal. -/
abbrev Intake (α : Type) := ExceptT Nat (StateM State) α

/-- A read of step 2 of R59: status XLATE when it cannot be made. -/
def readOr (x : Space) (va n : Nat) : Intake (List Byte) := do
  let r := readVaBytes (← get) x va n
  set r.1
  match r.2 with
  | some bs => return bs
  | none => throw 0x03

/-- An RCB read at a VA. -/
def readRcb (x : Space) (va : Nat) : Intake Rcb := do
  let bs ← readOr x va 256
  return bytesNat bs

/-- A child list of RCBs of one kind, as far as R18 and R20 let it be read; `seen` are the RCBs reached. The entry past
the limits is not read (log entry 70). -/
def readList (x : Space) (kind : Nat) : Nat → Nat → List Nat → Intake (List (Nat × Rcb) × List Nat)
  | 0, va, seen => if va = 0 then return ([], seen) else throw 0x04
  | fuel + 1, va, seen =>
    if va = 0 then return ([], seen)
    else if seen.contains va then throw 0x04
    else do
      let r ← readRcb x va
      if rcbKind r ≠ kind then throw 0x04
      else
        let (rest, seen) ← readList x kind fuel (rcbSibling r) (va :: seen)
        return ((va, r) :: rest, seen)

/-- The pieces of a stage as read. -/
structure RawStage where
  va : Nat
  rcb : Rcb
  args : List Byte
  deriving DecidableEq, Repr

/-- The pieces of a pipeline as read. -/
structure RawPipe where
  va : Nat
  rcb : Rcb
  stages : List RawStage
  /-- Queue descriptors. -/
  queues : List Nat
  deriving DecidableEq, Repr

/-- The whole tree as read (R17). -/
structure RawTree where
  va : Nat
  rcb : Rcb
  pipes : List RawPipe
  wset : List Nat
  deriving DecidableEq, Repr

/-- ARGSZ keeps its limits (R27). -/
def argszOk (r : Rcb) : Bool := decide (Nat.field r 1344 16 ≤ 4096) && Nat.field r 1344 16 % 8 == 0

/-- The argument block of a stage: ARGSZ bytes, whether or not R27 allows as many. -/
def readArgs (x : Space) (r : Rcb) : Intake (List Byte) := readOr x (Nat.field r 1280 64) (Nat.field r 1344 16)

/-- The stage lists of the pipelines, in order. -/
def readStages (x : Space) : List (Nat × Rcb) → List Nat → Intake (List (Nat × Rcb × List (Nat × Rcb)))
  | [], _ => return []
  | (va, r) :: ps, seen => do
    let (gs, seen) ← readList x 2 16 (rcbChild r) seen
    let rest ← readStages x ps seen
    return (va, r, gs) :: rest

/-- QTAB and the argument blocks of a pipeline: QN descriptors, whether or not R26 allows as many. -/
def readPipe (x : Space) (p : Nat × Rcb × List (Nat × Rcb)) : Intake RawPipe := do
  let n := Nat.field p.2.1 1088 6
  let bs ← readOr x (Nat.field p.2.1 1024 64) (32 * n)
  let gs ← p.2.2.mapM (fun g => do
    let a ← readArgs x g.2
    return ({ va := g.1, rcb := g.2, args := a } : RawStage))
  return { va := p.1, rcb := p.2.1, stages := gs, queues := (List.range n).map (fun i => bytesAt bs (32 * i) 32) }

/-- WCNT of a job RCB in effect: none where WSET inherits (R19, R22). -/
def wcntOf (r : Rcb) : Nat := if Nat.field r 576 64 = 2 ^ 64 - 1 then 0 else Nat.field r 640 16

/-- Step 2 of R59. -/
def readTree (x : Space) (va : Nat) : Intake RawTree := do
  let r ← readRcb x va
  if rcbKind r ≠ 0 then throw 0x04
  else
    let (ps, seen) ← readList x 1 64 (rcbChild r) [va]
    let ps ← readStages x ps seen
    let pipes ← ps.mapM (readPipe x)
    let n := wcntOf r
    let ws ← readOr x (Nat.field r 576 64) (2 * n)
    return { va := va, rcb := r, pipes := pipes, wset := (List.range n).map (fun i => bytesAt ws (2 * i) 2) }

/-- A reserved or coded field of the common part of an RCB is refused (R18, R19). -/
def commonBad (va : Nat) (r : Rcb) : Bool :=
  let coded := fun (x : Nat) => decide (4 ≤ x ∧ x ≤ 14)
  let feat := Nat.field r 512 64
  va % 256 != 0 || Nat.field r 664 360 != 0 || Nat.field r 12 4 != 0 || Nat.field r 2 2 != 0
    || coded (Nat.field r 8 4) || coded (Nat.field r 4 4) || (feat != 2 ^ 64 - 1 && decide (16 ≤ feat))

/-- A queue descriptor breaks R29 or R30. -/
def queueBad (snums : List Nat) (q : Nat) : Bool :=
  let prod := Nat.field q 4 4
  let cons := Nat.field q 8 4
  let esz := Nat.field q 0 4
  let segn := Nat.field q 16 13
  let sva := Nat.field q 64 64
  let slen := Nat.field q 128 48
  let names := fun (e : Nat) => e == 0xF || snums.contains e
  let stream := prod == 0xF || cons == 0xF
  Nat.field q 176 80 != 0 || Nat.field q 29 35 != 0 || Nat.field q 12 4 != 0 || prod == cons || !names prod
    || !names cons || decide (esz < 3 ∨ 8 < esz) || decide (segn < 16 ∨ 4096 < segn) || powerUp segn != segn
    || (if stream then slen == 0 || slen % 2 ^ esz != 0 || sva % 2 ^ esz != 0 else slen != 0 || sva != 0)

/-- A stage RCB breaks its rules (R18, R20, R27, R30, R59). The alignment of an ARGVA that is not used is not checked (log
entry 93, DESIGN CHOICE). -/
def stageBad (p : RawPipe) (nlw : Nat) (g : RawStage) : Bool :=
  let r := g.rcb
  let snum := Nat.field r 1360 4
  let fed := Nat.field r 1364 1 == 1
  let ends := fun (lo : Nat) => (p.queues.filter (fun q => endNames (Nat.field q lo 4) snum)).length
  let argsz := Nat.field r 1344 16
  commonBad g.va r || Nat.field r 1370 678 != 0 || Nat.field r 1365 3 != 0 || Nat.field r 1264 16 != 0
    || Nat.field r 1200 16 != 0 || Nat.field r 1136 16 != 0 || rcbParent r != p.va || rcbChild r != 0
    || !argszOk r || (argsz != 0 && Nat.field r 1280 64 % 8 != 0) || Nat.field r 1024 64 % 4 != 0
    || decide (argsz < 8 * nlw) || decide (4 < ends 8) || decide (4 < ends 4)
    || (if fed then Nat.field r 1088 48 != 0 || Nat.field r 1152 48 != 0 || Nat.field r 1216 48 != 0
          || decide (ends 8 ≤ Nat.field r 1368 2)
        else Nat.field r 1368 2 != 0)

/-- A pipeline RCB breaks its rules (R18, R20, R26, R27, R30). The alignment of a QTAB that is not used is not checked (log
entry 93, DESIGN CHOICE). -/
def pipeBad (job nlw : Nat) (p : RawPipe) : Bool :=
  let r := p.rcb
  let nstg := Nat.field r 1094 5
  let qn := Nat.field r 1088 6
  let snums := p.stages.map (fun g => Nat.field g.rcb 1360 4)
  commonBad p.va r || Nat.field r 1099 949 != 0 || rcbParent r != job || nstg != p.stages.length || nstg == 0
    || decide (32 < qn) || (qn != 0 && Nat.field r 1024 64 % 32 != 0)
    || (snums.foldl (fun acc n => setAdd n acc) []).length != snums.length || snums.any (fun n => decide (nstg ≤ n))
    || p.queues.any (queueBad snums) || p.stages.any (stageBad p nlw)

/-- Step 3 of R59. -/
def treeBad (t : RawTree) (nlw : Nat) : Bool :=
  let r := t.rcb
  let wset := Nat.field r 576 64
  commonBad t.va r || Nat.field r 1169 879 != 0 || Nat.field r 1040 48 != 0 || decide (65536 < Nat.field r 1152 17)
    || rcbParent r != 0 || rcbChild r == 0 || (wset != 2 ^ 64 - 1 && wset % 2 != 0) || t.pipes.any (pipeBad t.va nlw)

/-- Step 4 of R59: a ranged stage of 2^48 items or more. -/
def boundsBad (t : RawTree) : Bool :=
  t.pipes.any (fun p => p.stages.any (fun g =>
    Nat.field g.rcb 1364 1 == 0
      && decide (2 ^ 48 ≤ Nat.field g.rcb 1088 48 * Nat.field g.rcb 1152 48 * Nat.field g.rcb 1216 48)))

/-- A stage of the job, with its budget fields as they are asked for (R22, R27, R59): launch words lie over the first
bytes of its argument block. -/
def buildStage (lw : List Byte) (parent : List Nat) (g : RawStage) : Stage :=
  let r := g.rcb
  let v := inherit r parent
  { snum := Nat.field r 1360 4, regs := nth v iREGS, cmin := nth v iCMIN, cmax := nth v iCMAX, carr := nth v iCARR
    holdb := nth v iHOLDB, deq := nth v iDEQ
    asked := [nth v iREGS, nth v iCMIN, nth v iCMAX, nth v iCARR, nth v iHOLDB, nth v iDEQ]
    feat := BitVec.ofNat 4 (nth v iFEAT), fdom := nth v iFDOM, traph := nth v iTRAPH, supv := nth v iSUPV
    entry := Nat.field r 1024 64, fed := if Nat.field r 1364 1 = 1 then some (Nat.field r 1368 2) else none
    n0 := Nat.field r 1088 48, n1 := Nat.field r 1152 48, n2 := Nat.field r 1216 48
    args := lw ++ g.args.drop lw.length, completed := false }

/-- A queue of the job, by its position in QTAB (R29). -/
def buildQueue (qtab : Nat) (i q : Nat) : Queue :=
  { va := qtab + 32 * i, esz := Nat.field q 0 4, segn := Nat.field q 16 13, cons := Nat.field q 8 4
    prod := Nat.field q 4 4, sva := Nat.field q 64 64, slen := Nat.field q 128 48, closed := false, accepted := 0
    segs := [], streamed := 0 }

/-- A pipeline of the job, with its budget fields as they are asked for (R70). -/
def buildPipe (lw : List Byte) (parent : List Nat) (p : RawPipe) : Pipe :=
  let v := inherit p.rcb parent
  { stages := p.stages.map (buildStage lw v)
    queues := p.queues.zipIdx.map (fun q => buildQueue (Nat.field p.rcb 1024 64) q.2 q.1)
    bint := nth v iBINT, himark := nth v iHIMARK, lomark := nth v iLOMARK, moves := nth v iMOVES
    asked := [nth v iBINT, nth v iHIMARK, nth v iLOMARK, nth v iMOVES], placedAt := 0, intervals := 0 }

/-- The `.ls` image of a job RCB, padded (R71; log entry 8). -/
def lsImageOf (s : State) (rcbva : Nat) : List Byte :=
  match s.lsImages.find? (fun i => i.rcbva == rcbva) with
  | some i => i.bytes ++ List.replicate (pad8 i.bytes.length - i.bytes.length) 0
  | none => []

/-- The first job id above the last one given that no job holds; that of a job is free when its record has been written (R16,
R401). -/
def nextJid (s : State) : Nat → Nat → Nat
  | 0, n => n
  | fuel + 1, n =>
    let n := if n = 65535 then 1 else n + 1
    if s.jobs.any (fun j => j.jid == n) || s.records.any (fun w => !w.packet && w.jid == n) then nextJid s fuel n else n

/-- The job that an INTAKE makes (R16, R22, R23, R59). -/
def buildJob (s : State) (n : Nat) (p : Packet) (t : RawTree) : Job :=
  let urgent := p.off == 0x100
  let nlw := bytesAt p.bytes 24 1
  let lw := (p.bytes.drop 32).take (8 * nlw)
  let v := inherit t.rcb defaults
  clampJob s
  { jid := nextJid s (s.jobs.length + s.records.length + 1) s.lastJid, aqi := n, pasid := p.pasid, pent := p.pent, cpent := p.pent, urgent := urgent
    phase := .open_, prio := if urgent then 0 else nth v iPRIO, order := p.order, accepted := p.at_
    cra := p.cra, tag := p.tag, irq := p.irq, vec := p.vec, seed := BitVec.ofNat 64 (Nat.field t.rcb 1088 64)
    layn := Nat.field t.rcb 1152 17, layouts := [], fmts := List.replicate 16 0, wset := t.wset, lone := nth v iLONE, askedLone := nth v iLONE
    supv := nth v iSUPV, clamp := false, pipes := t.pipes.map (buildPipe lw v)
    cores := [], lsImage := lsImageOf s t.va, quantum := 4800000, ferl := 1024, fet := 2 ^ 24, hangk := 20
    errors := 0, flt := 0, satSum := 0, infSum := 0, nanSum := 0, items := 0, progress := s.clk, hangSent := false
    snapshot := [], msgs := [], delivered := [] }

/-- Cores whose free space takes an urgent stage (R24, R448). -/
def urgentCores (s : State) (j : Job) (p : Pipe) (g : Stage) : Nat :=
  let known := s.cores.filter (fun c => isCore c.pcid)
  (known.filter (urgentFits j p g)).length
    + (if urgentFits j p g (Core.fresh 0) then 4608 - known.length else 0)

/-- Step 5 of R59. -/
def budgetBad (s : State) (j : Job) : Bool :=
  j.pipes.any (fun p => p.stages.any (fun g =>
    decide (lsSize < stageNeed j p g) || (j.urgent && decide (urgentCores s j p g < g.cmin))))

/-- The cores that lack a feature of a stage (R21, R57). -/
def lackingCores (s : State) (g : Stage) : List Nat :=
  let lost := (s.cores.filter (fun c => isCore c.pcid && c.lost &&& 0xE#4 != 0)).map (fun c => c.pcid)
  let off := if g.feat.getLsbD 0 then s.fusedOff.flatMap (fun t => (List.range 4).map (fun i => 4 * t + i)) else []
  (lost ++ off).foldl (fun acc p => setAdd p acc) []

/-- Step 6 of R59. -/
def featureBad (s : State) (j : Job) : Bool :=
  j.pipes.any (fun p => p.stages.any (fun g => decide (4608 - (lackingCores s g).length < g.cmin)))

/-- The PACKET checks of an INTAKE (R57, R59). -/
def intakeOk (p : Packet) : Bool :=
  let nlw := bytesAt p.bytes 24 1
  p.op == 1 && headerOk p [0, 0x100] true && decide (nlw ≤ 3) && bytesAt p.bytes 16 8 % 256 == 0
    && zeroBytes p.bytes 25 32 && zeroBytes p.bytes (32 + 8 * nlw) 64

/-- Steps 3 to 7 of R59: the job of a tree that has been read, or its status. -/
def checkTree (s : State) (n : Nat) (p : Packet) (t : RawTree) : Except Nat Job :=
  if treeBad t (bytesAt p.bytes 24 1) then .error 0x04
  else if boundsBad t then .error 0x05
  else
    let j := buildJob s n p t
    if budgetBad s j then .error 0x06
    else if featureBad s j then .error 0x07
    else if 4096 ≤ (s.jobs.filter Job.live).length then .error 0x08
    else .ok j

/-- The job of an INTAKE, or its status (R59); the state counts what it has read (R227). -/
def intakeJob (s : State) (n : Nat) (p : Packet) : State × Except Nat Job :=
  if !intakeOk p then (s, .error 0x01)
  else
    match (readTree (p.space n) (bytesAt p.bytes 16 8)).run.run s with
    | (.error st, s) => (s, .error st)
    | (.ok t, s) => (s, checkTree s n p t)

/-- JID is written into the job RCB (R16, R25). Where the page cannot be written or the granule is marked, the job goes
on without (log entry 70). -/
def writeJid (s : State) (x : Space) (rcbva jid : Nat) : State :=
  match translatePasid s x (rcbva + 128) true with
  | .error _ => s
  | .ok l =>
    let a := l.pa + (rcbva + 128) % l.size
    let s := if l.host then s else countLeaf s a 2 l
    let p : Place := if l.host then .host a else .hbm a
    if markedIn s p 2 then s else writePlace s p 2 jid

/-- INTAKE (R58 to R62). A packet of an unassigned OP is refused here too (R57). -/
def execIntake (s : State) : Host.Outcome State Fault Refusal :=
  match s.subject with
  | .aqi n =>
    match turnPacket s n (fun op => decide (op < 2 ∨ 5 < op)) with
    | none => .refused .notEnabled
    | some (_, p) =>
      match intakeJob s n p with
      | (s, .error st) => .next (finishPacket s n p st (if p.op = 1 then 0 else p.jid) 0)
      | (s, .ok j) =>
        let j := if p.go then { j with phase := .waiting } else j
        let s := writeJid { s with jobs := s.jobs ++ [j], lastJid := j.jid } (p.space n) (bytesAt p.bytes 16 8) j.jid
        .next (if p.go then holdPacket s n p j.jid else finishPacket s n p 0x00 j.jid 0 j.clamp)
  | _ => .refused .notEnabled

/-- The status of a START, or none when it begins its job (R58, R60). -/
def startStatus (s : State) (n : Nat) (p : Packet) : Option Nat :=
  if !headerOk p [0, 0x100] false || !zeroBytes p.bytes 18 64 then some 0x01
  else
    match liveJob s p.jid with
    | none => some 0x09
    | some j =>
      if j.pasid ≠ p.pasid ∨ j.aqi ≠ n then some 0x09
      else if j.phase ≠ .open_ then some 0x0A
      else if p.off = 0x100 && !j.urgent then some 0x01
      else none

/-- START (R60, R62). -/
def execStart (s : State) : Host.Outcome State Fault Refusal :=
  match s.subject with
  | .aqi n =>
    match turnPacket s n (· == 2) with
    | none => .refused .notEnabled
    | some (_, p) =>
      match startStatus s n p with
      | some st => .next (finishPacket s n p st p.jid 0)
      | none =>
        let go := fun (j : Job) => { j with
          phase := .waiting, order := p.order, accepted := p.at_, cra := p.cra, tag := p.tag, irq := p.irq, vec := p.vec
          cpent := p.pent }
        .next (holdPacket (updJob s p.jid go) n p p.jid)
  | _ => .refused .notEnabled

/-- A layout record breaks R36 or R63: its shape reaches past its region, or a VALID one names another job. -/
def layoutBad (jid : Nat) (d : BitVec 512) : Bool :=
  decide ((layLen d : Int) < layReach d 0) || (layValid d && layJid d != jid)

/-- The bits of a layout record that are not reserved (R36). -/
def layoutMask : Nat :=
  (2 ^ 64 - 1) * 2 ^ 384 + (2 ^ 96 - 1) * 2 ^ 256 + (2 ^ 40 - 1) * 2 ^ 192 + (2 ^ 52 - 1) * 2 ^ 128
    + (2 ^ 64 - 1) * 2 ^ 56 + (2 ^ 16 - 1)

/-- A layout record written under its handle. Its reserved bits ignore the write (R6). -/
def putLayout (h : Nat) (d : BitVec 512) (j : Job) : Job :=
  let x := d &&& BitVec.ofNat 512 layoutMask
  { j with layouts := { handle := h, bits := x } :: j.layouts.filter (fun l => l.handle != h) }

/-- The records of a LAYOUT are read, checked and written in handle order (R63): the state, how many were written, and
the status. `k` records are left. -/
def layRecords (x : Space) (jid src h : Nat) : Nat → Nat → State → State × Nat × Nat
  | 0, done, s => (s, done, 0x00)
  | k + 1, done, s =>
    match readVaBytes s x (src + 64 * done) 64 with
    | (s, none) => (s, done, 0x03)
    | (s, some bs) =>
      let d := BitVec.ofNat 512 (bytesNat bs)
      if layoutBad jid d then (s, done, 0x04)
      else layRecords x jid src h k (done + 1) (updJob s jid (putLayout (h + done) d))

/-- LAYOUT (R58, R63). -/
def execLayout (s : State) : Host.Outcome State Fault Refusal :=
  match s.subject with
  | .aqi n =>
    match turnPacket s n (· == 3) with
    | none => .refused .notEnabled
    | some (a, p) =>
      let hfirst := bytesAt p.bytes 18 2
      let hcount := bytesAt p.bytes 20 4
      let src := bytesAt p.bytes 24 8
      let refuse := fun (st : Nat) => Host.Outcome.next (finishPacket s n p st p.jid 0)
      if !headerOk p [0] false || decide (hcount < 1 ∨ 65536 < hcount) || src % 64 != 0 || !zeroBytes p.bytes 32 64 then
        refuse 0x01
      else if !a.priv then refuse 0x02
      else
        match liveJob s p.jid with
        | none => refuse 0x09
        | some j =>
          if j.layn < hfirst + hcount then refuse 0x01
          else
            let r := layRecords (p.space n) p.jid src hfirst hcount 0 s
            .next (finishPacket r.1 n p r.2.2 p.jid r.2.1)
  | _ => .refused .notEnabled

/-- A format-table entry that R39 refuses. -/
def formatBad (e : Nat) : Bool :=
  let w := Nat.field e 0 4
  Nat.field e 22 10 != 0 || w == 1 || decide (8 < w) || decide (w < Nat.field e 5 3 + Nat.field e 4 1)
    || Nat.field e 20 2 == 3 || Nat.field e 16 2 == 3

/-- FORMAT (R39, R58, R63). -/
def execFormat (s : State) : Host.Outcome State Fault Refusal :=
  match s.subject with
  | .aqi n =>
    match turnPacket s n (· == 4) with
    | none => .refused .notEnabled
    | some (a, p) =>
      let first := bytesAt p.bytes 18 1
      let count := bytesAt p.bytes 19 1
      let es := (List.range count).map (fun i => bytesAt p.bytes (24 + 4 * i) 4)
      let refuse := fun (st : Nat) => Host.Outcome.next (finishPacket s n p st p.jid 0)
      if !headerOk p [0] false || decide (first < 1 ∨ 15 < first ∨ count < 1 ∨ 10 < count ∨ 16 < first + count)
          || !zeroBytes p.bytes 20 24 || !zeroBytes p.bytes (24 + 4 * count) 64 then refuse 0x01
      else if !a.priv then refuse 0x02
      else if (liveJob s p.jid).isNone then refuse 0x09
      else if es.any formatBad then refuse 0x04
      else
        let put := fun (j : Job) => { j with
          fmts := es.zipIdx.foldl (fun t e => t.set (first + e.2) (BitVec.ofNat 32 e.1)) j.fmts }
        .next (finishPacket (updJob s p.jid put) n p 0x00 p.jid count)
  | _ => .refused .notEnabled

/-- CANCEL (R58, R63, R402): its record follows that of the job it ends. -/
def execCancel (s : State) : Host.Outcome State Fault Refusal :=
  match s.subject with
  | .aqi n =>
    match turnPacket s n (· == 5) with
    | none => .refused .notEnabled
    | some (a, p) =>
      let refuse := fun (st : Nat) => Host.Outcome.next (finishPacket s n p st p.jid 0)
      if !headerOk p [0x200] false || !zeroBytes p.bytes 18 64 then refuse 0x01
      else
        match liveJob s p.jid with
        | none => refuse 0x09
        | some j =>
          if !(a.priv || (j.aqi == n && j.pasid == p.pasid)) then refuse 0x09
          else if j.phase = .open_ then
            .next (finishPacket { s with jobs := s.jobs.filter (fun k => k.jid != j.jid) } n p 0x00 p.jid 0)
          else .next (holdPacket (beginRetire s j.jid (some 0x0B)) n p j.jid)
  | _ => .refused .notEnabled

/-! ## Retirement -/

/-- A sink of a retiring job has an element to write or to discard. A job that ends without a record has lost its address
space, so that an element without a translation is discarded with it (R54, R401 step 2; log entry 19). -/
def sinkPending (s : State) (j : Job) : Bool :=
  j.pipes.any (fun p => p.queues.any (fun q => q.cons == 0xF && q.occupancy != 0
    && (decide (q.slen ≤ q.streamed) || j.phase != .retiring none
      || (streamPlace s j (q.sva + q.streamed) true).isSome)))

/-- Everything that a job has issued has finished (R401 step 2). -/
def jobQuiet (s : State) (j : Job) : Bool :=
  s.flights.all (fun g => g.jid != j.jid) && s.copies.all (fun c => c.jid != j.jid)
    && s.copyqs.all (fun c => c.jid != j.jid) && s.ifills.all (fun l => l.jid != j.jid)
    && s.phases.all (fun p => p.jid != j.jid) && s.engines.all (fun e => e.queue.all (fun w => w.jid != j.jid))
    && s.cores.all (fun c => !fillBusy s c j.jid)
    && !sinkPending s j

/-- The cores that are bound to a job. -/
def boundCores (s : State) (jid : Nat) : List Nat :=
  (s.cores.filter (fun c => match c.bind with
    | some b => b.jid == jid
    | none => false)).map (fun c => c.pcid)

/-- The cores that hold an urgent context of a job. -/
def urgentCoresOf (s : State) (jid : Nat) : List Nat :=
  (s.cores.filter (fun c => match c.urgent with
    | some u => u.jid == jid
    | none => false)).map (fun c => c.pcid)

/-- The sets of engines that hold values of a job give up their counters, and the engines are released (R401 step 5). -/
def takeCounters (s : State) (jid : Nat) : State :=
  let s := (s.engines.filter (fun e => e.urgJob == some jid)).foldl (fun s e =>
    updEngine (addCounters s jid e.urg) e.tile (fun e => { e with urgJob := none })) s
  (s.engines.filter (fun e => e.mainJob == some jid)).foldl (fun s e =>
    updEngine (addCounters s jid e.main) e.tile (fun e =>
      { e with main := EngSet.clear, mainJob := none, passed := false })) s

/-- What a job holds beside its cores is released: a count of its fronds that a core keeps among them (R110), and its
entries, so that the binds of others are examined again (R335, R336, R401 steps 4 and 6). -/
def releaseJob (s : State) (jid : Nat) : State :=
  let keep := s.catalogue.filter (fun e => e.jid != jid)
  let left := decide (keep.length < s.catalogue.length)
  let s := dropCached s jid
  let t := { s with
      catalogue := keep
      cores := s.cores.map (fun c => { c with created := c.created.filter (fun x => x.1 != jid) })
      directory := s.directory.filter (fun e => e.jid != jid)
      sems := s.sems.filter (fun r => r.jid != jid)
      images := s.images.filter (fun i => i.jid != jid)
      orphans := s.orphans.filter (fun o => (findFrond s o.1).isSome)
      swaps := s.swaps.filter (fun x => x.jid != jid) }
  if left then wakeBinds t else t

/-- The record of a job (R403). -/
def jobRecord (clk : Nat) (j : Job) (status : Nat) : Record :=
  { status := status, clamp := j.clamp, flt := j.flt.toNat, tag := j.tag, jid := j.jid, count := j.items
    cycles := clk - j.accepted, sat := j.satSum, inf := j.infSum, nan := j.nanSum, errors := j.errors }

/-- The CANCEL packets that wait for a job finish; a START or INTAKE that waits for it is dropped (R51, R63). -/
def finishWaiting (s : State) (jid : Nat) : State :=
  s.aqis.foldl (fun s a =>
    ((a.ahead ++ a.ordinary).filter (fun p => p.job == some jid)).foldl (fun s p =>
      if p.op = 5 then finishPacket s a.n p 0x00 p.jid 0 else releasePacket s a.n p) s) s

/-- Steps 3 to 7 of R401. A job that ends without a record is not written back (R54). -/
def retireJob (s : State) (j : Job) (st : Option Nat) : State :=
  let jid := j.jid
  let cores := boundCores s jid
  let s := if st.isSome then cores.foldl flushCore s else s
  let s := (urgentCoresOf s jid).foldl swapOut s
  let s := cores.foldl (freeCore jid) (takeCounters s jid)
  let s := releaseJob s jid
  let s := match findJob s jid, st with
    | some j, some st => writeRecord s j.recordSpace j.cra j.irq j.vec false (jobRecord s.clk j st)
    | _, _ => s
  finishWaiting { s with jobs := s.jobs.filter (fun k => k.jid != jid) } jid

/-- JOB_RETIREMENT (R401 to R405). -/
def execJobRetirement (s : State) : Host.Outcome State Fault Refusal :=
  match s.subject with
  | .job jid =>
    match findJob s jid with
    | none => .refused .notEnabled
    | some j =>
      match j.phase with
      | .retiring st => if jobQuiet s j then .next (retireJob s j st) else .refused .notEnabled
      | _ => .refused .notEnabled
  | _ => .refused .notEnabled

end Sys2Proof.Machine
end

