-- ==== Sys2Proof/Machine/SyncWords.lean ====
section
/-! DEFINITION. Group 0x8 (R342 to R356): full/empty operations, atomics, fences, byte-counting barriers. -/

namespace Sys2Proof.Machine

/-! ## Synchronising words -/

/-- The word of a synchronising operation (R342). `field` is the value of the B field, for `bar`. -/
def syncSite (l : Bool) (ea : Nat) (field : Opnd) : M Elem := do
  let c ← get
  trapIf (!l && !inWindow ea) causeXLATE ea
  checkForms l 8 [ea]
  checkAlign 8 [ea]
  let a := if l then c.f.pcid * 2 ^ 20 + ea else ea - windowBase
  return { place := .ls a, va := windowBase + a, size := 8, lane := field.toNat, coding := .raw, val := 0
           performed := false, applied := false, cnt := none }

/-- A synchronising operation that holds its frond until the port answers (R346). -/
def syncHold (h : Hints) (op : SyncOp) (d : Dest) (e : Elem) (b : Nat) : M Next :=
  launch h true { path := pathCORE, op := .sync op b, dest := d, elems := [e] }

/-- A synchronising operation that is a store (R345). -/
def syncStore (h : Hints) (op : SyncOp) (e : Elem) (b : Nat) : M Next :=
  launch h false { path := pathCORE, op := .sync op b, elems := [e] }

/-- R345 `ldf`. -/
def execLdf (h : Hints) (_scope : BitVec 3) (l : Bool) (d a : Opnd) (disp : BitVec 32) (s : State) :
    Host.Outcome State Fault Refusal :=
  runWord { h := h, grp := 8, fields := [fieldD .gonly d, fieldA .g a] } (do
    let x ← readG 1 a
    let e ← syncSite l (effective x disp) 0
    syncHold h .ldf (destOf d) e 0) s

/-- R345 `lde`. -/
def execLde (h : Hints) (_scope : BitVec 3) (l : Bool) (d a : Opnd) (disp : BitVec 32) (s : State) :
    Host.Outcome State Fault Refusal :=
  runWord { h := h, grp := 8, fields := [fieldD .gonly d, fieldA .g a] } (do
    let x ← readG 1 a
    let e ← syncSite l (effective x disp) 0
    syncHold h .lde (destOf d) e 0) s

/-- R345 `stf`. -/
def execStf (h : Hints) (scope : BitVec 3) (l : Bool) (a b : Opnd) (disp : BitVec 32) (s : State) :
    Host.Outcome State Fault Refusal :=
  runWord { h := h, grp := 8, fields := [fieldA .g a, fieldB .g b] } (do
    waitRelease onCORE scope.toNat
    let x ← readG 1 a
    let y ← readG 2 b
    let e ← syncSite l (effective x disp) 0
    syncHold h .stf .none e y.toNat) s

/-- R345 `sto`. -/
def execSto (h : Hints) (scope : BitVec 3) (l : Bool) (a b : Opnd) (disp : BitVec 32) (s : State) :
    Host.Outcome State Fault Refusal :=
  runWord { h := h, grp := 8, fields := [fieldA .g a, fieldB .g b] } (do
    waitRelease onCORE scope.toNat
    let x ← readG 1 a
    let y ← readG 2 b
    let e ← syncSite l (effective x disp) 0
    syncStore h .sto e y.toNat) s

/-- R345 `clrf`. -/
def execClrf (h : Hints) (l : Bool) (a : Opnd) (disp : BitVec 32) (s : State) :
    Host.Outcome State Fault Refusal :=
  runWord { h := h, grp := 8, fields := [fieldA .g a] } (do
    let x ← readG 1 a
    let e ← syncSite l (effective x disp) 0
    syncStore h .clrf e 0) s

/-! ## Atomics -/

/-- An atomic (R350 to R352): routine `rout` of R276, with D as the compared value when `cas`. -/
def atomicWord (h : Hints) (f : AtomFn) (d a b : Opnd) (disp : BitVec 32) (rout : Nat) (cas : Bool) (s : State) :
    Host.Outcome State Fault Refusal :=
  runWord { h := h, grp := 8
            fields := [fieldD (if cas then .gresRead else .gonly) d, fieldA .g a, fieldB .g b] } (do
    limitOuts
    if f.ord.toNat.testBit 1 then waitRelease onCoreShip f.scope.toNat
    let x ← readG 1 a
    let y ← readG 2 b
    let z ← if cas then readG 0 d else pure 0
    let size := if f.ty.toNat % 2 = 1 then 8 else 4
    let u := f.ty.toNat.testBit 1
    let e ← atomicSite f.l (effective x disp) size
    let wait ← serveWalk h [e.1]
    let y' := Nat.low y.toNat (8 * size)
    let z' := Nat.low z.toNat (8 * size)
    launch h wait { path := e.2, op := .rmw rout u (if cas then z' else y') (if cas then y' else 0) (!u)
                    dest := destOf d, elems := [e.1]
                    acq := if f.ord.toNat % 2 = 1 then some f.scope.toNat else none }) s

/-- R350 `aadd`. -/
def execAadd (h : Hints) (f : AtomFn) (d a b : Opnd) (disp : BitVec 32) (s : State) :
    Host.Outcome State Fault Refusal := atomicWord h f d a b disp 0 false s
/-- R350 `acas`. -/
def execAcas (h : Hints) (f : AtomFn) (d a b : Opnd) (disp : BitVec 32) (s : State) :
    Host.Outcome State Fault Refusal := atomicWord h f d a b disp 3 true s
/-- R350 `axchg`. -/
def execAxchg (h : Hints) (f : AtomFn) (d a b : Opnd) (disp : BitVec 32) (s : State) :
    Host.Outcome State Fault Refusal := atomicWord h f d a b disp 4 false s
/-- R350 `amin`. -/
def execAmin (h : Hints) (f : AtomFn) (d a b : Opnd) (disp : BitVec 32) (s : State) :
    Host.Outcome State Fault Refusal := atomicWord h f d a b disp 1 false s
/-- R350 `amax`. -/
def execAmax (h : Hints) (f : AtomFn) (d a b : Opnd) (disp : BitVec 32) (s : State) :
    Host.Outcome State Fault Refusal := atomicWord h f d a b disp 2 false s
/-- R350 `aand`. -/
def execAand (h : Hints) (f : AtomFn) (d a b : Opnd) (disp : BitVec 32) (s : State) :
    Host.Outcome State Fault Refusal := atomicWord h f d a b disp 5 false s
/-- R350 `aor`. -/
def execAor (h : Hints) (f : AtomFn) (d a b : Opnd) (disp : BitVec 32) (s : State) :
    Host.Outcome State Fault Refusal := atomicWord h f d a b disp 6 false s
/-- R350 `axor`. -/
def execAxor (h : Hints) (f : AtomFn) (d a b : Opnd) (disp : BitVec 32) (s : State) :
    Host.Outcome State Fault Refusal := atomicWord h f d a b disp 7 false s

/-! ## Fences -/

/-- R329, R353 `fence`: KIND 1 acquire, 2 release, 3 both. -/
def execFence (h : Hints) (kind : BitVec 2) (scope : BitVec 3) (s : State) :
    Host.Outcome State Fault Refusal :=
  runWord { h := h, grp := 8, fields := [] } (do
    let c ← get
    stallIf (kind.toNat.testBit 0 && !loadsLanded c.s c.f.uid onCORE)
    stallIf (kind.toNat.testBit 1 && !released c.s c.f.uid onCORE scope.toNat)
    return .seq) s

/-- Every earlier group-0xA word of a frond has completed (R306). -/
def matrixQuiet (s : State) (uid : Nat) : Bool :=
  s.engines.all (fun n => n.queue.all (fun w => w.uid != uid))
    && s.flights.all (fun g => g.uid != uid || g.path != pathMATRIX)

/-- No copy of a frond is in flight (R331). -/
def copiesDone (s : State) (uid : Nat) : Bool :=
  s.copies.all (fun c => c.uid != uid) && s.copyqs.all (fun c => c.uid != uid)

/-- R331, R353 `xfence`: the paths whose bits MASK holds. -/
def execXfence (h : Hints) (scope : BitVec 3) (mask : BitVec 6) (s : State) :
    Host.Outcome State Fault Refusal :=
  runWord { h := h, grp := 8, fields := [] } (do
    let c ← get
    let on := fun p => mask.toNat.testBit p
    stallIf (!released c.s c.f.uid on scope.toNat)
    stallIf (on pathCOPY && !copiesDone c.s c.f.uid)
    stallIf (on pathMATRIX && !matrixQuiet c.s c.f.uid)
    return .seq) s

/-! ## Byte-counting barriers -/

/-- A byte count of `bexp` and `barv` (R355). -/
def byteCount (b : Opnd) (y : Word) : M Nat := do
  trapIf (decide (2 ^ 47 ≤ y.toNat)) causeOPERAND (operandInfo 5 2 b.toNat)
  return y.toNat

/-- R355 `bexp`. -/
def execBexp (h : Hints) (_scope : BitVec 3) (l : Bool) (d a b : Opnd) (disp : BitVec 32) (s : State) :
    Host.Outcome State Fault Refusal :=
  runWord { h := h, grp := 8, fields := [fieldD .gonly d, fieldA .g a, fieldB .g b] } (do
    limitOuts
    let x ← readG 1 a
    let y ← readG 2 b
    let e ← syncSite l (effective x disp) 0
    let n ← byteCount b y
    launch h false { path := pathCORE, op := .sync .bexp n, dest := destOf d, elems := [e] }) s

/-- R355 `barv`. -/
def execBarv (h : Hints) (scope : BitVec 3) (l : Bool) (a b : Opnd) (disp : BitVec 32) (s : State) :
    Host.Outcome State Fault Refusal :=
  runWord { h := h, grp := 8, fields := [fieldA .g a, fieldB .g b] } (do
    waitRelease onCORE scope.toNat
    let x ← readG 1 a
    let y ← readG 2 b
    let e ← syncSite l (effective x disp) 0
    let n ← byteCount b y
    syncStore h .barv e n) s

/-- R355 `bwait`. -/
def execBwait (h : Hints) (_scope : BitVec 3) (l : Bool) (a b : Opnd) (disp : BitVec 32) (s : State) :
    Host.Outcome State Fault Refusal :=
  runWord { h := h, grp := 8, fields := [fieldA .g a, fieldB .g b] } (do
    let x ← readG 1 a
    let y ← readG 2 b
    let e ← syncSite l (effective x disp) 0
    syncHold h .bwait .none e (y.toNat % 2 ^ 14)) s

end Sys2Proof.Machine
end

