-- ==== Sys2Proof/Machine/QueueWords.lean ====
section
/-! DEFINITION. Group 0xC (R357 to R367): queues, channels, semaphores and the frond barrier. -/

namespace Sys2Proof.Machine

/-! ## Queues -/

/-- Element size of a queue in bytes (R358). -/
def Queue.bytes (q : Queue) : Nat := 2 ^ q.esz

/-- The own-core bytes of an element, with the waits of R358 for arrival bits and earlier accesses. -/
def elementSite (ea n : Nat) : M Nat := do
  checkForms true n [ea]
  checkAlign 8 [ea]
  let c ← get
  let a := c.f.pcid * 2 ^ 20 + ea
  stallIf (localPending c.s c.f.uid c.f.pcid || !arrived c.s c.f.uid c.s.fresh (.ls a) n)
  return a

/-- R358 `qpush`: a release at package scope over CORE (R360). -/
def execQpush (h : Hints) (d a b : Opnd) (disp : BitVec 32) (s : State) : Host.Outcome State Fault Refusal :=
  runWord { h := h, grp := 12, fields := [fieldD .q d, fieldA (.obj 0x9C 0x9F) a, fieldB .g b] } (do
    let y ← readG 2 b
    let c ← get
    match portQueueOf c.s c.f a.toNat with
    | none => throw .stall
    | some (n, q) =>
      let at_ ← elementSite (effective y disp) q.bytes
      if q.closed then writePred (predNum d) false
      else
        stallIf (!released c.s c.f.uid onCORE scopeP)
        match pushElem c.s c.f.jid c.f.pl n (natBytes q.bytes (readNat c.s.ls at_ q.bytes)) with
        | some s =>
          modS (fun _ => s)
          writePred (predNum d) true
        | none => throw (.park 2 q.obj 0)
      return .seq) s

/-- The element that a fed item's first pop of its feed port yields (R15). -/
def feedElement (f : Frond) (n : Nat) : Option (List Byte) :=
  match f.feed with
  | some (m, bytes) => if m = n then some bytes else none
  | none => none

/-- R358 `qpop`. -/
def execQpop (h : Hints) (d a b : Opnd) (disp : BitVec 32) (s : State) : Host.Outcome State Fault Refusal :=
  runWord { h := h, grp := 12, fields := [fieldD .q d, fieldA (.obj 0x98 0x9B) a, fieldB .g b] } (do
    let y ← readG 2 b
    let c ← get
    match portQueueOf c.s c.f a.toNat with
    | none => throw .stall
    | some (n, q) =>
      let at_ ← elementSite (effective y disp) q.bytes
      match feedElement c.f n with
      | some bytes =>
        modF (fun f => { f with feed := none })
        modS (fun s => writeHome s (.ls at_) q.bytes (bytesNat bytes))
        writePred (predNum d) true
      | none =>
        match popElem c.s c.f.jid c.f.pl n c.f.pcid with
        | some (e, s) =>
          modS (fun _ => writeHome (wakeIfDone s c.f.jid c.f.pl n) (.ls at_) q.bytes (bytesNat e.bytes))
          writePred (predNum d) true
        | none => if q.closed then writePred (predNum d) false else throw (.park 3 q.obj 0)
      return .seq) s

/-- R358 `qpeek`. -/
def execQpeek (h : Hints) (d a b : Opnd) (disp : BitVec 32) (s : State) : Host.Outcome State Fault Refusal :=
  runWord { h := h, grp := 12, fields := [fieldD .q d, fieldA (.obj 0x98 0x9B) a, fieldB .g b] } (do
    let y ← readG 2 b
    let c ← get
    match portQueueOf c.s c.f a.toNat with
    | none => throw .stall
    | some (n, q) =>
      let at_ ← elementSite (effective y disp) q.bytes
      let got := match feedElement c.f n with
        | some bytes => some bytes
        | none => (peekElem c.s c.f.jid c.f.pl n c.f.pcid).map (fun e => e.bytes)
      match got with
      | some bytes =>
        modS (fun s => writeHome s (.ls at_) q.bytes (bytesNat bytes))
        writePred (predNum d) true
      | none => writePred (predNum d) false
      return .seq) s

/-- R359 `qclose`: a release at package scope (R360). -/
def execQclose (h : Hints) (a : Opnd) (s : State) : Host.Outcome State Fault Refusal :=
  runWord { h := h, grp := 12, fields := [fieldA (.obj 0x9C 0x9F) a] } (do
    let c ← get
    stallIf (!released c.s c.f.uid onCORE scopeP)
    match portQueue c.s c.f a.toNat with
    | some n => viaState (fun s => settleJob (closeQueue s c.f.jid c.f.pl n) c.f.jid)
    | none => pure ()
    return .seq) s

/-- The value of `qstat` (R359). -/
def qstatValue (q : Queue) : Nat := q.occupancy + q.capacity * 2 ^ 32 + q.closed.toNat * 2 ^ 63

/-- R359 `qstat`. -/
def execQstat (h : Hints) (d a : Opnd) (s : State) : Host.Outcome State Fault Refusal :=
  runWord { h := h, grp := 12, fields := [fieldD .gonly d, fieldA (.obj 0x98 0x9F) a] } (do
    limitOuts
    let c ← get
    match portQueue c.s c.f a.toNat with
    | some n => launch h false { path := pathCORE, op := .qstat c.f.pl n, dest := destOf d, elems := [] }
    | none => return .seq) s

/-! ## Channels -/

/-- R361 `chbind`. -/
def execChbind (h : Hints) (d a : Opnd) (s : State) : Host.Outcome State Fault Refusal :=
  runWord { h := h, grp := 12, fields := [fieldD (.obj 0x90 0x97) d, fieldA .g a], roots := true } (do
    let key ← readG 1 a
    let c ← get
    let n := d.toNat - 0x90
    if key = 0 then viaState (fun s => unbindPort s c.f n)
    else
      match bindPort { c.s with issuing := some c.f } c.f n key.toNat with
      | .error r => throw (.trap causeCHANNEL (channelInfo r n))
      | .ok s => set { c with s := { s with issuing := none }, f := s.issuing.getD c.f }
    return .seq) s

/-- The value of `chstat` (R363). -/
def chstatValue (c : Chan) : Nat :=
  c.state.code + c.recv.length * 2 ^ 4 + c.send.length * 2 ^ 8
    + (match c.recv with
      | x :: _ => x.wide.toNat * 2 ^ 12
      | [] => 0)

/-- R363 `chstat`. -/
def execChstat (h : Hints) (d a : Opnd) (s : State) : Host.Outcome State Fault Refusal :=
  runWord { h := h, grp := 12, fields := [fieldD .gonly d, fieldA (.obj 0x90 0x97) a] } (do
    let f ← getF
    writeG d (BitVec.ofNat 64 (chstatValue (chanOf f (a.toNat - 0x90))))
    return .seq) s

/-! ## Semaphores -/

/-- A job holds a bound or an urgent core of a cluster (R365). -/
def holdsCluster (s : State) (cluster jid : Nat) : Bool :=
  s.cores.any (fun c => clusterOf c.pcid == cluster && holdsContext s c.pcid jid)

/-- The cluster and index of a semaphore name (R365). -/
def semName (a : Opnd) (x : Word) : M (Nat × Nat) := do
  let c ← get
  let index := x.toNat % 256
  let cluster := Nat.field x.toNat 12 4 * 16 + Nat.field x.toNat 8 4
  let ok := match findRun c.s cluster c.f.jid with
    | some r => decide (index < r.size) && holdsCluster c.s cluster c.f.jid
    | none => false
  trapIf (!ok || decide (2 ^ 16 ≤ x.toNat)) causeOPERAND (operandInfo 5 1 a.toNat)
  return (cluster, index)

/-- R366 `semw`. -/
def execSemw (h : Hints) (_scope : BitVec 3) (a b : Opnd) (s : State) : Host.Outcome State Fault Refusal :=
  runWord { h := h, grp := 12, fields := [fieldA .g a, fieldB .g b] } (do
    let x ← readG 1 a
    let y ← readG 2 b
    let k ← semName a x
    let n := y.toNat % 2 ^ 32
    let c ← get
    match findRun c.s k.1 c.f.jid with
    | none => return .seq
    | some r =>
      let count := nth r.counts k.2
      if r.waiters.all (fun w => w.index != k.2) && decide (n ≤ count) then
        modS (fun s => updRun s k.1 c.f.jid (fun r => { r with counts := r.counts.set k.2 (count - n) }))
        return .seq
      else
        let w : SemWait := { index := k.2, uid := c.f.uid, n := n, hints := h }
        modS (fun s => updRun s k.1 c.f.jid (fun r => { r with waiters := r.waiters ++ [w] }))
        return .park 8 x.toNat) s

/-- R366 `sems`: a release at SCOPE over CORE. -/
def execSems (h : Hints) (scope : BitVec 3) (a b : Opnd) (s : State) : Host.Outcome State Fault Refusal :=
  runWord { h := h, grp := 12, fields := [fieldA .g a, fieldB .g b] } (do
    let c ← get
    stallIf (!released c.s c.f.uid onCORE scope.toNat)
    let x ← readG 1 a
    let y ← readG 2 b
    let k ← semName a x
    let up := fun (r : SemRun) =>
      { r with counts := r.counts.modify k.2 (fun n => Nat.min (n + y.toNat % 2 ^ 32) (2 ^ 32 - 1)) }
    let waiting := match findRun c.s k.1 c.f.jid with
      | some r => r.waiters.length
      | none => 0
    if y.toNat % 2 ^ 32 ≠ 0 then
      modS (fun s => semGrant k.1 c.f.jid k.2 waiting (updRun s k.1 c.f.jid up))
    return .seq) s

/-! ## The frond barrier -/

/-- R367 `bar`: it releases at SCOPE, arrives, and holds its frond until its generation is complete. -/
def execBar (h : Hints) (scope : BitVec 3) (l : Bool) (a b : Opnd) (disp : BitVec 32) (s : State) :
    Host.Outcome State Fault Refusal :=
  runWord { h := h, grp := 12, fields := [fieldA .g a, fieldB .g b] } (do
    waitRelease onCORE scope.toNat
    let x ← readG 1 a
    let y ← readG 2 b
    let e ← syncSite l (effective x disp) b
    trapIf (y == 0 || decide (2 ^ 24 ≤ y.toNat)) causeOPERAND (operandInfo 5 2 b.toNat)
    syncHold h .bar .none e y.toNat) s

end Sys2Proof.Machine
end

