-- ==== Sys2Proof/Machine/Landing.lean ====
section
/-! DEFINITION. The events in which accesses are performed, answers land and waiting fronds go on: stores at
their homes (R319, R326), results (R125, R249, R251, R254), acknowledgements (R450), synchronising operations
(R346, R348), flits (R362), sleeps (R160) and the answers of the firmware (R391, R396). -/

namespace Sys2Proof.Machine

/-! ## Stores at their homes -/

/-- A synchronising operation that its port has answered with no match (R346). -/
def answered (g : Flight) : Bool :=
  match g.op with
  | .sync _ _ => g.first.isSome
  | _ => false

/-- STORE_PERFORMED: an element of a store or of a read-modify-write whose home is on the issuing die, in
memory of another package or at the host, or of any operation that no vector clock orders (R319, R326). -/
def execStorePerformed (s : State) : Host.Outcome State Fault Refusal :=
  match s.subject with
  | .element id k =>
    match performIf s id k (fun g e => !g.op.quiet && !answered g && (crossDie s g e).isNone) with
    | some t => .next t
    | none => .refused .notEnabled
  | _ => .refused .notEnabled

/-- An `stf` that has arrived and waits at its port has been applied (R326, R346). -/
def markApplied (s : State) (id k : Nat) : State :=
  updFlight s id (fun g => match g.elems[k]? with
    | some e => if e.performed then g else setElem g k { e with applied := true }
    | none => g)

/-- CROSS_DIE_STORE_APPLY (R326). The elements of a piece are applied together, each with its own count (R251). -/
def execCrossDieStoreApply (s : State) : Host.Outcome State Fault Refusal :=
  match s.subject with
  | .element id k =>
    match (findFlight s id).bind (fun g => (g.elems[k]?).bind (fun e => (crossDie s g e).map (fun d => (g, d)))) with
    | none => .refused .notEnabled
    | some (g, d) =>
      match performIf s id k (fun g e => !g.op.quiet && !answered g && clockReady s (dieOf g.pcid) e.clock d) with
      | some t => .next ((togetherOf g k).foldl (fun s _ => noteApplied s d (dieOf g.pcid)) (markApplied t id k))
      | none => .refused .notEnabled
  | _ => .refused .notEnabled

/-- A `bar` of the same core that its word has released before that of a flight has not gone on: fronds are released in
arrival order (R367). -/
def barLater (s : State) (g : Flight) : Bool :=
  let bar := fun (x : Flight) => match x.op with
    | .sync .bar _ => true
    | _ => false
  bar g && (s.flights.takeWhile (fun x => x.id != g.id)).any (fun x => bar x && x.done.isSome && x.pcid == g.pcid
    && x.elems.map (fun e => e.place) == g.elems.map (fun e => e.place))

/-- STORE_ACK (R450): the store of a flight is acknowledged; a word that waited for it completes. -/
def execStoreAck (s : State) : Host.Outcome State Fault Refusal :=
  match s.subject with
  | .object id =>
    match findFlight s id with
    | none => .refused .notEnabled
    | some g =>
      let ack := match g.op with
        | .store => true
        | .scadd _ => true
        | .sync _ _ => g.dest == .none
        | _ => false
      let due := match g.done with
        | some t => decide (t ≤ s.clk)
        | none => false
      if ack && due && !barLater s g then
        let s := delFlight s id
        .next (match g.blocks with
          | some h => resumeWord s g.uid h
          | none => s)
      else .refused .notEnabled
  | _ => .refused .notEnabled

/-! ## Results -/

/-- An element as an integer type code extends it to `n` bits (R249, R251). -/
def extendElem (mty n v : Nat) : Nat :=
  if mty ≤ 3 then Int.wrap (Nat.signed v (8 * 2 ^ mty)) n else v

/-- The value that a flight's result has, for a general register, a predicate, or a vector register. -/
def resultOf (s : State) (g : Flight) : Nat :=
  let first := (g.elems.head?.map (fun e => e.val)).getD 0
  match g.op with
  | .load mty true =>
    ofLanes ((List.range 16).map (fun l => match g.elems.find? (fun e => e.lane == l) with
      | some e => extendElem mty 32 e.val
      | none => 0))
  | .load mty false => extendElem mty 64 first
  | .rmw _ _ _ _ sx =>
    if sx then Int.wrap (Nat.signed first (8 * (g.elems.head?.map (fun e => e.size)).getD 8)) 64 else first
  | .value v => v
  | .qstat pl q =>
    match theQueue s g.jid pl q with
    | some x => qstatValue x
    | none => 0
  | _ => first

/-- A destination of a frond written. -/
def writeDest (f : Frond) (d : Dest) (v : Nat) : Frond :=
  match d with
  | .g n => f.setReg n (BitVec.ofNat 64 v)
  | .v n => f.setVreg n v
  | .q n => f.setPred n (v != 0)
  | _ => f

/-- Two destinations share a register or a predicate. -/
def destMeet (a b : Dest) : Bool :=
  match a, b with
  | .g m, .g n => m == n
  | .g m, .v n => m / 8 == n
  | .v m, .g n => m == n / 8
  | .v m, .v n => m == n
  | .q m, .q n => m == n
  | _, _ => false

/-- The results of a frond issued before result `id`. -/
def earlierOuts (id : Nat) : List OutRes → List OutRes
  | [] => []
  | o :: os => if o.id = id then [] else o :: earlierOuts id os

/-- A result stops being outstanding; at a switch marker the last one lets the frond go on (R125, R126). -/
def resultLanded (clk id : Nat) (f : Frond) : Frond :=
  let outs := f.outs.filter (fun o => o.id != id)
  if f.swMark && outs.isEmpty then { f with outs := outs, swMark := false, notBefore := Nat.max f.notBefore (clk + 1) }
  else { f with outs := outs }

/-- The word of a frond that waited for a flight writes its destination, with HAZ when that was outstanding
(R127). -/
def heldResult (d : Dest) (v : Nat) (f : Frond) : Frond :=
  raiseFlags (writeDest f d v) (flagIf (f.outs.any (fun o => destMeet o.dest d)) flagHAZ)

/-- The descriptor of a `wbind` has been read: R42, then the catalogues (R260). The frond stays rooted where a check of R42
or the read traps (log entry 92, DESIGN CHOICE: R34 roots at issue, and R370 has a word at which a cause is taken not
issued). -/
def bindRead (s : State) (g : Flight) (w : Nat) (h : Hints) : State :=
  let d := BitVec.ofNat 512 ((g.elems.head?.map (fun e => e.val)).getD 0)
  match viewCheck d with
  | some c => releaseWithCause s g.uid c
  | none =>
    if viewEmpty d then resumeWord (updFrond s g.uid (fun f => setView f w (some d))) g.uid h
    else
      match findFrond s g.uid with
      | none => s
      | some f =>
        let r := tryBind s f { uid := g.uid, w := w, desc := d, dies := footDies (footOf d), at_ := s.clk, hints := h }
        let s := updFrond r.1 g.uid (fun _ => r.2.1)
        refreshSpent { s with binds := s.binds ++ r.2.2.toList } f.pcid

/-- A `join` has decremented and has used what it holds: the last arriver goes on, and any other exits (R157, R452). A
STOREERR recorded while it waited, as at SW = 1, is taken at the next word (R372). -/
def joinLanded (s : State) (g : Flight) (h : Hints) : State :=
  let kept := (findFrond s g.uid).elim false (fun f => f.errWait)
  if (g.elems.head?.map (fun e => e.val)).getD 0 = 1 then
    updFrond (resumeWord s g.uid h) g.uid (fun f => { f with errWait := kept })
  else exitGo (updFrond s g.uid (fun f => useHeld f.hnd { f with wait := .joined, since := s.clk })) g.uid

/-- A precise cause from a flight: the fields of a late result are zero (R254). -/
def preciseCause (c : Cause) : Cause :=
  if c.code = causeDATAFAULT then { c with info := c.info % 2 ^ 56 } else c

/-- A frond that lies in hold storage has its record brought up to date (R233). -/
def relay (s : State) (uid : Nat) : State :=
  match findFrond s uid with
  | some f => layRecord s f
  | none => s

/-- What a landing does. The flight has left the state. -/
def landFlight (s : State) (g : Flight) : State :=
  match g.blocks, g.failed with
  | some _, some c => releaseWithCause s g.uid (preciseCause c)
  | some h, none =>
    match g.op with
    | .bind w => bindRead s g w h
    | .join => joinLanded s g h
    | _ => resumeWord (updFrond s g.uid (heldResult g.dest (resultOf s g))) g.uid h
  | none, some c =>
    relay (updFrond s g.uid (fun f => resultLanded s.clk g.id { f with late := f.late ++ [c] })) g.uid
  | none, none => relay (updFrond s g.uid (fun f => resultLanded s.clk g.id (writeDest f g.dest (resultOf s g)))) g.uid

/-- A flight whose answer is a result, or lets its word complete as a load does. -/
def lands (g : Flight) : Bool :=
  match g.op with
  | .store => false
  | .scadd _ => false
  | .sync _ _ => g.dest != .none
  | .operand _ => false
  | _ => true

/-- An earlier result of a frond for the same destination has not landed (R127). -/
def landsLater (s : State) (g : Flight) : Bool :=
  match findFrond s g.uid with
  | none => false
  | some f => (earlierOuts g.id f.outs).any (fun o => destMeet o.dest g.dest) ||
    match f.loc with
    | .transit _ _ => true
    | _ => false

/-- A bind of a core below that of a bind has been read in the same cycle: its request comes first (R336). -/
def bindLater (s : State) (g : Flight) : Bool :=
  let bind := fun (x : Flight) => match x.op with
    | .bind _ => true
    | _ => false
  bind g && s.flights.any (fun x => bind x && decide (x.pcid < g.pcid) && match x.done with
    | some t => decide (t ≤ s.clk)
    | none => false)

/-- RESULT_LANDING (R125); a forwarding entry that sent it on frees (R231). -/
def execResultLanding (s : State) : Host.Outcome State Fault Refusal :=
  match s.subject with
  | .object id =>
    match findFlight s id with
    | none => .refused .notEnabled
    | some g =>
      let due := match g.done with
        | some t => decide (t ≤ s.clk)
        | none => false
      if lands g && due && !landsLater s g && !bindLater s g then
        let s := landFlight (delFlight s id) g
        .next { s with cores := s.cores.map (fun c => { c with fwd := c.fwd.filter (fun x => x != id) }) }
      else .refused .notEnabled
  | _ => .refused .notEnabled

/-! ## Synchronising operations that wait -/

/-- The word and the operation of a synchronising flight. -/
def syncOf (g : Flight) : Option (SyncOp × Nat × Nat) :=
  match g.op, g.elems with
  | .sync op b, e :: _ =>
    match e.place with
    | .ls a => some (op, b, a)
    | _ => none
  | _, _ => none

/-- A synchronising operation may be performed at its word now: the line has landed, and no urgent request is ready at
the port ahead of it (R225, R243). -/
def portTakes (s : State) (f : Frond) (id word : Nat) : Bool :=
  arrived s f.uid id (.ls word) 8 && (f.urgent || !urgentWaits s (.ls word))

/-- SYNC_RESEND (R346), of a frond whose job runs and that is not Frozen (R132, R383). -/
def execSyncResend (s : State) : Host.Outcome State Fault Refusal :=
  match s.subject with
  | .frond uid =>
    match findFrond s uid with
    | none => .refused .notEnabled
    | some f =>
      match f.wait with
      | .resend at_ id =>
        if s.clk < at_ || !mayRun s f || isFrozen s f then .refused .notEnabled
        else
          match (findFlight s id).bind (fun g => (syncOf g).map (fun x => (g, x))) with
          | some (g, op, b, word) =>
            if portTakes s f id word then
              .next (syncArrive (updFrond s uid (fun f => { f with wait := .port id })) g op b word)
            else .refused .notEnabled
          | none => .refused .notEnabled
      | _ => .refused .notEnabled
  | _ => .refused .notEnabled

/-- A waiting operation has passed its timeout (R348). -/
def timedOut (s : State) (g : Flight) : Bool :=
  match syncOf g, g.first, findJob s g.jid with
  | some (op, _, _), some t, some j =>
    limited op && g.elems.all (fun e => !e.performed) && decide (t + g.frozen + j.fet ≤ s.clk)
  | _, _, _ => false

/-- FELIMIT_TIMEOUT (R348). -/
def execFelimitTimeout (s : State) : Host.Outcome State Fault Refusal :=
  match s.subject with
  | .object id =>
    match (findFlight s id).bind (fun g => (syncOf g).map (fun x => (g, x))) with
    | some (g, _, _, word) =>
      if timedOut s g then .next (syncTrap s id g.uid { code := causeFELIMIT, info := felimitInfo true word })
      else .refused .notEnabled
    | none => .refused .notEnabled
  | _ => .refused .notEnabled

/-! ## Flits, sleeps and answers -/

/-- CHANNEL_FLIT_DELIVERY (R362); the subject is the receiving port. -/
def execChannelFlitDelivery (s : State) : Host.Outcome State Fault Refusal :=
  match s.subject with
  | .port uid n =>
    match deliverFlit s uid n with
    | some t => .next t
    | none => .refused .notEnabled
  | _ => .refused .notEnabled

/-- SLEEP_END (R160). -/
def execSleepEnd (s : State) : Host.Outcome State Fault Refusal :=
  match s.subject with
  | .frond uid =>
    match findFrond s uid with
    | none => .refused .notEnabled
    | some f =>
      match f.wait with
      | .sleep t => if t ≤ s.clk then .next (releaseFrond s uid) else .refused .notEnabled
      | _ => .refused .notEnabled
  | _ => .refused .notEnabled

/-- The answer of a service (R391). A frond without a job finds none of what services 1 to 5 tell of one (log entry 79). -/
def serviceAnswer (s : State) (f : Frond) (svc : Nat) (a : Word) : Nat :=
  if svc = 0 then a.toNat
  else if 5 < svc then 2 ^ 64 - 1
  else
    match findJob s f.jid with
    | none => 0
    | some j =>
      if svc = 1 then j.clamp.toNat
      else if svc = 2 then j.cores.length
      else if svc = 3 then j.snapshot.length
      else if svc = 4 then
        Nat.field ((j.snapshot[a.toNat / 4]?).map BitVec.toNat |>.getD 0) (64 * (a.toNat % 4)) 64
      else
        match findRun s (clusterOf f.pcid) f.jid with
        | some r => r.size
        | none => 0

/-- SYS_ANSWER (R391), to a frond whose job runs (R383). -/
def execSysAnswer (s : State) : Host.Outcome State Fault Refusal :=
  match s.subject with
  | .frond uid =>
    match findFrond s uid with
    | none => .refused .notEnabled
    | some f =>
      match f.wait with
      | .sys svc a d h =>
        if mayRun s f then .next (resumeWord (updFrond s uid (heldResult d (serviceAnswer s f svc a))) uid h)
        else .refused .notEnabled
      | _ => .refused .notEnabled
  | _ => .refused .notEnabled

/-- IDLE_WAKE (R396). -/
def execIdleWake (s : State) : Host.Outcome State Fault Refusal :=
  match s.subject with
  | .frond uid =>
    match findFrond s uid with
    | none => .refused .notEnabled
    | some f =>
      match f.wait with
      | .idle until_ d h =>
        let die := dieOf f.pcid
        let out := match until_ with
          | some t => decide (t ≤ s.clk)
          | none => false
        let m := pendingEvents s die ||| (if out then 0x20#6 else 0)
        if m = 0 then .refused .notEnabled
        else .next (resumeWord (updFrond (clearEvents s die) uid (heldResult d m.toNat)) uid h)
      | _ => .refused .notEnabled
  | _ => .refused .notEnabled

end Sys2Proof.Machine
end

