-- ==== Sys2Proof/Machine/Matrix.lean ====
section
/-! DEFINITION. Group 0xA (R279 to R307): acceptance, operand tiles, check points, and the effects of words in
engine order. -/

namespace Sys2Proof.Machine

/-! ## Sets of an engine -/

/-- The key of element (i, j) of accumulator `n`. -/
def accKey (n i j : Nat) : Nat := 16384 * n + 128 * i + j

/-- Element (i, j) of accumulator `n`. -/
def accGet (e : EngSet) (n i j : Nat) : Nat := (mapGet 0 (accKey n i j) e.acc).toNat

/-- The elements of an accumulator in ascending 128 × i + j. -/
def accSites : List (Nat × Nat) := (List.range 128).flatMap (fun i => (List.range 128).map (fun j => (i, j)))

/-- Every element of accumulator `n` given by its row and column. -/
def accFill (e : EngSet) (n : Nat) (val : Nat → Nat → Nat) : EngSet :=
  { e with acc := accSites.foldl (fun m p => mapPut 0 (accKey n p.1 p.2) (BitVec.ofNat 32 (val p.1 p.2)) m) e.acc }

/-- INF and NAN counted after a word that changed accumulator `n` from `old` to `new` (R294). -/
def countTurned (old new : EngSet) (n : Nat) : EngSet :=
  let turned := fun (p : Num → Bool) => (accSites.filter (fun q =>
    p (f32 (accGet new n q.1 q.2)) && !p (f32 (accGet old n q.1 q.2)))).length
  ctrAdd new n (0, turned Num.isInf, turned Num.isNan)

/-! ## Acceptance -/

/-- Words of a frond are accepted once the other set's words have completed (R280), and while the queue has
room (R282), and pacing refuses a word as a full queue does (R436; log entry 14). A job that first uses a set finds it
cleared. -/
def acceptable : M Unit := do
  stallIf (← pacingRefuses)
  let c ← get
  let tile := tileOf c.f.pcid
  let e := getEngine c.s tile
  stallIf (decide (32 ≤ e.queue.length) || e.queue.any (fun w => w.urgent != c.f.urgent))
  claimSet

/-- The tile guard is false (R295). -/
def tileGuardOff (tg : TileGuard) : M Bool := do
  let c ← get
  let e := (getEngine c.s (tileOf c.f.pcid)).set c.f.urgent
  return tg.tge && !(e.masks.getD tg.tm.toNat 0).toNat.testBit tg.tbit.toNat

/-- What an accepted word gives its engine. -/
structure Accept where
  op : EngOp
  fa : BitVec 32 := 0
  fb : BitVec 32 := 0
  checked : Bool := true
  elems : List Elem := []
  view : Option (Foot × Nat) := none
  cycles : Nat := 1
  deriving DecidableEq, Repr

/-- A word joins the queue of its tile's engine, under the name `id` (R282). -/
def acceptWord (h : Hints) (id : Nat) (x : Accept) : M Unit := do
  let c ← get
  let w : EngWord :=
    { id := id, uid := c.f.uid, jid := c.f.jid, pcid := c.f.pcid, urgent := c.f.urgent, cid := cidOf c.s c.f
      seed := seedOf c.s c.f.jid, stream := c.f.sseed, hints := h, op := x.op, fa := x.fa, fb := x.fb
      fmts := tableFor c.s c.f.jid x.elems, checked := x.checked, stored := false, elems := x.elems, view := x.view
      due := c.s.clk + x.cycles }
  modS (fun s => updEngine s (tileOf c.f.pcid) (fun e => { e with queue := e.queue ++ [w] }))

/-- A new name for an accepted word. -/
def freshName : M Nat := do
  let c ← get
  modS (fun s => { s with fresh := s.fresh + 1 })
  return c.s.fresh

/-- A group-0xA word: feature, fields, acceptance and tile guard, then its own body. -/
def matrixWord (h : Hints) (fields : List Field) (tg : Option TileGuard) (body : M Next) (s : State) :
    Host.Outcome State Fault Refusal :=
  runWord { h := h, grp := 0xA, fields := fields, feats := [0], roots := true } (do
    acceptable
    let off ← match tg with
      | some g => tileGuardOff g
      | none => pure false
    if off then return .seq else body) s

/-- The accumulator, or the tile mask, that a field names. -/
def accNum (o : Opnd) : Nat := o.toNat % 4
def maskNum (o : Opnd) : Nat := (o.toNat - 0xC4) % 8

/-! ## Operand tiles -/

/-- The local-store address of an operand address (R286). -/
def tileSite (s : State) (f : Frond) (l : Bool) (a : Nat) : Option Nat :=
  if l then (if a < lsSize then some (f.pcid * 2 ^ 20 + a) else none)
  else
    match windowOk s f.jid a with
    | some (p, o) => if clusterOf p = clusterOf f.pcid then some (p * 2 ^ 20 + o) else none
    | none => none

/-- The local-store addresses of `n` lines from an operand address; XLATE at the first out of reach (R286). -/
def reachLines (l : Bool) (a n : Nat) : M (List Nat) := do
  let c ← get
  match tileSite c.s c.f l a with
  | none => throw (.trap causeXLATE a)
  | some x =>
    let room := (lsSize - x % 2 ^ 20) / 128
    if room < n then throw (.trap causeXLATE (a + 128 * room))
    else return (List.range n).map (fun i => x + 128 * i)

/-- The width class of a tile in bits: 16 for T 1 and 2; else from its format's W (R285). -/
def widthClass (t : Nat) (entry : BitVec 32) : Nat :=
  if t ≠ 0 then 16 else if entry.toNat % 16 ≤ 4 then 4 else 8

/-- k-steps of a group (R281). -/
def groupSteps (width : Nat) : Nat := if width = 8 then 32 else if width = 4 then 64 else 16

/-- Data lines of a tile of K steps (R287, R289). -/
def dataLines (width k : Nat) (sparse : Bool) : Nat :=
  if sparse then k / 2 else if width = 8 then k else if width = 4 then k / 2 else 2 * k

/-- The block size of a tile's scales, 0 without scales (R288). -/
def tileBlock (t : Nat) (entry : BitVec 32) : Nat := if t = 0 then (fmtOfEntry entry).blockSize else 0

/-- Scale lines of a tile of K steps (R288). -/
def scaleLines (t : Nat) (entry : BitVec 32) (k : Nat) : Nat :=
  match tileBlock t entry with
  | 0 => 0
  | bs => k / bs

/-- The code at the first line of a T = 0 tile, and its entry; 0 when the line is out of reach. -/
def tileCode (s : State) (f : Frond) (l : Bool) (a t : Nat) : Nat × BitVec 32 :=
  if t ≠ 0 then (0, 0)
  else
    match tileSite s f l a with
    | some x => (regionCode s x, formatEntry s f.jid (regionCode s x))
    | none => (0, 0)

/-- All lines of a tile of NG groups: their number, from its own width class (R285 to R289). -/
def tileLineCount (t ng code : Nat) (entry : BitVec 32) (sparse : Bool) : Nat :=
  if t = 0 ∧ (code = 0 ∨ entry.toNat % 16 = 0) then 1
  else
    let width := widthClass t entry
    let k := ng * groupSteps width
    dataLines width k sparse + scaleLines t entry k

/-- The format checks of R285 on one tile: a code where T is 0, one code in every region it touches whatever T is, and for
T = 0 an entry in use (R298). -/
def checkTile (t code : Nat) (lines : List Nat) : M Unit := do
  let c ← get
  let first := regionCode c.s (nth lines 0)
  trapIf ((t == 0 && code == 0) || lines.any (fun x => regionCode c.s x != first)) causeOPERAND (operandInfo 5 0xE 0)
  if t = 0 then checkEntry code

/-- The carrel in which a local-store address lies. -/
def carrelAt (s : State) (x : Nat) : Option Carrel :=
  let off := x % 2 ^ 20
  if off < lsSize then (getCore s (x / 2 ^ 20)).carrels[(lsSize - 1 - off) / blockSize]? else none

/-- A line of an A tile lies in a carrel that carries the SPL value that its word refuses (R291). -/
def wrongSparse (s : State) (sparse : Bool) (x : Nat) : Bool :=
  match carrelAt s x with
  | some k => k.state != .empty && k.spl == some (!sparse)
  | none => false

/-- The operand read of one line. -/
def lineElem (x : Nat) : Elem :=
  { place := .ls x, va := windowBase + x, size := 128, lane := 0, coding := .raw, val := 0, performed := false
    applied := false, cnt := none }

/-- R298, R299: `mma`, or `mmas` when `sparse`. -/
def multiply (h : Hints) (d a b : Opnd) (ta tb : BitVec 2) (l : Bool) (ng1 : BitVec 4) (kg : BitVec 9)
    (tg : TileGuard) (sparse : Bool) (s : State) : Host.Outcome State Fault Refusal :=
  matrixWord h [fieldD .m d, fieldA .g a, fieldB .g b] (some tg) (do
    let x := (← readG 1 a).toNat
    let y := (← readG 2 b).toNat
    let ng := ng1.toNat + 1
    trapIf (x % 128 != 0) causeALIGN x
    trapIf (y % 128 != 0) causeALIGN y
    let c ← get
    let ca := tileCode c.s c.f l x ta.toNat
    let cb := tileCode c.s c.f l y tb.toNat
    let la ← reachLines l x (tileLineCount ta.toNat ng ca.1 ca.2 sparse)
    let lb ← reachLines l y (tileLineCount tb.toNat ng cb.1 cb.2 false)
    checkTile ta.toNat ca.1 la
    checkTile tb.toNat cb.1 lb
    let width := widthClass ta.toNat ca.2
    trapIf (width != widthClass tb.toNat cb.2) causeOPERAND (operandInfo 5 0xE 0)
    trapIf (la.any (wrongSparse c.s sparse)) causeOPERAND (operandInfo 5 0xE 0)
    let r := addFlight c.s c.f { path := pathMATRIX, op := .operand 0, elems := (la ++ lb).map lineElem } none
    modS (fun _ => r.2)
    acceptWord h r.1 { op := .mma (accNum d) sparse ta.toNat tb.toNat ng kg.toNat width la.length lb.length
                       fa := ca.2, fb := cb.2, checked := false }
    return .engine r.1) s

/-- R298 `mma`. -/
def execMma (h : Hints) (d a b : Opnd) (ta tb : BitVec 2) (l : Bool) (ng1 : BitVec 4) (kg : BitVec 9)
    (tg : TileGuard) (s : State) : Host.Outcome State Fault Refusal := multiply h d a b ta tb l ng1 kg tg false s

/-- R299 `mmas`. -/
def execMmas (h : Hints) (d a b : Opnd) (ta tb : BitVec 2) (l : Bool) (ng1 : BitVec 4) (kg : BitVec 9)
    (tg : TileGuard) (s : State) : Host.Outcome State Fault Refusal := multiply h d a b ta tb l ng1 kg tg true s

/-- A word without operands of its own in memory, whose check point is its acceptance. -/
def plainWord (h : Hints) (x : Accept) : M Next := do
  let id ← freshName
  acceptWord h id x
  return .seq

/-- R297 `mzero`. -/
def execMzero (h : Hints) (d : Opnd) (tg : TileGuard) (s : State) : Host.Outcome State Fault Refusal :=
  matrixWord h [fieldD .m d] (some tg) (plainWord h { op := .zero (accNum d) }) s

/-- R303 `madd`. -/
def execMadd (h : Hints) (d a : Opnd) (kg : BitVec 9) (tg : TileGuard) (s : State) :
    Host.Outcome State Fault Refusal :=
  matrixWord h [fieldD .m d, fieldA .m a] (some tg)
    (plainWord h { op := .add (accNum d) (accNum a) kg.toNat, cycles := 128 }) s

/-- R304 `mclrs`. -/
def execMclrs (h : Hints) (a : Opnd) (s : State) : Host.Outcome State Fault Refusal :=
  matrixWord h [fieldA .m a] none (plainWord h { op := .clear (accNum a) }) s

/-- An outstanding result that its engine forms. -/
def engineResult (d : Opnd) (v : Nat) (done : Option Nat) : M Nat := do
  limitOuts
  let c ← get
  let r := addFlight c.s c.f { path := pathMATRIX, op := .value v, dest := destOf d, elems := [] } none
  modS (fun _ => updFlight r.2 r.1 (fun g => { g with done := done }))
  markOut r.1 (destOf d)
  return r.1

/-- R304 `mstat`. -/
def execMstat (h : Hints) (d a : Opnd) (s : State) : Host.Outcome State Fault Refusal :=
  matrixWord h [fieldD .gres d, fieldA .m a] none (do
    let id ← engineResult d 0 none
    acceptWord h id { op := .stat (accNum a) }
    return .seq) s

/-- A tile mask of the frond's set. -/
def maskOf (c : Ctx) (n : Nat) : Word := ((getEngine c.s (tileOf c.f.pcid)).set c.f.urgent).masks.getD n 0

/-- A tile mask of the frond's set written. -/
def setMask (n : Nat) (x : Word) : M Unit := do
  let c ← get
  modS (fun s => updSet s (tileOf c.f.pcid) c.f.urgent (fun e => { e with masks := e.masks.set n x }))

/-- R305 `mtm`. -/
def execMtm (h : Hints) (d a : Opnd) (s : State) : Host.Outcome State Fault Refusal :=
  matrixWord h [fieldD .k d, fieldA .g a] none (do
    let x ← readG 1 a
    setMask (maskNum d) x
    return .seq) s

/-- R305 `mtm.rd`. -/
def execMtmRd (h : Hints) (d a : Opnd) (s : State) : Host.Outcome State Fault Refusal :=
  matrixWord h [fieldD .gres d, fieldA .k a] none (do
    let c ← get
    let _ ← engineResult d (maskOf c (maskNum a)).toNat (some (c.s.clk + 16))
    return .seq) s

/-- R305 `mtmg`: the old bit is the result, and the bit becomes `b`. -/
def maskBit (h : Hints) (d a : Opnd) (n : BitVec 6) (b : Bool) (s : State) :
    Host.Outcome State Fault Refusal :=
  matrixWord h [fieldD .q d, fieldA .k a] none (do
    let c ← get
    let x := maskOf c (maskNum a)
    let _ ← engineResult d (x.toNat.testBit n.toNat).toNat (some (c.s.clk + 16))
    let bit := BitVec.ofNat 64 (2 ^ n.toNat)
    setMask (maskNum a) (if b then x ||| bit else x &&& ~~~bit)
    return .seq) s

/-- R305 `mtmg.set`. -/
def execMtmgSet (h : Hints) (d a : Opnd) (n : BitVec 6) (s : State) : Host.Outcome State Fault Refusal :=
  maskBit h d a n true s

/-- R305 `mtmg.clr`. -/
def execMtmgClr (h : Hints) (d a : Opnd) (n : BitVec 6) (s : State) : Host.Outcome State Fault Refusal :=
  maskBit h d a n false s

/-- R306 `msync`. -/
def execMsync (h : Hints) (s : State) : Host.Outcome State Fault Refusal :=
  runWord { h := h, grp := 0xA, fields := [], feats := [0], roots := true } (do
    let c ← get
    stallIf (!matrixQuiet c.s c.f.uid)
    return .seq) s

/-! ## Views as tiles -/

/-- Index of dimension k at the first element of a tile (R300). -/
def tileIndex (d : BitVec 512) (x : Word) (k : Nat) : Nat := viewOrg d k + coordinate x k

/-- The failing index of dimension k, the least one, when some element of the tile fails there (R300). -/
def tileFailure (d : BitVec 512) (x : Word) (k : Nat) : Option Nat :=
  if k < viewRank d then
    let span := if k < 2 then 127 else 0
    let low := tileIndex d x k
    if viewExt d k ≤ low + span then some (Nat.max low (viewExt d k)) else none
  else if coordinate x k ≠ 0 then some (tileIndex d x k)
  else none

/-- The addresses of a tile's elements, with 128 × i + j as lane. -/
def tileSites (d : BitVec 512) (x : Word) : List (Nat × Nat) :=
  accSites.map (fun p =>
    let index := fun k => (tileIndex d x k : Int) + (if k = 0 then p.2 else if k = 1 then p.1 else 0 : Nat)
    (128 * p.1 + p.2, ((viewBase d : Int) + (viewEsz d : Int) *
      ((viewDims d).map (fun k => index k * viewStr d k)).sum).toNat))

/-- The page of every address can be written: one that cannot raises XLATE at the word (R301). -/
def checkWritable : List Nat → M Unit
  | [] => pure ()
  | a :: as => do
    if !inWindow a then
      let t ← translateAt a false
      trapIf (!t.wr) causeXLATE a
    checkWritable as

/-- The elements of a whole-tile view access, after its checks (R300, R301). -/
def tileElements (d : BitVec 512) (x : Word) (ty : Nat) (write : Bool) : M (List Elem) := do
  trapIf (decide (viewRank d < 2)) causeOPERAND (operandInfo 5 0xE 0)
  match (List.range 4).findSome? (fun k => (tileFailure d x k).map (fun i => (i, k))) with
  | some (i, k) => raise causeVIEWBOUND (boundInfo i 0 k)
  | none => pure ()
  let ss := tileSites d x
  let addrs := ss.map (·.2)
  let code ← if viewFcode d = 0 then firstCode false (addrs.getD 0 0) false else pure (viewFcode d)
  let size := if code ≠ 0 then 1 else if ty = 0 then 4 else 2
  trapIf (size != viewEsz d) causeOPERAND (operandInfo 5 0xE 0)
  if write then
    checkForms false size addrs
    checkAlign size addrs
    checkWritable addrs
  elementsSized size true false false (viewFcode d) ss

/-- R300 `mld`. -/
def execMld (h : Hints) (d a b : Opnd) (ty : BitVec 2) (tg : TileGuard) (s : State) :
    Host.Outcome State Fault Refusal :=
  matrixWord h [fieldD .m d, fieldA .w a, fieldB .g b] (some tg) (do
    let v ← liveView 1 a false
    let x ← readG 2 b
    let es ← tileElements v x ty.toNat false
    let c ← get
    let r := addFlight c.s c.f { path := pathMATRIX, op := .operand 0, elems := es
                                 view := some (footOf v, viewNum a) } none
    modS (fun _ => r.2)
    acceptWord h r.1 { op := .load (accNum d) ty.toNat, checked := false }
    return .engine r.1) s

/-- R301 `mst`. -/
def execMst (h : Hints) (d a b : Opnd) (rnd : BitVec 3) (ty : BitVec 2) (tg : TileGuard) (s : State) :
    Host.Outcome State Fault Refusal :=
  matrixWord h [fieldD .w d, fieldA .m a, fieldB .g b] (some tg) (do
    let v ← liveView 0 d true
    let x ← readG 2 b
    let es ← tileElements v x ty.toNat true
    plainWord h { op := .store (accNum a) rnd.toNat ty.toNat, elems := es
                  view := some (footOf v, viewNum d), cycles := 128 }) s

/-- Lines that `msst` may write: the pairs left, or what its buffer holds (R302). -/
def sparseRoom (d e r : Nat) : Nat := Nat.min (64 - r) ((e - d) / 128)

/-- R302 `msst`. -/
def execMsst (h : Hints) (d a b c : Opnd) (rnd : BitVec 3) (ty : BitVec 2) (l : Bool) (tg : TileGuard)
    (s : State) : Host.Outcome State Fault Refusal :=
  matrixWord h [fieldD .g d, fieldA .m a, fieldB .g b, fieldC .g c] (some tg) (do
    let z := (← readG 2 b).toNat
    let r := (← readG 0xA c).toNat
    let x := (← readG 0 d).toNat
    trapIf (x % 128 != 0) causeALIGN x
    let first ← reachLines l x 1
    trapIf (decide (z < x) || decide (63 < r)) causeOPERAND (operandInfo 5 0xA c.toNat)
    let lines ← reachLines l x (sparseRoom x z r)
    let k ← get
    let code := regionCode k.s (nth first 0)
    trapIf (code == 0 && ty == 0) causeOPERAND (operandInfo 5 0xE 0)
    checkEntry code
    let id ← freshName
    acceptWord h id { op := .sst (accNum a) rnd.toNat ty.toNat code r lines.length
                      fa := formatEntry k.s k.f.jid code, checked := false
                      elems := lines.map lineElem, cycles := 128 }
    return .engine id) s

/-! ## Values of operand tiles -/

/-- Byte `n` of a line. -/
def lineByte (x n : Nat) : Nat := Nat.field x (8 * n) 8

/-- The raw code of element `n` of step `k` in the lines of a dense tile (R287). -/
def denseCode (width : Nat) (lines : List Nat) (k n : Nat) : Nat :=
  if width = 8 then lineByte (nth lines k) n
  else if width = 4 then
    let b := lineByte (nth lines (k / 2)) (64 * (k % 2) + n / 2)
    if n % 2 = 0 then b % 16 else b / 16
  else
    let x := nth lines (2 * k) + 2 ^ 1024 * nth lines (2 * k + 1)
    lineByte x (2 * n) + 256 * lineByte x (2 * n + 1)

/-- Packed value `v` of a sparse line (R289). -/
def packedValue (width x v : Nat) : Nat :=
  if width = 8 then lineByte x (36 + v)
  else if width = 16 then lineByte x (36 + 2 * v) + 256 * lineByte x (37 + 2 * v)
  else
    let b := lineByte x (36 + v / 2)
    if v % 2 = 0 then b % 16 else b / 16

/-- The raw code of element `n` of step `k` in the lines of a sparse tile, none for an absent element (R289). -/
def sparseCode (width : Nat) (lines : List Nat) (k n : Nat) : Option Nat :=
  let x := nth lines (k / 2)
  let m := n + 128 * (k % 2)
  if x.testBit m then some (packedValue width x (ones m x)) else none

/-- A code as the tile's T and format read it (R163, R165, R285). -/
def tileNum (t : Nat) (entry : BitVec 32) (code : Nat) : Num :=
  if t = 1 then decodeIeee fmtF16 0 code
  else if t = 2 then decodeIeee fmtBf16 0 code
  else decodeNarrow (fmtOfEntry entry) 0 code

/-- Element `n` of step `k` of a tile, decoded and scaled (R288, R289). -/
def tileValue (t width : Nat) (entry : BitVec 32) (sparse : Bool) (data scales : List Nat) (k n : Nat) : Num :=
  let x := if sparse then
      match sparseCode width data k n with
      | some c => tileNum t entry c
      | none => .fin false 0 0
    else tileNum t entry (denseCode width data k n)
  match tileBlock t entry with
  | 0 => x
  | bs => scaleNum x (scaleExp (lineByte (nth scales (k / bs)) n)) 0

/-- The exact sum of a group's products; none for a NaN (R293). -/
def groupSum : List (Num × Num) → Num → Option Num
  | [], s => some s
  | (a, b) :: ps, s =>
    if a.isNan || b.isNan then none
    else (mulNum a b).bind (fun p => (addNum rneMode s p).bind (fun s => groupSum ps s))

/-- RNE(acc + s), where a NaN that arises takes payload `pay` (R181, R293, R303). -/
def accAdd (pay acc : Nat) (x : Option Num) : Nat :=
  let a := f32 acc
  let made := Num.nan false pay false
  let nan := fun (l : List Num) => match pickNan l none with
    | some (.nan n p _) => nanBits n p
    | _ => nanBits false pay
  match x with
  | none => nan [a, made]
  | some v =>
    if a.isNan || v.isNan then nan [a, v]
    else
      match addNum rneMode a v with
      | none => nan [made]
      | some r => (roundF32 rneMode 0 r).1

/-- The groups of a word, from `g` on, added to one element (R293). -/
def addGroups (cid kg steps : Nat) (pair : Nat → Num × Num) : Nat → Nat → Nat → Nat
  | 0, _, acc => acc
  | n + 1, g, acc =>
    let s := groupSum ((List.range steps).map (fun i => pair (g * steps + i))) (.fin false 0 0)
    addGroups cid kg steps pair n (g + 1) (accAdd (nanPayload cid (kg + g)) acc s)

/-- The effect of `mma` and `mmas` on a set, from the lines read (R293, R294, R299). -/
def mmaEffect (w : EngWord) (d : Nat) (sparse : Bool) (ta tb ng kg width na : Nat) (lines : List Nat)
    (e : EngSet) : EngSet :=
  let steps := groupSteps width
  let k := ng * steps
  let al := lines.take na
  let bl := lines.drop na
  let an := dataLines width k sparse
  let bn := dataLines width k false
  let a := tileValue ta width w.fa sparse (al.take an) (al.drop an)
  let b := tileValue tb width w.fb false (bl.take bn) (bl.drop bn)
  let new := accFill e d (fun i j =>
    addGroups w.cid kg steps (fun k => (a k i, b k j)) ng 0 (accGet e d i j))
  countTurned e new d

/-- Reason of SPARSELINE for one line (R290), 0 for none. -/
def sparseReason (width x : Nat) : Nat :=
  let code := lineByte x 33
  let n := lineByte x 32
  let want := if width = 8 then 0 else if width = 16 then 1 else 2
  let cap := if code = 0 then 92 else if code = 1 then 46 else 184
  if 3 ≤ code then 1
  else if code ≠ want then 2
  else if lineByte x 34 ≠ 0 ∨ lineByte x 35 ≠ 0 then 3
  else if cap < n then 4
  else if ones 256 x ≠ n then 5
  else 0

/-- SPARSELINE at the first sparse line that fails (R290). The line index has eight bits (log entry 77). -/
def sparseFault (width : Nat) : List Nat → Nat → Option Cause
  | [], _ => none
  | x :: xs, l =>
    match sparseReason width x with
    | 0 => sparseFault width xs (l + 1)
    | r => some { code := causeSPARSELINE, info := r + 256 * (l % 256) }

/-! ## Conversions of accumulators -/

/-- The conversion of element (i, j) of an accumulator (R175, R301, R302). -/
def convertAcc (w : EngWord) (e : EngSet) (a rnd i j : Nat) (f : Fmt) : Conv :=
  convert rnd (.float f) (rndOf w.seed w.stream (128 * i + j)) (f32 (accGet e a i j))

/-- The element stores of `mst`, with the accumulator's values; each is converted when it is performed (R301). -/
def mstStores (w : EngWord) (e : EngSet) (a rnd ty : Nat) : List Elem :=
  w.elems.map (fun x =>
    let bits := rndOf w.seed w.stream x.lane
    { x with
        val := accGet e a (x.lane / 128) (x.lane % 128)
        coding := match x.coding with
          | .fixed c => .acc c 0 a rnd ty bits
          | .place page => .acc 0 page a rnd ty bits
          | c => c })

/-- The width of `msst` in bits (R302). -/
def sstWidth (code : Nat) (entry : BitVec 32) : Nat :=
  if code = 0 then 16 else if entry.toNat % 16 ≤ 4 then 4 else 8

/-- The conversions of column pair `p`, in ascending m (R289, R302). -/
def pairConvs (w : EngWord) (e : EngSet) (a rnd ty code p : Nat) : List Conv :=
  (List.range 256).map (fun m =>
    convertAcc w e a rnd (m % 128) (2 * p + m / 128) (storeTarget code ty w.fa))

/-- A code that is not a zero (R302). -/
def nonzeroCode (f : Fmt) (code : Nat) : Bool := !(decodeFmt f 0 code).isZero

/-- Packed values as bytes 36 and up of a line, as a number (R289). -/
def packValues (width : Nat) : List Nat → Nat → Nat
  | [], _ => 0
  | c :: cs, pos => c * 2 ^ pos + packValues width cs (pos + width)

/-- The sparse line of a pair's conversions (R289, R302). -/
def sparseLine (width : Nat) (f : Fmt) (cs : List Conv) : Nat :=
  let codes := cs.map (fun c => c.code)
  let bitmap := codes.zipIdx.foldl (fun acc x => if nonzeroCode f x.1 then acc + 2 ^ x.2 else acc) 0
  let vals := codes.filter (nonzeroCode f)
  let wcode := if width = 8 then 0 else if width = 16 then 1 else 2
  bitmap + vals.length * 2 ^ 256 + wcode * 2 ^ 264 + packValues width vals 288

/-- Values that a sparse line holds (R289). -/
def sparseCap (width : Nat) : Nat := if width = 8 then 92 else if width = 16 then 46 else 184

/-- SPARSELINE of `msst`: the first pair whose values do not fit its line (R302). -/
def packFault (w : EngWord) (e : EngSet) (a rnd ty code r : Nat) : Option Cause :=
  let f := storeTarget code ty w.fa
  let cap := sparseCap (sstWidth code w.fa)
  ((List.range (64 - r)).map (· + r)).findSome? (fun p =>
    if cap < ((pairConvs w e a rnd ty code p).filter (fun c => nonzeroCode f c.code)).length then
      some { code := causeSPARSELINE, info := 4 + 256 * p }
    else none)

/-! ## Check points and completion -/

/-- An engine word by its name. -/
def findWord (s : State) (tile id : Nat) : Option EngWord := (getEngine s tile).queue.find? (fun w => w.id == id)

/-- One engine word changed. -/
def updWord (s : State) (tile id : Nat) (g : EngWord → EngWord) : State :=
  updEngine s tile (fun e => { e with queue := updFirst (fun w => w.id == id) g e.queue })

/-- An engine word leaves its engine, with the flight of its operand reads. -/
def dropWord (s : State) (tile id : Nat) : State :=
  updEngine s tile (fun e => { e with queue := delFirst (fun w => w.id == id) e.queue })

/-- The words that the engine accepted before one. -/
def earlierWords (s : State) (tile id : Nat) : List EngWord :=
  (getEngine s tile).queue.takeWhile (fun w => w.id != id)

/-- The accumulator that a word writes. -/
def EngOp.target : EngOp → Option Nat
  | .zero d => some d
  | .mma d _ _ _ _ _ _ _ _ => some d
  | .load d _ => some d
  | .add d _ _ => some d
  | _ => none

/-- A word changes the elements of accumulator `n`, or reads or clears its counters. -/
def EngOp.acts (o : EngOp) (n : Nat) : Bool :=
  o.target == some n || match o with
    | .stat a => a == n
    | .clear a => a == n
    | _ => false

/-- A word that writes to memory. -/
def EngOp.stores : EngOp → Bool
  | .store _ _ _ => true
  | .sst _ _ _ _ _ _ => true
  | _ => false

/-- A word of an engine has still to write some of its elements in local store. -/
def localLeft (s : State) (w : EngWord) : Bool :=
  let here := fun (e : Elem) => match resolve s e.place with
    | .ls _ => true
    | _ => false
  if w.stored then ((findFlight s w.id).elim false (fun g => g.elems.any (fun e => !e.performed && here e)))
  else w.op.stores && w.elems.any here

/-- The operand reads of an engine word come after every local-store write of the words that its engine
accepted earlier (R292). Those of `mld` are view accesses, and keep no order with them (R300, R323). -/
def operandMayRead (s : State) (g : Flight) : Bool :=
  match findWord s (tileOf g.pcid) g.id with
  | none => true
  | some w =>
    match w.op with
    | .mma _ _ _ _ _ _ _ _ _ => (earlierWords s (tileOf g.pcid) g.id).all (fun x => !localLeft s x)
    | _ => true

/-- The bits of line `k` of a tile's operand lines that are read as one element with bit `4 * b` as the first, 0 where no
element begins there: the codes of data, the scales, and the bytes of a sparse line's head (R287 to R289, R319, R321). -/
def operandUnit (op : EngOp) (k b : Nat) : Nat :=
  match op with
  | .mma _ sparse _ _ ng _ width na _ =>
    let steps := ng * groupSteps width
    let data := if k < na then decide (k < dataLines width steps sparse) else decide (k - na < dataLines width steps false)
    let head := sparse && decide (k < na) && decide (b < 72)
    let unit := if !data || head then 8 else width
    if 256 ≤ b ∨ 4 * b % unit ≠ 0 then 0 else unit
  | _ => 0

/-- An element of operand line `k` of a flight is read before the rest of its line (R319, R321); none when it may not be. The
read of a marked granule fails as the line's does (R292). -/
def readOperand (s : State) (id k b : Nat) : Option State :=
  (findFlight s id).bind (fun g => (findWord s (tileOf g.pcid) id).bind (fun w => (g.elems[k]?).bind (fun e =>
    let unit := operandUnit w.op k b
    match e.place with
    | .ls a =>
      let n := Nat.max 1 (unit / 8)
      let x := { e with place := .ls (a + b / 2), va := e.va + b / 2, size := n }
      if unit = 0 || g.got.any (fun y => y.1 == k && y.2.1 == 4 * b) || !operandMayRead s g || !mayPerform s g k x then none
      else
        match readPlace s x.place n with
        | none => some (failElem s g k e (lateFault g x))
        | some v => some (updFlight s id (fun g =>
            { g with got := g.got ++ [(k, 4 * b, unit, Nat.field v (4 * (b % 2)) unit)] }))
    | _ => none)))

/-- A trap at a check point: the word leaves the engine, and the cause is pending at it (R280, R283). -/
def checkTrap (s : State) (tile : Nat) (w : EngWord) (c : Cause) : State :=
  releaseWithCause (delFlight (dropWord s tile w.id) w.id) w.uid c

/-- The frond of a word goes on at its check point (R283). -/
def passCheck (s : State) (tile : Nat) (w : EngWord) (cycles : Nat) : State :=
  resumeWord (updWord s tile w.id (fun w => { w with checked := true, due := s.clk + cycles })) w.uid w.hints

/-- The flight of the stores `es` of an engine word. -/
def wordStores (s : State) (w : EngWord) (es : List Elem) : Flight :=
  { id := w.id, uid := w.uid, jid := w.jid, path := pathMATRIX, pcid := w.pcid, dest := .none, op := .store
    elems := es, piece := false, issued := s.clk, due := s.clk, back := backTime s w.pcid es, done := none
    fmts := w.fmts, acq := none, view := w.view, tries := 0, first := none, frozen := 0, failed := none
    blocks := none }

/-- The stores of an engine word enter the state; each that crosses dies takes the clock of its die (R326). -/
def storesOut (s : State) (w : EngWord) (es : List Elem) : State :=
  let g := wordStores s w es
  let r := stampElems s g es
  { r.1 with flights := r.1.flights ++ [{ g with elems := r.2 }] }

/-- The 16 aligned pieces in which a line of `msst` is written (R321). -/
def linePieces8 (e : Elem) (v : Nat) : List Elem :=
  match e.place with
  | .ls a => (List.range 16).map (fun i =>
      { e with place := .ls (a + 8 * i), va := e.va + 8 * i, size := 8, val := Nat.field v (64 * i) 64 })
  | _ => [{ e with val := v }]

/-- The lines of `msst` are written, and its counters raised, from its check point on (R302). -/
def sparseStores (s : State) (tile : Nat) (w : EngWord) (a rnd ty code r room : Nat) : State :=
  let e := (getEngine s tile).set w.urgent
  let f := storeTarget code ty w.fa
  let pairs := (List.range room).map (· + r)
  let convs := pairs.map (pairConvs w e a rnd ty code)
  let es := (w.elems.zip convs).flatMap (fun x => linePieces8 x.1 (sparseLine (sstWidth code w.fa) f x.2))
  let s := updSet s tile w.urgent (fun e => ctrAdd e a (tally convs.flatten))
  let s := if es.isEmpty then s else storesOut s w es
  updWord s tile w.id (fun w => { w with checked := true, stored := true, due := s.clk })

/-- The check point of an engine word is reached, where it can be (R283). The frond of a word that traps there stays rooted
(log entry 92, DESIGN CHOICE: R34 roots at issue, and R370 has a word at which a cause is taken not issued). -/
def checkPoint (s : State) (tile id : Nat) : Option State :=
  (findWord s tile id).bind (fun w =>
    if w.checked then none
    else
      match w.op with
      | .mma _ sparse _ _ ng _ width na _ =>
        (findFlight s id).bind (fun g =>
          if !g.elems.all (fun e => e.performed) then none
          else
            match g.failed with
            | some c => some (checkTrap s tile w { c with info := c.info % 2 ^ 56 })
            | none =>
              let lines := (g.elems.take na).map (fun e => e.val)
              let bad := if sparse then sparseFault width (lines.take (ng * groupSteps width / 2)) 0 else none
              match bad with
              | some c => some (checkTrap s tile w c)
              | none => some (passCheck s tile w ((if sparse then 16 else 32) * ng)))
      | .load _ _ =>
        (findFlight s id).bind (fun g =>
          if !g.elems.all (fun e => e.performed) then none
          else
            match g.failed with
            | some c => some (checkTrap s tile w { c with info := c.info % 2 ^ 56 })
            | none => some (passCheck s tile w 128))
      | .sst a rnd ty code r room =>
        if (earlierWords s tile id).any (fun x => x.op.acts a) || decide (s.clk < w.due) then none
        else
          match packFault w ((getEngine s tile).set w.urgent) a rnd ty code r with
          | some c => some (checkTrap s tile w c)
          | none =>
            let s := sparseStores s tile w a rnd ty code r room
            if r + room ≤ 63 then
              some (releaseWithCause s w.uid { code := causeOVERRUN, info := r + room })
            else some (resumeWord s w.uid w.hints)
      | _ => none)

/-- The head of an engine's queue, when its check point is past and its time has come. -/
def headWord (s : State) (tile : Nat) (urgent : Bool) : Option EngWord :=
  match (getEngine s tile).queue with
  | [] => none
  | w :: _ => if w.urgent = urgent ∧ w.checked ∧ w.due ≤ s.clk then some w else none

/-- The accumulator of a head `mst` is read and its stores start (R301), once no die holds back the stores toward it
(R326). -/
def startStores (s : State) (tile : Nat) (w : EngWord) : Option State :=
  match w.op, w.stored with
  | .store a rnd ty, false =>
    let es := mstStores w ((getEngine s tile).set w.urgent) a rnd ty
    if clockStops s (dieOf w.pcid) (es.map (fun e => e.place)) then none
    else some (storesOut (updWord s tile w.id (fun w => { w with stored := true })) w es)
  | _, _ => none

/-- The values that an `mld` writes: each element decoded and rounded once (R167, R300). A 4-byte binary32 element keeps its bits,
a signalling NaN too (log entry 109, DEDUCED: R167 converts only what is not a binary32 value). -/
def loadedAcc (w : EngWord) (ty : Nat) (g : Flight) (i j : Nat) : Nat :=
  match g.elems[128 * i + j]? with
  | none => 0
  | some e =>
    if e.size = 2 then
      (convert rneMode (.float fmtF32) 0 (plainNan (decodeIeee (if ty = 1 then fmtF16 else fmtBf16)
        (nanPayload w.cid 0) e.val))).code
    else e.val

/-- Every element store of an engine's storing word has been performed (R306). -/
def storesDone (s : State) (id : Nat) : Bool :=
  match findFlight s id with
  | some g => g.elems.all (fun e => e.performed)
  | none => true

/-- The head word of an engine finishes its effects (R293 to R306); none when it cannot yet. -/
def completeWord (s : State) (tile : Nat) (w : EngWord) : Option State :=
  let up := fun (g : EngSet → EngSet) => dropWord (updSet s tile w.urgent g) tile w.id
  match w.op with
  | .zero d => some (up (fun e => accFill e d (fun _ _ => 0)))
  | .mma d sparse ta tb ng kg width na _ =>
    (findFlight s w.id).map (fun g =>
      delFlight (up (mmaEffect w d sparse ta tb ng kg width na (g.elems.map (fun e => e.val)))) w.id)
  | .load d ty => (findFlight s w.id).map (fun g => delFlight (up (fun e => accFill e d (loadedAcc w ty g))) w.id)
  | .store _ _ _ =>
    if w.stored && storesDone s w.id then some (dropWord s tile w.id) else none
  | .sst _ _ _ _ _ _ =>
    if w.stored && storesDone s w.id then some (dropWord s tile w.id) else none
  | .add d a kg =>
    some (up (fun e => countTurned e (accFill e d (fun i j =>
      accAdd (nanPayload w.cid kg) (accGet e d i j) (some (f32 (accGet e a i j))))) d))
  | .stat a =>
    let c := ((getEngine s tile).set w.urgent).ctr.getD a (0, 0, 0)
    some (dropWord (updFlight s w.id (fun g =>
      { g with op := .value (c.2.2 + c.2.1 * 2 ^ 21 + c.1 * 2 ^ 42), done := some (s.clk + 16) })) tile w.id)
  | .clear a => some (up (fun e => { e with ctr := e.ctr.set a (0, 0, 0) }))

/-- MATRIX_CHECK_POINT (R283). -/
def execMatrixCheckPoint (s : State) : Host.Outcome State Fault Refusal :=
  match s.subject with
  | .engineWord tile id =>
    match checkPoint s tile id with
    | some s => .next s
    | none => .refused .notEnabled
  | _ => .refused .notEnabled

/-- MATRIX_WORD_COMPLETE (R306). -/
def execMatrixWordComplete (s : State) : Host.Outcome State Fault Refusal :=
  match s.subject with
  | .engine tile urgent =>
    match (headWord s tile urgent).bind (completeWord s tile) with
    | some s => .next s
    | none => .refused .notEnabled
  | _ => .refused .notEnabled

end Sys2Proof.Machine
end

