-- ==== Sys2Proof/Machine/Vector.lean ====
section
/-! DEFINITION. Groups 0x5 and 0x6 (R200 to R211): 16 lanes of 32 bits, as integers and as binary32. -/

namespace Sys2Proof.Machine

/-! ## Lane values. Each takes the lanes of its sources. -/

/-- A lane operation on two sources. -/
def lanes2 (op : Nat → Nat → Nat) (as bs : List Nat) : List Nat := List.zipWith op as bs

/-- A lane operation on three sources. -/
def lanes3 (op : Nat → Nat → Nat → Nat) (as bs cs : List Nat) : List Nat :=
  List.zipWith (fun f c => f c) (List.zipWith op as bs) cs

def laneAdd (as bs : List Nat) : List Nat := lanes2 (valAdd 32) as bs
def laneSub (as bs : List Nat) : List Nat := lanes2 (valSub 32) as bs
def laneMul (as bs : List Nat) : List Nat := lanes2 (valMul 32) as bs
def laneMad (as bs cs : List Nat) : List Nat := lanes3 (fun a b c => (a * b + c) % 2 ^ 32) as bs cs
def laneAnd (as bs : List Nat) : List Nat := lanes2 (valAnd 32) as bs
def laneOr (as bs : List Nat) : List Nat := lanes2 (valOr 32) as bs
def laneXor (as bs : List Nat) : List Nat := lanes2 (valXor 32) as bs
def laneShl (as bs : List Nat) : List Nat := lanes2 (valShl 32) as bs
def laneShr (as bs : List Nat) : List Nat := lanes2 (valShr 32) as bs
def laneSar (as bs : List Nat) : List Nat := lanes2 (valSar 32) as bs
def laneMin (lt : Bool) (as bs : List Nat) : List Nat := lanes2 (if lt then valMinn 32 else valMin 32) as bs
def laneMax (lt : Bool) (as bs : List Nat) : List Nat := lanes2 (if lt then valMaxn 32 else valMax 32) as bs

/-- R202 `vperm`. -/
def lanePerm (as bs : List Nat) : List Nat := bs.map (fun b => nth as (b % 16))

/-- Running sums from `acc` modulo 2^32, each before its lane when `ex`, else after it. -/
def runningSums (ex : Bool) : Nat → List Nat → List Nat
  | _, [] => []
  | acc, a :: as => (if ex then acc else (acc + a) % 2 ^ 32) :: runningSums ex ((acc + a) % 2 ^ 32) as

/-- R203 `vscan`. -/
def laneScan (ex : Bool) (as : List Nat) : List Nat := runningSums ex 0 as

/-- A lane as LT reads it (R200). -/
def laneInt (lt : Bool) (x : Nat) : Int := if lt then (x % 2 ^ 32 : Nat) else Nat.signed x 32

/-- A lane extended to 64 bits by LT (R202, R203). -/
def extendLane (lt : Bool) (x : Nat) : Word := BitVec.ofInt 64 (laneInt lt x)

/-- All ones for true (R201, R206). -/
def laneTrue (b : Bool) : Nat := if b then 0xFFFFFFFF else 0

/-- A binary32 operation in every lane, with the flags of all lanes; `op` takes the lane's number (R189). -/
def floatLanes (op : Nat → Nat → FRes) (as : List Nat) : List Nat × BitVec 7 :=
  let rs := as.zipIdx.map (fun e => op e.2 e.1)
  (rs.map (·.1), rs.foldl (fun f r => f ||| r.2) 0)

/-- A binary32 operation on two sources in every lane. -/
def floatLanes2 (op : Nat → Nat → Nat → FRes) (as bs : List Nat) : List Nat × BitVec 7 :=
  floatLanes (fun l a => op l a (nth bs l)) as

/-- A binary32 operation on three sources in every lane. -/
def floatLanes3 (op : Nat → Nat → Nat → Nat → FRes) (as bs cs : List Nat) : List Nat × BitVec 7 :=
  floatLanes (fun l a => op l a (nth bs l) (nth cs l)) as

/-- The random words of the frond by element, and its logical core. -/
def floatEnv : M ((Nat → Nat) × Nat) := do
  let c ← get
  return (rndOf (seedOf c.s c.f.jid) c.f.sseed, cidOf c.s c.f)

/-! ## Forms -/

/-- What every vector word needs (R101, R122). -/
def vectorReq (h : Hints) (grp : Nat) (fields : List Field) : Req :=
  { h := h, grp := grp, fields := fields, feats := [1], vec := true }

/-- An integer word with two vector sources (R201, R202). -/
def vector2 (h : Hints) (d a : Opnd) (b : SrcB) (op : List Nat → List Nat → List Nat) (s : State) :
    Host.Outcome State Fault Refusal :=
  runWord (vectorReq h 5 (fieldD .vw d :: fieldA .v a :: fieldSrc .v b)) (do
    let x ← readV 1 a
    let y ← readVB b
    writeV d (op x y)
    return .seq) s

/-- An integer word with three vector sources (R201). -/
def vector3 (h : Hints) (d a b c : Opnd) (op : List Nat → List Nat → List Nat → List Nat) (s : State) :
    Host.Outcome State Fault Refusal :=
  runWord (vectorReq h 5 [fieldD .vw d, fieldA .v a, fieldB .v b, fieldC .v c]) (do
    let x ← readV 1 a
    let y ← readV 2 b
    let z ← readV 0xA c
    writeV d (op x y z)
    return .seq) s

/-- A reduction to a scalar (R203). -/
def reduceTo (h : Hints) (lt : Bool) (d a : Opnd) (op : List Nat → Nat) (s : State) :
    Host.Outcome State Fault Refusal :=
  runWord (vectorReq h 5 [fieldD .gw d, fieldA .v a]) (do
    let x ← readV 1 a
    writeG d (extendLane lt (op x))
    return .seq) s

/-! ## Meanings of group 0x5 -/

/-- R201 `vadd`. -/
def execVadd (h : Hints) (d a : Opnd) (b : SrcB) (s : State) : Host.Outcome State Fault Refusal :=
  vector2 h d a b laneAdd s
/-- R201 `vsub`. -/
def execVsub (h : Hints) (d a : Opnd) (b : SrcB) (s : State) : Host.Outcome State Fault Refusal :=
  vector2 h d a b laneSub s
/-- R201 `vmul`. -/
def execVmul (h : Hints) (d a : Opnd) (b : SrcB) (s : State) : Host.Outcome State Fault Refusal :=
  vector2 h d a b laneMul s
/-- R201 `vmad`. -/
def execVmad (h : Hints) (d a b c : Opnd) (s : State) : Host.Outcome State Fault Refusal :=
  vector3 h d a b c laneMad s
/-- R201 `vand`. -/
def execVand (h : Hints) (d a : Opnd) (b : SrcB) (s : State) : Host.Outcome State Fault Refusal :=
  vector2 h d a b laneAnd s
/-- R201 `vor`. -/
def execVor (h : Hints) (d a : Opnd) (b : SrcB) (s : State) : Host.Outcome State Fault Refusal :=
  vector2 h d a b laneOr s
/-- R201 `vxor`. -/
def execVxor (h : Hints) (d a : Opnd) (b : SrcB) (s : State) : Host.Outcome State Fault Refusal :=
  vector2 h d a b laneXor s
/-- R201 `vshl`. -/
def execVshl (h : Hints) (d a : Opnd) (b : SrcB) (s : State) : Host.Outcome State Fault Refusal :=
  vector2 h d a b laneShl s
/-- R201 `vshr`. -/
def execVshr (h : Hints) (d a : Opnd) (b : SrcB) (s : State) : Host.Outcome State Fault Refusal :=
  vector2 h d a b laneShr s
/-- R201 `vsar`. -/
def execVsar (h : Hints) (d a : Opnd) (b : SrcB) (s : State) : Host.Outcome State Fault Refusal :=
  vector2 h d a b laneSar s
/-- R201 `vmin`. -/
def execVmin (h : Hints) (lt : Bool) (d a : Opnd) (b : SrcB) (s : State) : Host.Outcome State Fault Refusal :=
  vector2 h d a b (laneMin lt) s
/-- R201 `vmax`. -/
def execVmax (h : Hints) (lt : Bool) (d a : Opnd) (b : SrcB) (s : State) : Host.Outcome State Fault Refusal :=
  vector2 h d a b (laneMax lt) s
/-- R201 `vcmp`. -/
def execVcmp (h : Hints) (lt : Bool) (cond : BitVec 4) (d a : Opnd) (b : SrcB) (s : State) :
    Host.Outcome State Fault Refusal :=
  vector2 h d a b (lanes2 (fun x y => laneTrue (condHolds cond.toNat (laneInt lt x) (laneInt lt y)))) s
/-- R201 `vsel`. -/
def execVsel (h : Hints) (d a b c : Opnd) (s : State) : Host.Outcome State Fault Refusal :=
  vector3 h d a b c (lanes3 (fun x y z => if z ≠ 0 then x else y)) s

/-- R202 `vbcast`. -/
def execVbcast (h : Hints) (d a : Opnd) (s : State) : Host.Outcome State Fault Refusal :=
  runWord (vectorReq h 5 [fieldD .vw d, fieldA .g a]) (do
    let x ← readG 1 a
    writeV d (List.replicate 16 (lowPattern x))
    return .seq) s

/-- R202 `vext`. -/
def execVext (h : Hints) (lt : Bool) (d a : Opnd) (b : SrcB) (s : State) : Host.Outcome State Fault Refusal :=
  runWord (vectorReq h 5 (fieldD .gw d :: fieldA .v a :: fieldSrc .g b)) (do
    let x ← readV 1 a
    let y ← readB b
    writeG d (extendLane lt (nth x (y.toNat % 16)))
    return .seq) s

/-- R202 `vins`: D is read after A and B, as a further source (R111). -/
def execVins (h : Hints) (d a : Opnd) (b : SrcB) (s : State) : Host.Outcome State Fault Refusal :=
  runWord (vectorReq h 5 (fieldD .vrw d :: fieldA .g a :: fieldSrc .g b)) (do
    let x ← readG 1 a
    let y ← readB b
    let z ← readV 0 d
    writeV d (z.set (y.toNat % 16) (lowPattern x))
    return .seq) s

/-- R202 `vperm`. -/
def execVperm (h : Hints) (d a b : Opnd) (s : State) : Host.Outcome State Fault Refusal :=
  vector2 h d a (.fld b) lanePerm s

/-- R203 `vredadd`. -/
def execVredadd (h : Hints) (lt : Bool) (d a : Opnd) (s : State) : Host.Outcome State Fault Refusal :=
  reduceTo h lt d a (fun ls => ls.sum % 2 ^ 32) s
/-- R203 `vredmin`. -/
def execVredmin (h : Hints) (lt : Bool) (d a : Opnd) (s : State) : Host.Outcome State Fault Refusal :=
  reduceTo h lt d a (fun ls => ls.foldl (if lt then valMinn 32 else valMin 32) (nth ls 0)) s
/-- R203 `vredmax`. -/
def execVredmax (h : Hints) (lt : Bool) (d a : Opnd) (s : State) : Host.Outcome State Fault Refusal :=
  reduceTo h lt d a (fun ls => ls.foldl (if lt then valMaxn 32 else valMax 32) (nth ls 0)) s

/-- R203 `vscan`. -/
def execVscan (h : Hints) (ex : Bool) (d a : Opnd) (s : State) : Host.Outcome State Fault Refusal :=
  runWord (vectorReq h 5 [fieldD .vw d, fieldA .v a]) (do
    let x ← readV 1 a
    writeV d (laneScan ex x)
    return .seq) s

/-- R202 `viota`. -/
def execViota (h : Hints) (d a : Opnd) (b : SrcB) (s : State) : Host.Outcome State Fault Refusal :=
  runWord (vectorReq h 5 (fieldD .vw d :: fieldA .g a :: fieldSrc .g b)) (do
    let x ← readG 1 a
    let y ← readB b
    writeV d ((List.range 16).map (fun l => (lowPattern x + l * lowPattern y) % 2 ^ 32))
    return .seq) s

/-! ## Meanings of group 0x6 -/

/-- A binary32 word with two vector sources (R205). `op` takes the random word, the logical core, and a lane of
each source. -/
def vfloat2 (h : Hints) (d a : Opnd) (b : SrcB) (op : Nat → Nat → Nat → Nat → FRes) (s : State) :
    Host.Outcome State Fault Refusal :=
  runWord (vectorReq h 6 (fieldD .vw d :: fieldA .v a :: fieldSrc .v b)) (do
    let x ← readV 1 a
    let y ← readVB b
    let e ← floatEnv
    let r := floatLanes2 (fun l => op (e.1 l) e.2) x y
    writeV d r.1
    setFlags r.2
    return .seq) s

/-- A binary32 word with one vector source (R210, R211). -/
def vfloat1 (h : Hints) (d a : Opnd) (op : Nat → Nat → Nat → FRes) (s : State) :
    Host.Outcome State Fault Refusal :=
  runWord (vectorReq h 6 [fieldD .vw d, fieldA .v a]) (do
    let x ← readV 1 a
    let e ← floatEnv
    let r := floatLanes (fun l => op (e.1 l) e.2) x
    writeV d r.1
    setFlags r.2
    return .seq) s

/-- R205 `vfadd`. -/
def execVfadd (h : Hints) (rnd : BitVec 3) (d a : Opnd) (b : SrcB) (s : State) :
    Host.Outcome State Fault Refusal := vfloat2 h d a b (fAdd rnd.toNat) s
/-- R205 `vfsub`. -/
def execVfsub (h : Hints) (rnd : BitVec 3) (d a : Opnd) (b : SrcB) (s : State) :
    Host.Outcome State Fault Refusal := vfloat2 h d a b (fSub rnd.toNat) s
/-- R205 `vfmul`. -/
def execVfmul (h : Hints) (rnd : BitVec 3) (d a : Opnd) (b : SrcB) (s : State) :
    Host.Outcome State Fault Refusal := vfloat2 h d a b (fMul rnd.toNat) s

/-- R205 `vffma`. -/
def execVffma (h : Hints) (rnd : BitVec 3) (d a b c : Opnd) (s : State) : Host.Outcome State Fault Refusal :=
  runWord (vectorReq h 6 [fieldD .vw d, fieldA .v a, fieldB .v b, fieldC .v c]) (do
    let x ← readV 1 a
    let y ← readV 2 b
    let z ← readV 0xA c
    let e ← floatEnv
    let r := floatLanes3 (fun l => fFma rnd.toNat (e.1 l) e.2) x y z
    writeV d r.1
    setFlags r.2
    return .seq) s

/-- R205 `vfmin`; the rounding field has no effect (R204). -/
def execVfmin (h : Hints) (p : Bool) (_rnd : BitVec 3) (d a : Opnd) (b : SrcB) (s : State) :
    Host.Outcome State Fault Refusal := vfloat2 h d a b (fun _ => fMinMax false p) s
/-- R205 `vfmax`; the rounding field has no effect (R204). -/
def execVfmax (h : Hints) (p : Bool) (_rnd : BitVec 3) (d a : Opnd) (b : SrcB) (s : State) :
    Host.Outcome State Fault Refusal := vfloat2 h d a b (fun _ => fMinMax true p) s
/-- R206 `vfcmp`. -/
def execVfcmp (h : Hints) (cond : BitVec 4) (d a : Opnd) (b : SrcB) (s : State) :
    Host.Outcome State Fault Refusal :=
  vfloat2 h d a b (fun _ _ x y => (laneTrue (fCmp cond.toNat x y).1, (fCmp cond.toNat x y).2)) s
/-- R205 `vfscale`. -/
def execVfscale (h : Hints) (rnd : BitVec 3) (d a : Opnd) (b : SrcB) (s : State) :
    Host.Outcome State Fault Refusal := vfloat2 h d a b (fScale rnd.toNat) s
/-- R210 `vfex2`. -/
def execVfex2 (h : Hints) (rnd : BitVec 3) (d a : Opnd) (s : State) :
    Host.Outcome State Fault Refusal := vfloat1 h d a (fEx2 rnd.toNat) s
/-- R211 `vfrsq`. -/
def execVfrsq (h : Hints) (rnd : BitVec 3) (d a : Opnd) (s : State) :
    Host.Outcome State Fault Refusal := vfloat1 h d a (fRsq rnd.toNat) s

/-- One step of `vfred` (R207): 0 sum, 1 least, 2 greatest. -/
def reduceStep (op mode rnd cid x y : Nat) : FRes :=
  if op = 0 then fAdd mode rnd cid x y else fMinMax (op == 2) false cid x y

/-- The steps of `vfred` in lane order (R207). -/
def reduceFloat (op mode cid : Nat) (rnd : Nat → Nat) : List (Nat × Nat) → FRes → FRes
  | [], r => r
  | (x, l) :: xs, r =>
    let q := reduceStep op mode (rnd l) cid r.1 x
    reduceFloat op mode cid rnd xs (q.1, r.2 ||| q.2)

/-- R207 `vfred`. -/
def execVfred (h : Hints) (op : BitVec 4) (rnd : BitVec 3) (d a : Opnd) (s : State) :
    Host.Outcome State Fault Refusal :=
  runWord (vectorReq h 6 [fieldD .grw d, fieldA .v a]) (do
    let x ← readV 1 a
    let z ← readG 0 d
    let e ← floatEnv
    writePattern d (reduceFloat op.toNat rnd.toNat e.2 e.1 x.zipIdx (lowPattern z, 0))
    return .seq) s

/-- R208 `vfcvt`. -/
def execVfcvt (h : Hints) (rnd : BitVec 3) (d a : Opnd) (src dst : BitVec 5) (s : State) :
    Host.Outcome State Fault Refusal :=
  runWord (vectorReq h 6 [fieldD .vw d, fieldA .v a]) (do
    let x ← readV 1 a
    let e ← floatEnv
    let r := floatLanes (fun l v =>
      let c := convertKind rnd.toNat (e.1 l) (nanPayload e.2 0) src.toNat dst.toNat 0 0 v
      (extendKind src.toNat dst.toNat 32 v c.code, c.flags)) x
    writeV d r.1
    setFlags r.2
    return .seq) s

/-- Byte `j` of 512 bits (R209). -/
def byteOf (x j : Nat) : Nat := Nat.field x (8 * j) 8

/-- The E8M0 scale of `vfpack` and `vfunpk`: 1.0 without one (R209). -/
def readScale (sc : Bool) (b : Opnd) : M (Option Int) := do
  if sc then return scaleExp ((← readG 2 b).toNat % 256) else return some 0

/-- The fields of `vfpack` and `vfunpk`: B is an operand only with a scale (R204). -/
def scaleField (sc : Bool) (b : Opnd) : List Field := if sc then [fieldB .g b] else []

/-- R209 `vfunpk`. -/
def execVfunpk (h : Hints) (rnd : BitVec 3) (d a b : Opnd) (fcode : BitVec 4) (sel : BitVec 2) (sc : Bool)
    (s : State) : Host.Outcome State Fault Refusal :=
  runWord (vectorReq h 6 (fieldD .vw d :: fieldA .v a :: scaleField sc b)) (do
    checkEntry fcode.toNat
    let x ← readVBits 1 a
    let k ← readScale sc b
    let c ← get
    let e ← floatEnv
    let f := fmtOfEntry (formatEntry c.s c.f.jid fcode.toNat)
    let pay := nanPayload e.2 0
    let r := floatLanes (fun l _ =>
      let j := 16 * sel.toNat + l
      roundF32 rnd.toNat (e.1 j) (plainNan (scaleNum (decodeNarrow f pay (byteOf x j)) k pay))) (List.range 16)
    writeV d r.1
    setFlags r.2
    return .seq) s

/-- Byte `j` of 512 bits replaced. -/
def setByte (x j b : Nat) : Nat := x - byteOf x j * 2 ^ (8 * j) + b % 256 * 2 ^ (8 * j)

/-- R209 `vfpack`: D is read after A and B, as a further source (R111). -/
def execVfpack (h : Hints) (rnd : BitVec 3) (d a b : Opnd) (fcode : BitVec 4) (sel : BitVec 2) (sc cnt : Bool)
    (acc : BitVec 2) (s : State) : Host.Outcome State Fault Refusal :=
  runWord { vectorReq h 6 (fieldD .vrw d :: fieldA .v a :: scaleField sc b) with
              feats := if cnt then [0, 1] else [1] } (do
    checkEntry fcode.toNat
    let x ← readV 1 a
    let k ← readScale sc b
    let z ← readVBits 0 d
    let c ← get
    let e ← floatEnv
    let f := fmtOfEntry (formatEntry c.s c.f.jid fcode.toNat)
    let pay := nanPayload e.2 0
    let cs := x.zipIdx.map (fun v =>
      convert rnd.toNat (.float f) (e.1 (16 * sel.toNat + v.2)) (scaleNum (f32 v.1) (k.map (fun n => -n)) pay))
    if cnt then waitSet
    writeV d (lanesOf (cs.zipIdx.foldl (fun acc v => setByte acc (16 * sel.toNat + v.2) v.1.code) z))
    setFlags (cs.foldl (fun f v => f ||| v.flags) 0)
    countConversions cnt acc.toNat cs
    return .seq) s

end Sys2Proof.Machine
end

