-- ==== Sys2Proof/Machine/PForm.lean ====
section
/-! DEFINITION. P-form words (R106 to R109, R212): a scalar half and a vector half under one guard. -/

namespace Sys2Proof.Machine

/-! ## Halves -/

/-- A scalar half: from its sources A, B and old D, 64-bit, its result and the flags it sets (R107). -/
abbrev ScalarOp := Nat → Nat → Nat → Nat × BitVec 7

/-- A vector half: from the random words and the logical core, and the lanes of its sources A, B and C, its
lanes and the flags it sets (R108). -/
abbrev VectorOp := (Nat → Nat) × Nat → List Nat → List Nat → List Nat → List Nat × BitVec 7

/-- A scalar half with two sources. -/
def two (val : Nat → Nat → Nat → Nat × BitVec 7) : ScalarOp := fun x y _ => val 64 x y

/-- A scalar half with one source. -/
def one (val : Nat → Nat → Nat) : ScalarOp := fun x _ _ => (val 64 x, 0)

/-- The scalar half `mad`. -/
def sumProduct : ScalarOp := fun x y z => ((z + x * y) % 2 ^ 64, 0)

/-- An integer vector half with two sources. -/
def ints (op : List Nat → List Nat → List Nat) : VectorOp := fun _ as bs _ => (op as bs, 0)

/-- An integer vector half with three sources. -/
def ints3 (op : List Nat → List Nat → List Nat → List Nat) : VectorOp := fun _ as bs cs => (op as bs cs, 0)

/-- A binary32 vector half with one source. -/
def floats1 (op : Nat → Nat → Nat → FRes) : VectorOp := fun e as _ _ => floatLanes (fun l => op (e.1 l) e.2) as

/-- A binary32 vector half with two sources. -/
def floats2 (op : Nat → Nat → Nat → Nat → FRes) : VectorOp :=
  fun e as bs _ => floatLanes2 (fun l => op (e.1 l) e.2) as bs

/-- A binary32 vector half with three sources. -/
def floats3 (op : Nat → Nat → Nat → Nat → Nat → FRes) : VectorOp :=
  fun e as bs cs => floatLanes3 (fun l => op (e.1 l) e.2) as bs cs

/-- The scalar half of a SOP value (R107). -/
def scalarHalf (sop : Nat) : ScalarOp :=
  match sop with
  | 0 => two (noFlag valAdd)
  | 1 => two (noFlag valSub)
  | 2 => two (noFlag valMul)
  | 3 => two (noFlag valMulh)
  | 4 => two (noFlag valMulhn)
  | 5 => two valDiv
  | 6 => two valDivn
  | 7 => two valRem
  | 8 => two valRemn
  | 9 => two (noFlag valAnd)
  | 10 => two (noFlag valOr)
  | 11 => two (noFlag valXor)
  | 12 => two (noFlag valAndn)
  | 13 => two (noFlag valOrn)
  | 14 => two (noFlag valShl)
  | 15 => two (noFlag valShr)
  | 16 => two (noFlag valSar)
  | 17 => two (noFlag valRol)
  | 18 => two (noFlag valMin)
  | 19 => two (noFlag valMax)
  | 20 => two (noFlag valMinn)
  | 21 => two (noFlag valMaxn)
  | 22 => one valClz
  | 23 => one valCtz
  | 24 => one valPopc
  | 25 => one valBrev
  | 26 => one valBswap
  | 30 => one (fun _ x => x)
  | _ => sumProduct

/-- The vector half of a VOP value, with TY and RM (R108, R212). -/
def vectorHalf (vop : Nat) (ty rm : Nat) : VectorOp :=
  match vop with
  | 0x00 => ints laneAdd
  | 0x01 => ints laneSub
  | 0x02 => ints laneMul
  | 0x03 => ints3 laneMad
  | 0x04 => ints laneAnd
  | 0x05 => ints laneOr
  | 0x06 => ints laneXor
  | 0x07 => ints laneShl
  | 0x08 => ints laneShr
  | 0x09 => ints laneSar
  | 0x0A => ints (laneMin (ty == 1))
  | 0x0B => ints (laneMax (ty == 1))
  | 0x11 => ints lanePerm
  | 0x15 => ints (fun as _ => laneScan false as)
  | 0x40 => floats2 (fAdd rm)
  | 0x41 => floats2 (fSub rm)
  | 0x42 => floats2 (fMul rm)
  | 0x43 => floats3 (fFma rm)
  | 0x44 => floats2 (fun _ => fMinMax false (ty == 1))
  | 0x45 => floats2 (fun _ => fMinMax true (ty == 1))
  | 0x4B => floats2 (fScale rm)
  | 0x4C => floats1 (fEx2 rm)
  | _ => floats1 (fRsq rm)

/-- The value of a 5-bit vector field in the operand space. -/
def vectorField (v : BitVec 5) : Opnd := BitVec.ofNat 9 (0x80 + v.toNat)

/-- The fields of both halves, in the order of R99. -/
def pairFields (x : SHalf) (v : VHalf) : List Field :=
  let n := vopSources v.vop.toNat
  { pos := 3, kind := if x.sop = 34 then .grw else .gw, value := x.sd.setWidth 9 }
    :: { pos := 4, kind := .g, value := x.sa.setWidth 9 }
    :: (if sopOne x.sop.toNat then [] else [{ pos := 5, kind := .g, value := x.sb }])
    ++ { pos := 6, kind := .vw, value := vectorField v.vd }
    :: { pos := 7, kind := .v, value := vectorField v.va }
    :: (if 2 ≤ n then [{ pos := 8, kind := .v, value := vectorField v.vb }] else [])
    ++ (if 3 ≤ n then [{ pos := 9, kind := .v, value := vectorField v.vc }] else [])

/-- A P-form word: both halves read all their operands before either writes (R109). The scalar half raises DZ before it
writes SD, as its A-form does (R107, R139), and the flags of the vector half come after (log entry 100, DESIGN CHOICE:
R109 does not order them and a scalar half that writes `fst`). -/
def pairWord (h : Hints) (x : SHalf) (v : VHalf) (sop : ScalarOp) (vop : VectorOp) (s : State) :
    Host.Outcome State Fault Refusal :=
  runWord (vectorReq h 5 (pairFields x v)) (do
    let n := vopSources v.vop.toNat
    let a ← readG 4 (x.sa.setWidth 9)
    let b ← if sopOne x.sop.toNat then pure 0 else readG 5 x.sb
    let d ← if x.sop = 34 then readG 3 (x.sd.setWidth 9) else pure 0
    let va ← readV 7 (vectorField v.va)
    let vb ← if 2 ≤ n then readV 8 (vectorField v.vb) else pure []
    let vc ← if 3 ≤ n then readV 9 (vectorField v.vc) else pure []
    let r := sop a.toNat b.toNat d.toNat
    let q := vop (← floatEnv) va vb vc
    raiseNow r.2
    writeG (x.sd.setWidth 9) (BitVec.ofNat 64 r.1)
    writeV (vectorField v.vd) q.1
    setFlags q.2
    return .seq) s

/-! ## Meanings, by the scalar half -/

/-- R107: the P-form word with scalar half `add`. -/
def execAddPform (h : Hints) (sd sa : BitVec 8) (sb : Opnd) (v : VHalf) (s : State) :
    Host.Outcome State Fault Refusal :=
  pairWord h { sop := 0, sd := sd, sa := sa, sb := sb } v (two (noFlag valAdd))
    (vectorHalf v.vop.toNat v.ty.toNat v.rm.toNat) s
/-- R107: the P-form word with scalar half `sub`. -/
def execSubPform (h : Hints) (sd sa : BitVec 8) (sb : Opnd) (v : VHalf) (s : State) :
    Host.Outcome State Fault Refusal :=
  pairWord h { sop := 1, sd := sd, sa := sa, sb := sb } v (two (noFlag valSub))
    (vectorHalf v.vop.toNat v.ty.toNat v.rm.toNat) s
/-- R107: the P-form word with scalar half `mul`. -/
def execMulPform (h : Hints) (sd sa : BitVec 8) (sb : Opnd) (v : VHalf) (s : State) :
    Host.Outcome State Fault Refusal :=
  pairWord h { sop := 2, sd := sd, sa := sa, sb := sb } v (two (noFlag valMul))
    (vectorHalf v.vop.toNat v.ty.toNat v.rm.toNat) s
/-- R107: the P-form word with scalar half `mulh`. -/
def execMulhPform (h : Hints) (sd sa : BitVec 8) (sb : Opnd) (v : VHalf) (s : State) :
    Host.Outcome State Fault Refusal :=
  pairWord h { sop := 3, sd := sd, sa := sa, sb := sb } v (two (noFlag valMulh))
    (vectorHalf v.vop.toNat v.ty.toNat v.rm.toNat) s
/-- R107: the P-form word with scalar half `mulhn`. -/
def execMulhnPform (h : Hints) (sd sa : BitVec 8) (sb : Opnd) (v : VHalf) (s : State) :
    Host.Outcome State Fault Refusal :=
  pairWord h { sop := 4, sd := sd, sa := sa, sb := sb } v (two (noFlag valMulhn))
    (vectorHalf v.vop.toNat v.ty.toNat v.rm.toNat) s
/-- R107: the P-form word with scalar half `div`. -/
def execDivPform (h : Hints) (sd sa : BitVec 8) (sb : Opnd) (v : VHalf) (s : State) :
    Host.Outcome State Fault Refusal :=
  pairWord h { sop := 5, sd := sd, sa := sa, sb := sb } v (two valDiv)
    (vectorHalf v.vop.toNat v.ty.toNat v.rm.toNat) s
/-- R107: the P-form word with scalar half `divn`. -/
def execDivnPform (h : Hints) (sd sa : BitVec 8) (sb : Opnd) (v : VHalf) (s : State) :
    Host.Outcome State Fault Refusal :=
  pairWord h { sop := 6, sd := sd, sa := sa, sb := sb } v (two valDivn)
    (vectorHalf v.vop.toNat v.ty.toNat v.rm.toNat) s
/-- R107: the P-form word with scalar half `rem`. -/
def execRemPform (h : Hints) (sd sa : BitVec 8) (sb : Opnd) (v : VHalf) (s : State) :
    Host.Outcome State Fault Refusal :=
  pairWord h { sop := 7, sd := sd, sa := sa, sb := sb } v (two valRem)
    (vectorHalf v.vop.toNat v.ty.toNat v.rm.toNat) s
/-- R107: the P-form word with scalar half `remn`. -/
def execRemnPform (h : Hints) (sd sa : BitVec 8) (sb : Opnd) (v : VHalf) (s : State) :
    Host.Outcome State Fault Refusal :=
  pairWord h { sop := 8, sd := sd, sa := sa, sb := sb } v (two valRemn)
    (vectorHalf v.vop.toNat v.ty.toNat v.rm.toNat) s
/-- R107: the P-form word with scalar half `and`. -/
def execAndPform (h : Hints) (sd sa : BitVec 8) (sb : Opnd) (v : VHalf) (s : State) :
    Host.Outcome State Fault Refusal :=
  pairWord h { sop := 9, sd := sd, sa := sa, sb := sb } v (two (noFlag valAnd))
    (vectorHalf v.vop.toNat v.ty.toNat v.rm.toNat) s
/-- R107: the P-form word with scalar half `or`. -/
def execOrPform (h : Hints) (sd sa : BitVec 8) (sb : Opnd) (v : VHalf) (s : State) :
    Host.Outcome State Fault Refusal :=
  pairWord h { sop := 10, sd := sd, sa := sa, sb := sb } v (two (noFlag valOr))
    (vectorHalf v.vop.toNat v.ty.toNat v.rm.toNat) s
/-- R107: the P-form word with scalar half `xor`. -/
def execXorPform (h : Hints) (sd sa : BitVec 8) (sb : Opnd) (v : VHalf) (s : State) :
    Host.Outcome State Fault Refusal :=
  pairWord h { sop := 11, sd := sd, sa := sa, sb := sb } v (two (noFlag valXor))
    (vectorHalf v.vop.toNat v.ty.toNat v.rm.toNat) s
/-- R107: the P-form word with scalar half `andn`. -/
def execAndnPform (h : Hints) (sd sa : BitVec 8) (sb : Opnd) (v : VHalf) (s : State) :
    Host.Outcome State Fault Refusal :=
  pairWord h { sop := 12, sd := sd, sa := sa, sb := sb } v (two (noFlag valAndn))
    (vectorHalf v.vop.toNat v.ty.toNat v.rm.toNat) s
/-- R107: the P-form word with scalar half `orn`. -/
def execOrnPform (h : Hints) (sd sa : BitVec 8) (sb : Opnd) (v : VHalf) (s : State) :
    Host.Outcome State Fault Refusal :=
  pairWord h { sop := 13, sd := sd, sa := sa, sb := sb } v (two (noFlag valOrn))
    (vectorHalf v.vop.toNat v.ty.toNat v.rm.toNat) s
/-- R107: the P-form word with scalar half `shl`. -/
def execShlPform (h : Hints) (sd sa : BitVec 8) (sb : Opnd) (v : VHalf) (s : State) :
    Host.Outcome State Fault Refusal :=
  pairWord h { sop := 14, sd := sd, sa := sa, sb := sb } v (two (noFlag valShl))
    (vectorHalf v.vop.toNat v.ty.toNat v.rm.toNat) s
/-- R107: the P-form word with scalar half `shr`. -/
def execShrPform (h : Hints) (sd sa : BitVec 8) (sb : Opnd) (v : VHalf) (s : State) :
    Host.Outcome State Fault Refusal :=
  pairWord h { sop := 15, sd := sd, sa := sa, sb := sb } v (two (noFlag valShr))
    (vectorHalf v.vop.toNat v.ty.toNat v.rm.toNat) s
/-- R107: the P-form word with scalar half `sar`. -/
def execSarPform (h : Hints) (sd sa : BitVec 8) (sb : Opnd) (v : VHalf) (s : State) :
    Host.Outcome State Fault Refusal :=
  pairWord h { sop := 16, sd := sd, sa := sa, sb := sb } v (two (noFlag valSar))
    (vectorHalf v.vop.toNat v.ty.toNat v.rm.toNat) s
/-- R107: the P-form word with scalar half `rol`. -/
def execRolPform (h : Hints) (sd sa : BitVec 8) (sb : Opnd) (v : VHalf) (s : State) :
    Host.Outcome State Fault Refusal :=
  pairWord h { sop := 17, sd := sd, sa := sa, sb := sb } v (two (noFlag valRol))
    (vectorHalf v.vop.toNat v.ty.toNat v.rm.toNat) s
/-- R107: the P-form word with scalar half `min`. -/
def execMinPform (h : Hints) (sd sa : BitVec 8) (sb : Opnd) (v : VHalf) (s : State) :
    Host.Outcome State Fault Refusal :=
  pairWord h { sop := 18, sd := sd, sa := sa, sb := sb } v (two (noFlag valMin))
    (vectorHalf v.vop.toNat v.ty.toNat v.rm.toNat) s
/-- R107: the P-form word with scalar half `max`. -/
def execMaxPform (h : Hints) (sd sa : BitVec 8) (sb : Opnd) (v : VHalf) (s : State) :
    Host.Outcome State Fault Refusal :=
  pairWord h { sop := 19, sd := sd, sa := sa, sb := sb } v (two (noFlag valMax))
    (vectorHalf v.vop.toNat v.ty.toNat v.rm.toNat) s
/-- R107: the P-form word with scalar half `minn`. -/
def execMinnPform (h : Hints) (sd sa : BitVec 8) (sb : Opnd) (v : VHalf) (s : State) :
    Host.Outcome State Fault Refusal :=
  pairWord h { sop := 20, sd := sd, sa := sa, sb := sb } v (two (noFlag valMinn))
    (vectorHalf v.vop.toNat v.ty.toNat v.rm.toNat) s
/-- R107: the P-form word with scalar half `maxn`. -/
def execMaxnPform (h : Hints) (sd sa : BitVec 8) (sb : Opnd) (v : VHalf) (s : State) :
    Host.Outcome State Fault Refusal :=
  pairWord h { sop := 21, sd := sd, sa := sa, sb := sb } v (two (noFlag valMaxn))
    (vectorHalf v.vop.toNat v.ty.toNat v.rm.toNat) s
/-- R107: the P-form word with scalar half `clz`. -/
def execClzPform (h : Hints) (sd sa : BitVec 8) (sb : Opnd) (v : VHalf) (s : State) :
    Host.Outcome State Fault Refusal :=
  pairWord h { sop := 22, sd := sd, sa := sa, sb := sb } v (one valClz)
    (vectorHalf v.vop.toNat v.ty.toNat v.rm.toNat) s
/-- R107: the P-form word with scalar half `ctz`. -/
def execCtzPform (h : Hints) (sd sa : BitVec 8) (sb : Opnd) (v : VHalf) (s : State) :
    Host.Outcome State Fault Refusal :=
  pairWord h { sop := 23, sd := sd, sa := sa, sb := sb } v (one valCtz)
    (vectorHalf v.vop.toNat v.ty.toNat v.rm.toNat) s
/-- R107: the P-form word with scalar half `popc`. -/
def execPopcPform (h : Hints) (sd sa : BitVec 8) (sb : Opnd) (v : VHalf) (s : State) :
    Host.Outcome State Fault Refusal :=
  pairWord h { sop := 24, sd := sd, sa := sa, sb := sb } v (one valPopc)
    (vectorHalf v.vop.toNat v.ty.toNat v.rm.toNat) s
/-- R107: the P-form word with scalar half `brev`. -/
def execBrevPform (h : Hints) (sd sa : BitVec 8) (sb : Opnd) (v : VHalf) (s : State) :
    Host.Outcome State Fault Refusal :=
  pairWord h { sop := 25, sd := sd, sa := sa, sb := sb } v (one valBrev)
    (vectorHalf v.vop.toNat v.ty.toNat v.rm.toNat) s
/-- R107: the P-form word with scalar half `bswap`. -/
def execBswapPform (h : Hints) (sd sa : BitVec 8) (sb : Opnd) (v : VHalf) (s : State) :
    Host.Outcome State Fault Refusal :=
  pairWord h { sop := 26, sd := sd, sa := sa, sb := sb } v (one valBswap)
    (vectorHalf v.vop.toNat v.ty.toNat v.rm.toNat) s
/-- R107: the P-form word with scalar half `mov`. -/
def execMovPform (h : Hints) (sd sa : BitVec 8) (sb : Opnd) (v : VHalf) (s : State) :
    Host.Outcome State Fault Refusal :=
  pairWord h { sop := 30, sd := sd, sa := sa, sb := sb } v (one (fun _ x => x))
    (vectorHalf v.vop.toNat v.ty.toNat v.rm.toNat) s
/-- R107: the P-form word with scalar half `mad`. -/
def execMadPform (h : Hints) (sd sa : BitVec 8) (sb : Opnd) (v : VHalf) (s : State) :
    Host.Outcome State Fault Refusal :=
  pairWord h { sop := 34, sd := sd, sa := sa, sb := sb } v sumProduct
    (vectorHalf v.vop.toNat v.ty.toNat v.rm.toNat) s

/-! ## Meanings, by the vector half -/

/-- R108: the P-form word with vector half `vadd`. -/
def execVaddPform (h : Hints) (vd va vb vc : BitVec 5) (ty : BitVec 4) (rm : BitVec 2) (x : SHalf) (s : State) :
    Host.Outcome State Fault Refusal :=
  pairWord h x { vop := 0x00, vd := vd, va := va, vb := vb, vc := vc, ty := ty, rm := rm }
    (scalarHalf x.sop.toNat) (ints laneAdd) s
/-- R108: the P-form word with vector half `vsub`. -/
def execVsubPform (h : Hints) (vd va vb vc : BitVec 5) (ty : BitVec 4) (rm : BitVec 2) (x : SHalf) (s : State) :
    Host.Outcome State Fault Refusal :=
  pairWord h x { vop := 0x01, vd := vd, va := va, vb := vb, vc := vc, ty := ty, rm := rm }
    (scalarHalf x.sop.toNat) (ints laneSub) s
/-- R108: the P-form word with vector half `vmul`. -/
def execVmulPform (h : Hints) (vd va vb vc : BitVec 5) (ty : BitVec 4) (rm : BitVec 2) (x : SHalf) (s : State) :
    Host.Outcome State Fault Refusal :=
  pairWord h x { vop := 0x02, vd := vd, va := va, vb := vb, vc := vc, ty := ty, rm := rm }
    (scalarHalf x.sop.toNat) (ints laneMul) s
/-- R108: the P-form word with vector half `vmad`. -/
def execVmadPform (h : Hints) (vd va vb vc : BitVec 5) (ty : BitVec 4) (rm : BitVec 2) (x : SHalf) (s : State) :
    Host.Outcome State Fault Refusal :=
  pairWord h x { vop := 0x03, vd := vd, va := va, vb := vb, vc := vc, ty := ty, rm := rm }
    (scalarHalf x.sop.toNat) (ints3 laneMad) s
/-- R108: the P-form word with vector half `vand`. -/
def execVandPform (h : Hints) (vd va vb vc : BitVec 5) (ty : BitVec 4) (rm : BitVec 2) (x : SHalf) (s : State) :
    Host.Outcome State Fault Refusal :=
  pairWord h x { vop := 0x04, vd := vd, va := va, vb := vb, vc := vc, ty := ty, rm := rm }
    (scalarHalf x.sop.toNat) (ints laneAnd) s
/-- R108: the P-form word with vector half `vor`. -/
def execVorPform (h : Hints) (vd va vb vc : BitVec 5) (ty : BitVec 4) (rm : BitVec 2) (x : SHalf) (s : State) :
    Host.Outcome State Fault Refusal :=
  pairWord h x { vop := 0x05, vd := vd, va := va, vb := vb, vc := vc, ty := ty, rm := rm }
    (scalarHalf x.sop.toNat) (ints laneOr) s
/-- R108: the P-form word with vector half `vxor`. -/
def execVxorPform (h : Hints) (vd va vb vc : BitVec 5) (ty : BitVec 4) (rm : BitVec 2) (x : SHalf) (s : State) :
    Host.Outcome State Fault Refusal :=
  pairWord h x { vop := 0x06, vd := vd, va := va, vb := vb, vc := vc, ty := ty, rm := rm }
    (scalarHalf x.sop.toNat) (ints laneXor) s
/-- R108: the P-form word with vector half `vshl`. -/
def execVshlPform (h : Hints) (vd va vb vc : BitVec 5) (ty : BitVec 4) (rm : BitVec 2) (x : SHalf) (s : State) :
    Host.Outcome State Fault Refusal :=
  pairWord h x { vop := 0x07, vd := vd, va := va, vb := vb, vc := vc, ty := ty, rm := rm }
    (scalarHalf x.sop.toNat) (ints laneShl) s
/-- R108: the P-form word with vector half `vshr`. -/
def execVshrPform (h : Hints) (vd va vb vc : BitVec 5) (ty : BitVec 4) (rm : BitVec 2) (x : SHalf) (s : State) :
    Host.Outcome State Fault Refusal :=
  pairWord h x { vop := 0x08, vd := vd, va := va, vb := vb, vc := vc, ty := ty, rm := rm }
    (scalarHalf x.sop.toNat) (ints laneShr) s
/-- R108: the P-form word with vector half `vsar`. -/
def execVsarPform (h : Hints) (vd va vb vc : BitVec 5) (ty : BitVec 4) (rm : BitVec 2) (x : SHalf) (s : State) :
    Host.Outcome State Fault Refusal :=
  pairWord h x { vop := 0x09, vd := vd, va := va, vb := vb, vc := vc, ty := ty, rm := rm }
    (scalarHalf x.sop.toNat) (ints laneSar) s
/-- R108: the P-form word with vector half `vmin`. -/
def execVminPform (h : Hints) (vd va vb vc : BitVec 5) (ty : BitVec 4) (rm : BitVec 2) (x : SHalf) (s : State) :
    Host.Outcome State Fault Refusal :=
  pairWord h x { vop := 0x0A, vd := vd, va := va, vb := vb, vc := vc, ty := ty, rm := rm }
    (scalarHalf x.sop.toNat) (ints (laneMin (ty == 1))) s
/-- R108: the P-form word with vector half `vmax`. -/
def execVmaxPform (h : Hints) (vd va vb vc : BitVec 5) (ty : BitVec 4) (rm : BitVec 2) (x : SHalf) (s : State) :
    Host.Outcome State Fault Refusal :=
  pairWord h x { vop := 0x0B, vd := vd, va := va, vb := vb, vc := vc, ty := ty, rm := rm }
    (scalarHalf x.sop.toNat) (ints (laneMax (ty == 1))) s
/-- R108: the P-form word with vector half `vperm`. -/
def execVpermPform (h : Hints) (vd va vb vc : BitVec 5) (ty : BitVec 4) (rm : BitVec 2) (x : SHalf) (s : State) :
    Host.Outcome State Fault Refusal :=
  pairWord h x { vop := 0x11, vd := vd, va := va, vb := vb, vc := vc, ty := ty, rm := rm }
    (scalarHalf x.sop.toNat) (ints lanePerm) s
/-- R108: the P-form word with vector half `vscan`. -/
def execVscanPform (h : Hints) (vd va vb vc : BitVec 5) (ty : BitVec 4) (rm : BitVec 2) (x : SHalf) (s : State) :
    Host.Outcome State Fault Refusal :=
  pairWord h x { vop := 0x15, vd := vd, va := va, vb := vb, vc := vc, ty := ty, rm := rm }
    (scalarHalf x.sop.toNat) (ints (fun as _ => laneScan false as)) s
/-- R108: the P-form word with vector half `vfadd`. -/
def execVfaddPform (h : Hints) (vd va vb vc : BitVec 5) (ty : BitVec 4) (rm : BitVec 2) (x : SHalf) (s : State) :
    Host.Outcome State Fault Refusal :=
  pairWord h x { vop := 0x40, vd := vd, va := va, vb := vb, vc := vc, ty := ty, rm := rm }
    (scalarHalf x.sop.toNat) (floats2 (fAdd rm.toNat)) s
/-- R108: the P-form word with vector half `vfsub`. -/
def execVfsubPform (h : Hints) (vd va vb vc : BitVec 5) (ty : BitVec 4) (rm : BitVec 2) (x : SHalf) (s : State) :
    Host.Outcome State Fault Refusal :=
  pairWord h x { vop := 0x41, vd := vd, va := va, vb := vb, vc := vc, ty := ty, rm := rm }
    (scalarHalf x.sop.toNat) (floats2 (fSub rm.toNat)) s
/-- R108: the P-form word with vector half `vfmul`. -/
def execVfmulPform (h : Hints) (vd va vb vc : BitVec 5) (ty : BitVec 4) (rm : BitVec 2) (x : SHalf) (s : State) :
    Host.Outcome State Fault Refusal :=
  pairWord h x { vop := 0x42, vd := vd, va := va, vb := vb, vc := vc, ty := ty, rm := rm }
    (scalarHalf x.sop.toNat) (floats2 (fMul rm.toNat)) s
/-- R108: the P-form word with vector half `vffma`. -/
def execVffmaPform (h : Hints) (vd va vb vc : BitVec 5) (ty : BitVec 4) (rm : BitVec 2) (x : SHalf) (s : State) :
    Host.Outcome State Fault Refusal :=
  pairWord h x { vop := 0x43, vd := vd, va := va, vb := vb, vc := vc, ty := ty, rm := rm }
    (scalarHalf x.sop.toNat) (floats3 (fFma rm.toNat)) s
/-- R108: the P-form word with vector half `vfmin`. -/
def execVfminPform (h : Hints) (vd va vb vc : BitVec 5) (ty : BitVec 4) (rm : BitVec 2) (x : SHalf) (s : State) :
    Host.Outcome State Fault Refusal :=
  pairWord h x { vop := 0x44, vd := vd, va := va, vb := vb, vc := vc, ty := ty, rm := rm }
    (scalarHalf x.sop.toNat) (floats2 (fun _ => fMinMax false (ty == 1))) s
/-- R108: the P-form word with vector half `vfmax`. -/
def execVfmaxPform (h : Hints) (vd va vb vc : BitVec 5) (ty : BitVec 4) (rm : BitVec 2) (x : SHalf) (s : State) :
    Host.Outcome State Fault Refusal :=
  pairWord h x { vop := 0x45, vd := vd, va := va, vb := vb, vc := vc, ty := ty, rm := rm }
    (scalarHalf x.sop.toNat) (floats2 (fun _ => fMinMax true (ty == 1))) s
/-- R108: the P-form word with vector half `vfscale`. -/
def execVfscalePform (h : Hints) (vd va vb vc : BitVec 5) (ty : BitVec 4) (rm : BitVec 2) (x : SHalf) (s : State) :
    Host.Outcome State Fault Refusal :=
  pairWord h x { vop := 0x4B, vd := vd, va := va, vb := vb, vc := vc, ty := ty, rm := rm }
    (scalarHalf x.sop.toNat) (floats2 (fScale rm.toNat)) s
/-- R108: the P-form word with vector half `vfex2`. -/
def execVfex2Pform (h : Hints) (vd va vb vc : BitVec 5) (ty : BitVec 4) (rm : BitVec 2) (x : SHalf) (s : State) :
    Host.Outcome State Fault Refusal :=
  pairWord h x { vop := 0x4C, vd := vd, va := va, vb := vb, vc := vc, ty := ty, rm := rm }
    (scalarHalf x.sop.toNat) (floats1 (fEx2 rm.toNat)) s
/-- R108: the P-form word with vector half `vfrsq`. -/
def execVfrsqPform (h : Hints) (vd va vb vc : BitVec 5) (ty : BitVec 4) (rm : BitVec 2) (x : SHalf) (s : State) :
    Host.Outcome State Fault Refusal :=
  pairWord h x { vop := 0x4D, vd := vd, va := va, vb := vb, vc := vc, ty := ty, rm := rm }
    (scalarHalf x.sop.toNat) (floats1 (fRsq rm.toNat)) s

end Sys2Proof.Machine
end

