-- ==== Sys2Proof/Machine/Hash.lean ====
section
/-! DEFINITION. The hash functions of FIPS 202 that R441 and R442 name (log entry 3, PRESUMED: the spec names the standard,
whose text is outside it): the permutation of the sponge, SHA3-512, and the two extendable outputs that FIPS 204 uses. -/

namespace Sys2Proof.Machine

/-! ## The permutation of 1,600 bits: 25 lanes of 64 bits, lane (x, y) at x + 5y -/

/-- A lane turned left. -/
def turnLane (x n : Nat) : Nat := (x * 2 ^ n ||| x / 2 ^ (64 - n)) % 2 ^ 64

/-- By how much each lane is turned in a round. -/
def laneTurns : List Nat :=
  [0, 1, 62, 28, 27, 36, 44, 6, 55, 20, 3, 10, 43, 25, 39, 41, 45, 15, 21, 8, 18, 2, 61, 56, 14]

/-- The constants of the 24 rounds. -/
def roundConstants : List Nat :=
  [0x0000000000000001, 0x0000000000008082, 0x800000000000808A, 0x8000000080008000, 0x000000000000808B, 0x0000000080000001
  , 0x8000000080008081, 0x8000000000008009, 0x000000000000008A, 0x0000000000000088, 0x0000000080008009, 0x000000008000000A
  , 0x000000008000808B, 0x800000000000008B, 0x8000000000008089, 0x8000000000008003, 0x8000000000008002, 0x8000000000000080
  , 0x000000000000800A, 0x800000008000000A, 0x8000000080008081, 0x8000000000008080, 0x0000000080000001, 0x8000000080008008]

/-- Every lane with the parities of the two columns beside its own. -/
def mixColumns (a : List Nat) : List Nat :=
  let c := (List.range 5).map (fun x => (List.range 5).foldl (fun p y => p ^^^ nth a (x + 5 * y)) 0)
  a.zipIdx.map (fun l => l.1 ^^^ nth c ((l.2 + 4) % 5) ^^^ turnLane (nth c ((l.2 + 1) % 5)) 1)

/-- The lanes turned, and moved to their new places. -/
def moveLanes (a : List Nat) : List Nat :=
  (List.range 25).map (fun i =>
    let k := (i % 5 + 3 * (i / 5)) % 5 + 5 * (i % 5)
    turnLane (nth a k) (nth laneTurns k))

/-- Every lane with the next two of its row. -/
def mixRows (b : List Nat) : List Nat :=
  (List.range 25).map (fun i =>
    let at_ := fun (d : Nat) => nth b ((i % 5 + d) % 5 + 5 * (i / 5))
    at_ 0 ^^^ ((2 ^ 64 - 1 - at_ 1) &&& at_ 2))

/-- One round. -/
def hashRound (a : List Nat) (rc : Nat) : List Nat :=
  match mixRows (moveLanes (mixColumns a)) with
  | [] => []
  | l :: ls => (l ^^^ rc) :: ls

/-- The 24 rounds. -/
def permute (a : List Nat) : List Nat := roundConstants.foldl hashRound a

/-! ## The sponge -/

/-- A block of bytes as lanes. -/
def blockLanes (bs : List Byte) : List Nat :=
  (List.range 25).map (fun i => bytesNat ((bs.drop (8 * i)).take 8))

/-- `n` blocks of `rate` bytes taken in. -/
def absorb (rate : Nat) : Nat → List Byte → List Nat → List Nat
  | 0, _, a => a
  | n + 1, bs, a =>
    absorb rate n (bs.drop rate) (permute ((a.zip (blockLanes (bs.take rate))).map (fun x => x.1 ^^^ x.2)))

/-- `n` blocks of `rate` bytes given out. -/
def squeeze (rate : Nat) : Nat → List Nat → List Byte
  | 0, _ => []
  | n + 1, a => (a.flatMap (natBytes 8)).take rate ++ squeeze rate n (permute a)

/-- A message with the end of its function and the padding to whole blocks. -/
def padMessage (rate last : Nat) (bs : List Byte) : List Byte :=
  let n := rate - bs.length % rate
  bs ++ (if n = 1 then [BitVec.ofNat 8 (last + 0x80)]
    else BitVec.ofNat 8 last :: List.replicate (n - 2) 0 ++ [0x80])

/-- `n` bytes of the sponge of a rate and a function's end. -/
def sponge (rate last n : Nat) (bs : List Byte) : List Byte :=
  let m := padMessage rate last bs
  (squeeze rate ((n + rate - 1) / rate) (absorb rate (m.length / rate) m (List.replicate 25 0))).take n

/-- SHA3-512 of a byte string, 64 bytes (R441, R442). -/
def sha3 (bs : List Byte) : List Byte := sponge 72 0x06 64 bs

/-- `n` bytes of SHAKE128. -/
def shake128 (bs : List Byte) (n : Nat) : List Byte := sponge 168 0x1F n bs

/-- `n` bytes of SHAKE256. -/
def shake256 (bs : List Byte) (n : Nat) : List Byte := sponge 136 0x1F n bs

end Sys2Proof.Machine
end

