-- ==== Sys2Proof/Machine/Signature.lean ====
section
/-! DEFINITION. The check of an ML-DSA-87 signature (FIPS 204), which R441 names (log entry 3, PRESUMED: the spec names the
standard, whose text is outside it). Polynomials are lists of 256 coefficients modulo q. -/

namespace Sys2Proof.Machine

/-- The modulus q. -/
abbrev sigQ : Nat := 8380417

/-- γ1, 2γ2 and β of ML-DSA-87. -/
abbrev sigRange : Nat := 524288
abbrev sigStep : Nat := 523776
abbrev sigBeta : Nat := 120

/-! ## Transforms -/

/-- The 8 bits of a number in reverse. -/
def reverse8 (n : Nat) : Nat := (List.range 8).foldl (fun acc i => acc + n / 2 ^ i % 2 * 2 ^ (7 - i)) 0

/-- The root that block `m` of the transform uses. -/
def sigRoot (m : Nat) : Nat := 1753 ^ reverse8 m % sigQ

/-- Two polynomials combined coefficient by coefficient. -/
def polyZip (g : Nat → Nat → Nat) (a b : List Nat) : List Nat := (a.zip b).map (fun x => g x.1 x.2 % sigQ)

def polyAdd (a b : List Nat) : List Nat := polyZip (· + ·) a b

def polySub (a b : List Nat) : List Nat := polyZip (fun x y => x + sigQ - y) a b

def polyMul (a b : List Nat) : List Nat := polyZip (· * ·) a b

/-- The transform of block `m`, of 2^n coefficients. -/
def transform : Nat → Nat → List Nat → List Nat
  | 0, _, w => w
  | n + 1, m, w =>
    let lo := w.take (2 ^ n)
    let t := (w.drop (2 ^ n)).map (fun x => sigRoot m * x % sigQ)
    transform n (2 * m) (polyAdd lo t) ++ transform n (2 * m + 1) (polySub lo t)

/-- The inverse of the transform, but for its factor. -/
def untransform : Nat → Nat → List Nat → List Nat
  | 0, _, w => w
  | n + 1, m, w =>
    let lo := untransform n (2 * m + 1) (w.take (2 ^ n))
    let hi := untransform n (2 * m) (w.drop (2 ^ n))
    polyAdd lo hi ++ (polySub lo hi).map (fun x => (sigQ - sigRoot m) * x % sigQ)

/-- A polynomial transformed, and one brought back. -/
def polyNtt (w : List Nat) : List Nat := transform 8 1 w

def polyBack (w : List Nat) : List Nat := (untransform 8 1 w).map (fun x => 8347681 * x % sigQ)

/-! ## Polynomials from bytes -/

/-- Fields of `w` bits of a byte string, as many as it holds. -/
def bitFields (w : Nat) (bs : List Byte) : List Nat :=
  let x := bytesNat bs
  (List.range (8 * bs.length / w)).map (fun i => Nat.field x (w * i) w)

/-- Candidates of three bytes below q (FIPS 204 lets the number of tries be bounded). -/
def pickBelow : List Byte → List Nat
  | a :: b :: c :: rest =>
    let z := a.toNat + 256 * b.toNat + 65536 * (c.toNat % 128)
    if z < sigQ then z :: pickBelow rest else pickBelow rest
  | _ => []

/-- Entry (r, c) of the matrix that a seed stands for, transformed. -/
def matrixEntry (seed : List Byte) (r c : Nat) : List Nat :=
  (pickBelow (shake128 (seed ++ [BitVec.ofNat 8 c, BitVec.ofNat 8 r]) 1344)).take 256

/-- The first of some bytes that is at most `i`, and what follows it. -/
def pickAtMost (i : Nat) : List Byte → Nat × List Byte
  | [] => (0, [])
  | b :: bs => if b.toNat ≤ i then (b.toNat, bs) else pickAtMost i bs

/-- The polynomial of 60 coefficients 1 and -1 that a challenge stands for. -/
def ballOf (challenge : List Byte) : List Nat :=
  let s := shake256 challenge 544
  let signs := bytesNat (s.take 8)
  ((List.range 60).foldl (fun (st : List Nat × List Byte) n =>
    let i := 196 + n
    let p := pickAtMost i st.2
    let c := st.1.set i (nth st.1 p.1)
    (c.set p.1 (if signs.testBit n then sigQ - 1 else 1), p.2)) (List.replicate 256 0, s.drop 8)).1

/-- The places of the hints of polynomials `i` and up, from where the list of places has come; none when they do not rise, or
are not filled with zeros (75 places and 8 ends). -/
def hintPlaces (y : List Byte) : Nat → Nat → Nat → Option (List (List Nat))
  | 0, _, idx => if ((y.take 75).drop idx).all (fun b => b == 0) then some [] else none
  | n + 1, i, idx =>
    let stop := (y.getD (75 + i) 0).toNat
    let ps := ((y.take stop).drop idx).map (fun b => b.toNat)
    let rising := (ps.zip (ps.drop 1)).all (fun x => decide (x.1 < x.2))
    if stop < idx ∨ 75 < stop ∨ !rising then none else (hintPlaces y n (i + 1) stop).map (fun l => ps :: l)

/-- The high part of a coefficient, moved by its hint. -/
def highPart (hint : Bool) (r : Nat) : Nat :=
  let lo := r % sigStep
  let neg := decide (sigStep / 2 < lo)
  let top := (if neg then r / sigStep + 1 else r / sigStep) % 16
  if !hint then top else if !neg && lo != 0 then (top + 1) % 16 else (top + 15) % 16

/-! ## The check -/

/-- A signature of 4,627 bytes of a message by a public key of 2,592 bytes verifies, with an empty context. -/
def verifySig (key msg sig : List Byte) : Bool :=
  let seed := key.take 32
  let high := (List.range 8).map (fun i => bitFields 10 ((key.drop (32 + 320 * i)).take 320))
  let challenge := sig.take 64
  let answer := (List.range 7).map (fun i => bitFields 20 ((sig.drop (64 + 640 * i)).take 640))
  let mu := shake256 (shake256 key 64 ++ [0, 0] ++ msg) 64
  let c := polyNtt (ballOf challenge)
  let z := answer.map (fun p => polyNtt (p.map (fun x => (sigQ + sigRange - x) % sigQ)))
  match hintPlaces (sig.drop 4544) 8 0 0 with
  | none => false
  | some hints =>
    let row := fun (r : Nat) =>
      let sum := z.zipIdx.foldl (fun acc p => polyAdd acc (polyMul (matrixEntry seed r p.2) p.1)) (List.replicate 256 0)
      let known := polyMul c (polyNtt ((high.getD r []).map (fun x => x * 2 ^ 13)))
      (polyBack (polySub sum known)).zipIdx.map (fun x => highPart ((hints.getD r []).contains x.2) x.1)
    let packed := (List.range 8).flatMap (fun r =>
      let w := row r
      (List.range 128).map (fun i => BitVec.ofNat 8 (nth w (2 * i) + 16 * nth w (2 * i + 1))))
    key.length == 2592 && sig.length == 4627
      && answer.all (fun p => p.all (fun x => decide (sigBeta < x ∧ x + sigBeta < 2 * sigRange)))
      && shake256 (mu ++ packed) 64 == challenge

end Sys2Proof.Machine
end

