-- ==== Sys2Proof/Machine/Part.lean ====
section
/-! DEFINITION. The part (R436 to R447): bring-up, the mailbox, security, the stacks, Narel, power, and the host's
accesses to device memory (R341). -/

namespace Sys2Proof.Machine

/-! ## Bring-up and power -/

/-- The management block changed by `g`. -/
def updMgmt (s : State) (g : Mgmt → Mgmt) : State := { s with mgmt := g s.mgmt }

/-- The part enters the safe state: EN of every interface reads 0 (R438), and no firmware runs. -/
def enterSafe (s : State) : State :=
  { s with
      mgmt := { s.mgmt with state := .safe, fwok := false }
      aqis := s.aqis.map (fun a => { a with en := false })
      routines := none
      fronds := s.fronds.filter (fun f => !f.control) }

/-- A step of bring-up fails (R437). -/
def failStep (s : State) (n : Nat) : State := updMgmt (enterSafe s) (fun m => { m with step := n - 1, fail := n })

/-- The engines of a die that stay enabled, of its 128 (R437). -/
def enginesOf (off : List Nat) (die : Nat) : Nat :=
  ((List.range 128).filter (fun t => !off.contains (128 * die + t))).length

/-- A Narel port goes down (R437, R445). -/
def portDown (s : State) (die port : Nat) : State :=
  postEvent { s with portsDown := s.portsDown ++ [(die, port)] } 5 (die + 2 ^ 8 * port) 0

/-- What lasts through power-good: the world outside the part, and what is held in fuses (log entry 22). -/
def lasting (s : State) : State :=
  { State.reset with
      choices := s.choices, fresh := s.fresh, inputs := s.inputs, host := s.host, messages := s.messages
      hdmBase := s.hdmBase, lsImages := s.lsImages, fusedOff := s.fusedOff
      mgmt := { Mgmt.reset with dark := false, erased := s.mgmt.erased } }

/-- The steps of R437 as far as waiting for LOADFW. -/
def bringUp (s : State) (b : BringUp) : State :=
  let s := lasting s
  if !b.fuseOk then updMgmt s (fun m => { m with dark := true })
  else if !b.linkOk then updMgmt s (fun m => { m with dark := true, step := 1 })
  else if !b.bistOk then failStep s 3
  else if !b.stacksOk then failStep s 4
  else if !b.dieLinksOk then failStep s 5
  else
    let s := b.portsDown.foldl (fun s p => portDown s p.1 p.2) s
    let off := b.enginesFailed.foldl (fun acc t => setAdd t acc) s.fusedOff
    let s := { s with fusedOff := off }
    if (List.range 9).any (fun d => decide (enginesOf off d < 124)) then failStep s 6
    else updMgmt s (fun m => { m with step := 6 })

/-- What a bring-up names exists: ports, each once, and engines. -/
def bringUpOk (b : BringUp) : Bool :=
  b.portsDown.all (fun p => decide (p.1 < 9 ∧ p.2 < 16)) && decide b.portsDown.Nodup
    && b.enginesFailed.all (fun t => decide (t < 1152))

/-- POWER_GOOD (R437). -/
def execPowerGood (s : State) : Host.Outcome State Fault Refusal :=
  match s.subject with
  | .bringUp b => if bringUpOk b then .next (bringUp s b) else .refused .notEnabled
  | _ => .refused .notEnabled

/-- POWER_PACING (R436): the average of the last 1 ms in watts, and whether it exceeds the limit. -/
def execPowerPacing (s : State) : Host.Outcome State Fault Refusal :=
  match s.subject with
  | .watts n =>
    if s.mgmt.dark || decide (65536 ≤ n) then .refused .notEnabled
    else .next { updMgmt s (fun m => { m with pwr := n }) with pacing := decide (3200 < n) }
  | _ => .refused .notEnabled

/-! ## Security, stacks and Narel -/

/-- SECURITY_ALARM (R442). -/
def execSecurityAlarm (s : State) : Host.Outcome State Fault Refusal :=
  match s.subject with
  | .detector n =>
    if s.mgmt.dark || decide (3 ≤ n) then .refused .notEnabled
    else
      let s := postEvent (updMgmt s (fun m => { m with alarm := true })) 4 n 0
      if Config.eraseFuse then
        let s := updMgmt s (fun m => { m with erased := true })
        .next (enterSafe ((s.jobs.filter Job.live).foldl endSilently s))
      else .next s
  | _ => .refused .notEnabled

/-- REFRESH_TAKEOVER (R443). -/
def execRefreshTakeover (s : State) : Host.Outcome State Fault Refusal :=
  match s.subject with
  | .stack n =>
    if s.mgmt.dark || decide (24 ≤ n) || s.refresh.contains n then .refused .notEnabled
    else .next (postEvent { updMgmt s (fun m => { m with refseq := true }) with refresh := setAdd n s.refresh } 3 n 0)
  | _ => .refused .notEnabled

/-- A Narel port that exists and is up (R445). -/
def portUp (s : State) (die port : Nat) : Bool :=
  decide (die < 9) && decide (port < 16) && !s.portsDown.contains (die, port) && !s.mgmt.dark

/-- Failed replays of the flit at a Narel port (R445). -/
def failedReplays (s : State) (die port : Nat) : Nat := mapGet 0 (16 * die + port) s.replays

/-- A number of failed replays noted at a Narel port (R445). -/
def setReplays (s : State) (die port n : Nat) : State := { s with replays := mapPut 0 (16 * die + port) n s.replays }

/-- NAREL_FLIT_REPLAY (R445): a replay of the flit at a port, which fails once more or ends the flit's. It changes timing
only. -/
def execNarelFlitReplay (s : State) : Host.Outcome State Fault Refusal :=
  match s.subject with
  | .replay die port failed =>
    let n := failedReplays s die port
    if !portUp s die port || decide (8 ≤ n) then .refused .notEnabled
    else .next (setReplays s die port (if failed then n + 1 else 0))
  | _ => .refused .notEnabled

/-- NAREL_PORT_DOWN (R445): after 8 failed replays of one flit. -/
def execNarelPortDown (s : State) : Host.Outcome State Fault Refusal :=
  match s.subject with
  | .narel die port =>
    if portUp s die port && failedReplays s die port == 8 then .next (portDown (setReplays s die port 0) die port)
    else .refused .notEnabled
  | _ => .refused .notEnabled

/-! ## Host accesses to device memory -/

/-- A host write to device memory (R250, R341, R447). -/
def hostWrite (s : State) (pa len : Nat) (data : List Byte) : State :=
  let t := { s with hbm := writeNat s.hbm pa len (bytesNat data) }
  if len = 64 ∧ pa % 64 = 0 then { t with poison := setDel (pa / 64) t.poison }
  else if poisoned s pa then
    let r := Config.rmwRecord (pa / 64 * 64)
    errorRecord s r.1 0 0 r.2 0
  else t

/-- HOST_CXL_MEM_ACCESS (R341, R447; log entry 23): an access inside one granule, of the HDM range or of the host's
own memory, which the N9 reaches by pages with HOST = 1. -/
def execHostCxlMemAccess (s : State) : Host.Outcome State Fault Refusal :=
  match s.subject with
  | .hostAccess write addr len data =>
    if decide (len < 1 ∨ addr / 64 ≠ (addr + len - 1) / 64) || (write && data.length != len) then .refused .notEnabled
    else if !inHdm s addr then
      .next (if write then { s with host := writeNat s.host addr len (bytesNat data) }
        else { s with hostRead := natBytes len (readNat s.host addr len) })
    else if s.mgmt.state != .operational then .refused .notEnabled
    else
      let pa := hdmPa s addr
      if write then .next (hostWrite s pa len data)
      else if poisoned s pa then .next { s with hostRead := [] }
      else .next { s with hostRead := natBytes len (readNat s.hbm pa len) }
  | _ => .refused .notEnabled

/-! ## The mailbox -/

/-- The code of the command, and its 8-byte operand `i` (R440; log entry 24). -/
def cmdCode (s : State) : Nat := bytesAt s.mgmt.cmd 0 1
def cmdOp (s : State) (i : Nat) : Nat := bytesAt s.mgmt.cmd (8 + 8 * i) 8

/-- The response to the command is made: status, sequence number and results (R440). -/
def respond (s : State) (status : Nat) (results : List Byte) : State :=
  let r := natBytes 4 status ++ (s.mgmt.cmd.drop 4).take 4 ++ results
  updMgmt s (fun m => { m with answer := some (r ++ List.replicate (64 - r.length) 0), inval := none })

/-- The status of a command that fails before its own checks: 2 in the safe state for every code but those of STATUS,
LOADFW and ATTEST, and else 1 when bytes 1 to 3 are not zero (R438, R440; log entry 24). -/
def earlyStatus (s : State) : Option Nat :=
  if s.mgmt.state == .safe && decide (cmdCode s < 1 ∨ 3 < cmdCode s) then some 2
  else if !zeroBytes s.mgmt.cmd 1 4 then some 1
  else none

/-- The command of a code is in performance. -/
def inCommand (s : State) (code : Nat) : Bool :=
  !s.mgmt.dark && s.mgmt.busy && s.mgmt.answer.isNone && cmdCode s == code

/-- A command of a code is performed whole: `body` is its effect. -/
def runCommand (s : State) (code : Nat) (body : State → State) : Host.Outcome State Fault Refusal :=
  if !inCommand s code then .refused .notEnabled
  else
    match earlyStatus s with
    | some st => .next (respond s st [])
    | none => .next (body s)

/-- STATUS (R440). -/
def execStatus (s : State) : Host.Outcome State Fault Refusal :=
  runCommand s 0x01 (fun s => respond s 0 (natBytes 8 (mstat s.mgmt)))

/-- `n` bytes at a host physical address; none when one cannot be read. -/
def readHostBytes (s : State) (a : Nat) : Nat → Option (List Byte)
  | 0 => some []
  | n + 1 => (readHostPa s a 1).bind (fun b => (readHostBytes s (a + 1) n).map (fun bs => BitVec.ofNat 8 b :: bs))

/-- Bytes written at a host physical address. -/
def writeHostBytes (s : State) (a : Nat) : List Byte → State
  | [] => s
  | b :: bs => writeHostBytes (writeHostPa s a 1 b.toNat) (a + 1) bs

/-- A firmware image passes the checks of R441. The message that the signature signs is the digest's 64 bytes (log entry 3). -/
def imageOk (bs : List Byte) : Bool :=
  let body := bytesAt bs 8 8
  let signed := bs.take (64 + body)
  let key := (bs.drop (64 + body)).take 2592
  let sig := bs.drop (64 + body + 2592)
  decide (64 ≤ bs.length) && bytesAt bs 0 4 == 0x5A484E46 && bs.length == 64 + body + 2592 + 4627
    && sha3 key == natBytes 64 Config.keyDigest.toNat && verifySig key (sha3 signed) sig
    && decide (Config.minRevision ≤ bytesAt bs 4 4)

/-- A verified image starts: its control cores, and the routine table in its body (R437, R441, R442). -/
def startImage (s : State) (bs : List Byte) : State :=
  { updMgmt s (fun m => { m with state := .operational, fwok := true, step := 7, fail := 0, image := sha3 bs })
      with routines := some ((bs.drop 64).take (bytesAt bs 8 8)) }

/-- The effect of LOADFW (R440, R441). Step 7 of bring-up follows step 6 (R437): in a part whose bring-up has failed
before it, no image starts (log entry 72). -/
def loadFirmware (s : State) : State :=
  if s.mgmt.erased || decide (s.mgmt.step < 6) then respond s 3 []
  else if s.jobs.any Job.live then respond s 2 []
  else
    let t := updMgmt (enterSafe s) (fun m => { m with image := [] })
    match (readHostBytes s (cmdOp s 0) (cmdOp s 1)).filter imageOk with
    | some bs => respond { startImage t bs with aqis := s.aqis } 0 []
    | none => respond (updMgmt t (fun m => { m with fail := 7 })) 3 []

/-- LOADFW (R441). -/
def execLoadfw (s : State) : Host.Outcome State Fault Refusal := runCommand s 0x02 loadFirmware

/-- An attestation report without its signature (R442). -/
def report (s : State) (nonce : List Byte) : List Byte :=
  let digest := if s.mgmt.fwok then s.mgmt.image else []
  nonce ++ digest.take 64 ++ List.replicate (64 - digest.length) 0 ++ natBytes 8 (mstat s.mgmt)
    ++ natBytes 8 s.mgmt.pkgnum ++ (List.range 9).map (fun d => BitVec.ofNat 8 (enginesOf s.fusedOff d))
    ++ natBytes 1 Config.eraseFuse.toNat ++ List.replicate 134 0

/-- The effect of ATTEST (R442): the nonce is operand bytes 16 to 47. -/
def attest (s : State) : State :=
  if s.mgmt.erased then respond s 3 []
  else
    let r := report s ((s.mgmt.cmd.drop 16).take 32)
    respond (writeHostBytes s (cmdOp s 0) (r ++ natBytes 4627 (Config.sign r).toNat)) 0 []

/-- ATTEST (R442). -/
def execAttest (s : State) : Host.Outcome State Fault Refusal := runCommand s 0x03 attest

/-- The name of a thing in memory when packages `old` and `new` exchange their numbers; a package has `span` of them. -/
def renumber (span old new k : Nat) : Nat :=
  let p := k / span
  k % span + span * (if p = old then new else if p = new then old else p)

/-- A sparse map under new names. -/
def remap {α : Type} [DecidableEq α] (d : α) (g : Nat → Nat) (m : SMap α) : SMap α :=
  m.foldl (fun acc e => mapPut d (g e.1) e.2 acc) []

/-- A set under new names. -/
def remapSet (g : Nat → Nat) (m : List Nat) : List Nat := m.foldl (fun acc k => setAdd (g k) acc) []

/-- The package takes a number (R216): its memory is named by it from now on. -/
def setPackage (s : State) (n : Nat) : State :=
  let old := s.mgmt.pkgnum
  let page := renumber (2 ^ 25) old n
  { updMgmt s (fun m => { m with pkgnum := n }) with
      hbm := remap 0 (renumber (2 ^ 41) old n) s.hbm
      poison := remapSet (renumber (2 ^ 35) old n) s.poison
      counters := remap 0 page s.counters
      reported := remapSet page s.reported
      farLeaf := remapSet page s.farLeaf
      cntLeaf := remapSet (renumber (2 ^ 35) old n) s.cntLeaf }

/-- SETPKG (R440). -/
def execSetpkg (s : State) : Host.Outcome State Fault Refusal :=
  runCommand s 0x04
    (fun s =>
    if s.mgmt.placedAny then respond s 2 []
    else if 2047 < cmdOp s 0 then respond s 1 []
    else respond (setPackage s (cmdOp s 0)) 0 [])

/-- A PA of this package that names memory. -/
def localPa (s : State) (pa : Nat) : Bool :=
  decide (pa < 2 ^ 52) && pkgOf pa == s.mgmt.pkgnum && paExists pa

/-- POISON (R440, R447). With a granule as its subject it is no command: an uncorrectable error has been found there
(log entry 73). -/
def execPoison (s : State) : Host.Outcome State Fault Refusal :=
  match s.subject with
  | .granule pa =>
    if s.mgmt.dark || !localPa s pa then .refused .notEnabled
    else .next { s with poison := setAdd (pa / 64) s.poison }
  | .lsGranule a =>
    if s.mgmt.dark || !isCore (a / 2 ^ 20) || decide (lsSize ≤ a % 2 ^ 20) then .refused .notEnabled
    else .next { s with lsPoison := setAdd (a / 64) s.lsPoison }
  | _ =>
    runCommand s 0x07
      (fun s =>
      if localPa s (cmdOp s 0) then respond { s with poison := setAdd (cmdOp s 0 / 64) s.poison } 0 []
      else respond s 1 [])

/-- The pages whose counters hold a value, in order, report where a new threshold has been reached (R227). -/
def reportPages (s : State) : State := s.counters.foldl (fun s e => reportPage s e.1) s

/-- SETTHR (R227). -/
def execSetthr (s : State) : Host.Outcome State Fault Refusal :=
  runCommand s 0x08
    (fun s =>
    if 24 ≤ cmdOp s 0 ∨ 65535 < cmdOp s 1 then respond s 1 []
    else respond (reportPages { s with thresholds := s.thresholds.set (cmdOp s 0) (cmdOp s 1) }) 0 [])

/-- CLRCNT (R227, R440). -/
def execClrcnt (s : State) : Host.Outcome State Fault Refusal :=
  let pg := cmdOp s 0 / 65536
  runCommand s 0x09
    (fun s =>
    if localPa s (cmdOp s 0) then
      respond { s with counters := mapPut 0 pg 0 s.counters, reported := setDel pg s.reported } 0 []
    else respond s 1 [])

/-- The walks of a job that have faulted on the page of a VA. -/
def faultedWalks (s : State) (jid va : Nat) : List Walk :=
  s.walks.filter (fun w => w.jid == jid && w.fault.isSome && w.va / 65536 == va / 65536)

/-- XLANS (R223): 0 is RETRY and 1 ABORT. -/
def execXlans (s : State) : Host.Outcome State Fault Refusal :=
  let ws := faultedWalks s (cmdOp s 0) (cmdOp s 1)
  runCommand s 0x06
    (fun s =>
    if 1 < cmdOp s 2 then respond s 1 []
    else if ws.isEmpty then respond s 3 []
    else respond (ws.foldl (if cmdOp s 2 = 0 then retryWalk else abortWalk) s) 0 [])

/-! ## INVAL -/

/-- An access of a job under the translation of bytes `lo` to `lo + size - 1` is in flight; the stores of an engine word
that has been accepted are (R224, R301). -/
def accessUnder (s : State) (jid lo size : Nat) : Bool :=
  let meets := fun (a n : Nat) => decide (a < lo + size ∧ lo < a + n)
  s.flights.any (fun g => g.jid == jid && g.elems.any (fun e => !e.performed && meets e.va e.size))
    || s.engines.any (fun e => e.queue.any (fun w => w.jid == jid && !w.stored && w.elems.any (fun x => meets x.va x.size)))
    || s.phases.any (fun p => p.jid == jid && meets p.target (4 * p.n))
    || s.records.any (fun r => r.jid == jid && meets r.va 32)
    || s.cores.any (fun c => match c.fill with
      | some x => x.jid == jid && x.ready && meets (x.block * blockSize) blockSize
      | none => false)

/-- The resident blocks of a page: core and carrel. -/
def residentBlocks (s : State) (jid lo size : Nat) : List (Nat × Nat) :=
  s.cores.flatMap (fun c => (c.carrels.zipIdx.filter (fun e => e.1.state == .resident && e.1.jid == jid
    && decide (lo ≤ e.1.block * blockSize ∧ e.1.block * blockSize < lo + size))).map (fun e => (c.pcid, e.2)))

/-- Those of them that may be freed: they are spent, and no access to them is to be performed (R240). -/
def freeableBlocks (s : State) (jid lo size : Nat) : List (Nat × Nat) :=
  (residentBlocks s jid lo size).filter (fun e =>
    match (getCore s e.1).carrels[e.2]? with
    | some x => x.spent.isSome && !blockBusy s x.jid x.block
    | none => false)

/-- INVAL begins: the translations of the page are dropped. Its size is that of its leaf, whose P the driver has cleared,
or of a translation still stored (R224). -/
def beginInval (s : State) (jid va : Nat) : State :=
  let old := s.tstore.filter (fun t => t.jid == jid && decide (t.va ≤ va ∧ va < t.va + t.size))
  let size := old.foldl (fun n t => Nat.max n t.size) (jobPageSize s jid va)
  let lo := va / size * size
  { updMgmt s (fun m => { m with inval := some (lo, size) }) with
      tstore := s.tstore.filter (fun t => !(t.jid == jid && decide (t.va < lo + size ∧ lo < t.va + t.size))) }

/-- INVAL (R224): it begins, frees blocks as they come to be spent, and is done when its conditions hold. -/
def execInval (s : State) : Host.Outcome State Fault Refusal :=
  if !inCommand s 0x05 then .refused .notEnabled
  else
    match earlyStatus s, s.mgmt.inval with
    | some st, _ => .next (respond s st [])
    | none, none =>
      if (liveJob s (cmdOp s 0)).isNone || decide (2 ^ 56 ≤ cmdOp s 1) then .next (respond s 1 [])
      else .next (beginInval s (cmdOp s 0) (cmdOp s 1))
    | none, some (lo, size) =>
      let free := freeableBlocks s (cmdOp s 0) lo size
      if !free.isEmpty then .next (free.foldl (fun s e => refreshSpent (evict s e.1 e.2) e.1) s)
      else if (residentBlocks s (cmdOp s 0) lo size).isEmpty && !accessUnder s (cmdOp s 0) lo size then
        .next (respond s 0 [])
      else .refused .notEnabled

/-- The codes of R440. -/
def knownCode (c : Nat) : Bool := decide (1 ≤ c ∧ c ≤ 9)

/-- A command is complete (R440). -/
def finishCommand (s : State) (rsp : List Byte) : State :=
  postEvent (updMgmt s (fun m => { m with rsp := rsp, busy := false, done := true, answer := none }))
    6 (bytesAt s.mgmt.cmd 4 4) 0

/-- MAILBOX_DONE (R440): also the answer to a command of no listed code, which the safe state does not accept (R438). -/
def execMailboxDone (s : State) : Host.Outcome State Fault Refusal :=
  if s.mgmt.dark || !s.mgmt.busy then .refused .notEnabled
  else
    match s.mgmt.answer with
    | some r => .next (finishCommand s r)
    | none =>
      if knownCode (cmdCode s) then .refused .notEnabled
      else
        let s := respond s ((earlyStatus s).getD 1) []
        .next (finishCommand s (s.mgmt.answer.getD []))

end Sys2Proof.Machine
end

