-- ==== Sys2Proof/Machine/Dispatch.lean ====
section
/-! DEFINITION. One arm per step of the part: each calls the meaning of its instruction or event. -/

namespace Sys2Proof.Machine

def exec (i : Instr) (s : State) : Host.Outcome State Fault Refusal :=
  match i with
  | .add h w d a b => Sys2Proof.Machine.execAdd h w d a b s
  | .sub h w d a b => Sys2Proof.Machine.execSub h w d a b s
  | .mul h w d a b => Sys2Proof.Machine.execMul h w d a b s
  | .mulh h w d a b => Sys2Proof.Machine.execMulh h w d a b s
  | .mulhn h w d a b => Sys2Proof.Machine.execMulhn h w d a b s
  | .div h w d a b => Sys2Proof.Machine.execDiv h w d a b s
  | .divn h w d a b => Sys2Proof.Machine.execDivn h w d a b s
  | .rem h w d a b => Sys2Proof.Machine.execRem h w d a b s
  | .remn h w d a b => Sys2Proof.Machine.execRemn h w d a b s
  | .and h w d a b => Sys2Proof.Machine.execAnd h w d a b s
  | .or h w d a b => Sys2Proof.Machine.execOr h w d a b s
  | .xor h w d a b => Sys2Proof.Machine.execXor h w d a b s
  | .andn h w d a b => Sys2Proof.Machine.execAndn h w d a b s
  | .orn h w d a b => Sys2Proof.Machine.execOrn h w d a b s
  | .shl h w d a b => Sys2Proof.Machine.execShl h w d a b s
  | .shr h w d a b => Sys2Proof.Machine.execShr h w d a b s
  | .sar h w d a b => Sys2Proof.Machine.execSar h w d a b s
  | .rol h w d a b => Sys2Proof.Machine.execRol h w d a b s
  | .min h w d a b => Sys2Proof.Machine.execMin h w d a b s
  | .max h w d a b => Sys2Proof.Machine.execMax h w d a b s
  | .minn h w d a b => Sys2Proof.Machine.execMinn h w d a b s
  | .maxn h w d a b => Sys2Proof.Machine.execMaxn h w d a b s
  | .clz h w d a => Sys2Proof.Machine.execClz h w d a s
  | .ctz h w d a => Sys2Proof.Machine.execCtz h w d a s
  | .popc h w d a => Sys2Proof.Machine.execPopc h w d a s
  | .brev h w d a => Sys2Proof.Machine.execBrev h w d a s
  | .bswap h w d a => Sys2Proof.Machine.execBswap h w d a s
  | .bfx h sg d a pos len1 => Sys2Proof.Machine.execBfx h sg d a pos len1 s
  | .bfi h d a pos len1 => Sys2Proof.Machine.execBfi h d a pos len1 s
  | .sel h d a b qc qn => Sys2Proof.Machine.execSel h d a b qc qn s
  | .mov h w d a => Sys2Proof.Machine.execMov h w d a s
  | .sext h wid d a => Sys2Proof.Machine.execSext h wid d a s
  | .zext h wid d a => Sys2Proof.Machine.execZext h wid d a s
  | .lea h d a b sh disp => Sys2Proof.Machine.execLea h d a b sh disp s
  | .mad h w d a b => Sys2Proof.Machine.execMad h w d a b s
  | .li h d imm => Sys2Proof.Machine.execLi h d imm s
  | .lpc h d imm => Sys2Proof.Machine.execLpc h d imm s
  | .cmp h d a b ty cond comb => Sys2Proof.Machine.execCmp h d a b ty cond comb s
  | .tst h d a b z comb => Sys2Proof.Machine.execTst h d a b z comb s
  | .pand h d a b na nb => Sys2Proof.Machine.execPand h d a b na nb s
  | .por h d a b na nb => Sys2Proof.Machine.execPor h d a b na nb s
  | .pxor h d a b na nb => Sys2Proof.Machine.execPxor h d a b na nb s
  | .pnot h d a => Sys2Proof.Machine.execPnot h d a s
  | .pset h a => Sys2Proof.Machine.execPset h a s
  | .pget h d => Sys2Proof.Machine.execPget h d s
  | .br h disp => Sys2Proof.Machine.execBr h disp s
  | .jmp h a => Sys2Proof.Machine.execJmp h a s
  | .call h d disp => Sys2Proof.Machine.execCall h d disp s
  | .callr h d a => Sys2Proof.Machine.execCallr h d a s
  | .loop h a maxt blen => Sys2Proof.Machine.execLoop h a maxt blen s
  | .loopw h maxt blen => Sys2Proof.Machine.execLoopw h maxt blen s
  | .lexit h => Sys2Proof.Machine.execLexit h s
  | .fork h d a b disp => Sys2Proof.Machine.execFork h d a b disp s
  | .join h a l => Sys2Proof.Machine.execJoin h a l s
  | .exit h => Sys2Proof.Machine.execExit h s
  | .nop h => Sys2Proof.Machine.execNop h s
  | .bch h a n disp => Sys2Proof.Machine.execBch h a n disp s
  | .sleep h b => Sys2Proof.Machine.execSleep h b s
  | .fadd h rnd d a b => Sys2Proof.Machine.execFadd h rnd d a b s
  | .fsub h rnd d a b => Sys2Proof.Machine.execFsub h rnd d a b s
  | .fmul h rnd d a b => Sys2Proof.Machine.execFmul h rnd d a b s
  | .ffma h rnd d a b c => Sys2Proof.Machine.execFfma h rnd d a b c s
  | .fmin h p d a b => Sys2Proof.Machine.execFmin h p d a b s
  | .fmax h p d a b => Sys2Proof.Machine.execFmax h p d a b s
  | .fdiv h rnd d a b => Sys2Proof.Machine.execFdiv h rnd d a b s
  | .fsqrt h rnd d a => Sys2Proof.Machine.execFsqrt h rnd d a s
  | .frcp h rnd d a => Sys2Proof.Machine.execFrcp h rnd d a s
  | .fcmp h d a b cond comb => Sys2Proof.Machine.execFcmp h d a b cond comb s
  | .fcvt h rnd d a src dst cnt acc => Sys2Proof.Machine.execFcvt h rnd d a src dst cnt acc s
  | .fclass h d a => Sys2Proof.Machine.execFclass h d a s
  | .vadd h d a b => Sys2Proof.Machine.execVadd h d a b s
  | .vsub h d a b => Sys2Proof.Machine.execVsub h d a b s
  | .vmul h d a b => Sys2Proof.Machine.execVmul h d a b s
  | .vmad h d a b c => Sys2Proof.Machine.execVmad h d a b c s
  | .vand h d a b => Sys2Proof.Machine.execVand h d a b s
  | .vor h d a b => Sys2Proof.Machine.execVor h d a b s
  | .vxor h d a b => Sys2Proof.Machine.execVxor h d a b s
  | .vshl h d a b => Sys2Proof.Machine.execVshl h d a b s
  | .vshr h d a b => Sys2Proof.Machine.execVshr h d a b s
  | .vsar h d a b => Sys2Proof.Machine.execVsar h d a b s
  | .vmin h lt d a b => Sys2Proof.Machine.execVmin h lt d a b s
  | .vmax h lt d a b => Sys2Proof.Machine.execVmax h lt d a b s
  | .vcmp h lt cond d a b => Sys2Proof.Machine.execVcmp h lt cond d a b s
  | .vsel h d a b c => Sys2Proof.Machine.execVsel h d a b c s
  | .vbcast h d a => Sys2Proof.Machine.execVbcast h d a s
  | .vext h lt d a b => Sys2Proof.Machine.execVext h lt d a b s
  | .vins h d a b => Sys2Proof.Machine.execVins h d a b s
  | .vperm h d a b => Sys2Proof.Machine.execVperm h d a b s
  | .vredadd h lt d a => Sys2Proof.Machine.execVredadd h lt d a s
  | .vredmin h lt d a => Sys2Proof.Machine.execVredmin h lt d a s
  | .vredmax h lt d a => Sys2Proof.Machine.execVredmax h lt d a s
  | .vscan h ex d a => Sys2Proof.Machine.execVscan h ex d a s
  | .viota h d a b => Sys2Proof.Machine.execViota h d a b s
  | .vfadd h rnd d a b => Sys2Proof.Machine.execVfadd h rnd d a b s
  | .vfsub h rnd d a b => Sys2Proof.Machine.execVfsub h rnd d a b s
  | .vfmul h rnd d a b => Sys2Proof.Machine.execVfmul h rnd d a b s
  | .vffma h rnd d a b c => Sys2Proof.Machine.execVffma h rnd d a b c s
  | .vfmin h p rnd d a b => Sys2Proof.Machine.execVfmin h p rnd d a b s
  | .vfmax h p rnd d a b => Sys2Proof.Machine.execVfmax h p rnd d a b s
  | .vfcmp h cond d a b => Sys2Proof.Machine.execVfcmp h cond d a b s
  | .vfred h op rnd d a => Sys2Proof.Machine.execVfred h op rnd d a s
  | .vfcvt h rnd d a src dst => Sys2Proof.Machine.execVfcvt h rnd d a src dst s
  | .vfpack h rnd d a b fcode sel sc cnt acc => Sys2Proof.Machine.execVfpack h rnd d a b fcode sel sc cnt acc s
  | .vfunpk h rnd d a b fcode sel sc => Sys2Proof.Machine.execVfunpk h rnd d a b fcode sel sc s
  | .vfscale h rnd d a b => Sys2Proof.Machine.execVfscale h rnd d a b s
  | .vfex2 h rnd d a => Sys2Proof.Machine.execVfex2 h rnd d a s
  | .vfrsq h rnd d a => Sys2Proof.Machine.execVfrsq h rnd d a s
  | .addPform h sd sa sb v => Sys2Proof.Machine.execAddPform h sd sa sb v s
  | .subPform h sd sa sb v => Sys2Proof.Machine.execSubPform h sd sa sb v s
  | .mulPform h sd sa sb v => Sys2Proof.Machine.execMulPform h sd sa sb v s
  | .mulhPform h sd sa sb v => Sys2Proof.Machine.execMulhPform h sd sa sb v s
  | .mulhnPform h sd sa sb v => Sys2Proof.Machine.execMulhnPform h sd sa sb v s
  | .divPform h sd sa sb v => Sys2Proof.Machine.execDivPform h sd sa sb v s
  | .divnPform h sd sa sb v => Sys2Proof.Machine.execDivnPform h sd sa sb v s
  | .remPform h sd sa sb v => Sys2Proof.Machine.execRemPform h sd sa sb v s
  | .remnPform h sd sa sb v => Sys2Proof.Machine.execRemnPform h sd sa sb v s
  | .andPform h sd sa sb v => Sys2Proof.Machine.execAndPform h sd sa sb v s
  | .orPform h sd sa sb v => Sys2Proof.Machine.execOrPform h sd sa sb v s
  | .xorPform h sd sa sb v => Sys2Proof.Machine.execXorPform h sd sa sb v s
  | .andnPform h sd sa sb v => Sys2Proof.Machine.execAndnPform h sd sa sb v s
  | .ornPform h sd sa sb v => Sys2Proof.Machine.execOrnPform h sd sa sb v s
  | .shlPform h sd sa sb v => Sys2Proof.Machine.execShlPform h sd sa sb v s
  | .shrPform h sd sa sb v => Sys2Proof.Machine.execShrPform h sd sa sb v s
  | .sarPform h sd sa sb v => Sys2Proof.Machine.execSarPform h sd sa sb v s
  | .rolPform h sd sa sb v => Sys2Proof.Machine.execRolPform h sd sa sb v s
  | .minPform h sd sa sb v => Sys2Proof.Machine.execMinPform h sd sa sb v s
  | .maxPform h sd sa sb v => Sys2Proof.Machine.execMaxPform h sd sa sb v s
  | .minnPform h sd sa sb v => Sys2Proof.Machine.execMinnPform h sd sa sb v s
  | .maxnPform h sd sa sb v => Sys2Proof.Machine.execMaxnPform h sd sa sb v s
  | .clzPform h sd sa sb v => Sys2Proof.Machine.execClzPform h sd sa sb v s
  | .ctzPform h sd sa sb v => Sys2Proof.Machine.execCtzPform h sd sa sb v s
  | .popcPform h sd sa sb v => Sys2Proof.Machine.execPopcPform h sd sa sb v s
  | .brevPform h sd sa sb v => Sys2Proof.Machine.execBrevPform h sd sa sb v s
  | .bswapPform h sd sa sb v => Sys2Proof.Machine.execBswapPform h sd sa sb v s
  | .movPform h sd sa sb v => Sys2Proof.Machine.execMovPform h sd sa sb v s
  | .madPform h sd sa sb v => Sys2Proof.Machine.execMadPform h sd sa sb v s
  | .vaddPform h vd va vb vc ty rm x => Sys2Proof.Machine.execVaddPform h vd va vb vc ty rm x s
  | .vsubPform h vd va vb vc ty rm x => Sys2Proof.Machine.execVsubPform h vd va vb vc ty rm x s
  | .vmulPform h vd va vb vc ty rm x => Sys2Proof.Machine.execVmulPform h vd va vb vc ty rm x s
  | .vmadPform h vd va vb vc ty rm x => Sys2Proof.Machine.execVmadPform h vd va vb vc ty rm x s
  | .vandPform h vd va vb vc ty rm x => Sys2Proof.Machine.execVandPform h vd va vb vc ty rm x s
  | .vorPform h vd va vb vc ty rm x => Sys2Proof.Machine.execVorPform h vd va vb vc ty rm x s
  | .vxorPform h vd va vb vc ty rm x => Sys2Proof.Machine.execVxorPform h vd va vb vc ty rm x s
  | .vshlPform h vd va vb vc ty rm x => Sys2Proof.Machine.execVshlPform h vd va vb vc ty rm x s
  | .vshrPform h vd va vb vc ty rm x => Sys2Proof.Machine.execVshrPform h vd va vb vc ty rm x s
  | .vsarPform h vd va vb vc ty rm x => Sys2Proof.Machine.execVsarPform h vd va vb vc ty rm x s
  | .vminPform h vd va vb vc ty rm x => Sys2Proof.Machine.execVminPform h vd va vb vc ty rm x s
  | .vmaxPform h vd va vb vc ty rm x => Sys2Proof.Machine.execVmaxPform h vd va vb vc ty rm x s
  | .vpermPform h vd va vb vc ty rm x => Sys2Proof.Machine.execVpermPform h vd va vb vc ty rm x s
  | .vscanPform h vd va vb vc ty rm x => Sys2Proof.Machine.execVscanPform h vd va vb vc ty rm x s
  | .vfaddPform h vd va vb vc ty rm x => Sys2Proof.Machine.execVfaddPform h vd va vb vc ty rm x s
  | .vfsubPform h vd va vb vc ty rm x => Sys2Proof.Machine.execVfsubPform h vd va vb vc ty rm x s
  | .vfmulPform h vd va vb vc ty rm x => Sys2Proof.Machine.execVfmulPform h vd va vb vc ty rm x s
  | .vffmaPform h vd va vb vc ty rm x => Sys2Proof.Machine.execVffmaPform h vd va vb vc ty rm x s
  | .vfminPform h vd va vb vc ty rm x => Sys2Proof.Machine.execVfminPform h vd va vb vc ty rm x s
  | .vfmaxPform h vd va vb vc ty rm x => Sys2Proof.Machine.execVfmaxPform h vd va vb vc ty rm x s
  | .vfscalePform h vd va vb vc ty rm x => Sys2Proof.Machine.execVfscalePform h vd va vb vc ty rm x s
  | .vfex2Pform h vd va vb vc ty rm x => Sys2Proof.Machine.execVfex2Pform h vd va vb vc ty rm x s
  | .vfrsqPform h vd va vb vc ty rm x => Sys2Proof.Machine.execVfrsqPform h vd va vb vc ty rm x s
  | .ld h f d a disp => Sys2Proof.Machine.execLd h f d a disp s
  | .st h f a b disp => Sys2Proof.Machine.execSt h f a b disp s
  | .vld h f d a disp => Sys2Proof.Machine.execVld h f d a disp s
  | .vst h f a b disp => Sys2Proof.Machine.execVst h f a b disp s
  | .vlds h f d a b disp => Sys2Proof.Machine.execVlds h f d a b disp s
  | .vsts h f d a b disp => Sys2Proof.Machine.execVsts h f d a b disp s
  | .hold h a disp => Sys2Proof.Machine.execHold h a disp s
  | .pin h d a disp => Sys2Proof.Machine.execPin h d a disp s
  | .unpin h d a disp => Sys2Proof.Machine.execUnpin h d a disp s
  | .lsfmt h a fcode n1 => Sys2Proof.Machine.execLsfmt h a fcode n1 s
  | .ldf h scope l d a disp => Sys2Proof.Machine.execLdf h scope l d a disp s
  | .lde h scope l d a disp => Sys2Proof.Machine.execLde h scope l d a disp s
  | .stf h scope l a b disp => Sys2Proof.Machine.execStf h scope l a b disp s
  | .sto h scope l a b disp => Sys2Proof.Machine.execSto h scope l a b disp s
  | .clrf h l a disp => Sys2Proof.Machine.execClrf h l a disp s
  | .aadd h f d a b disp => Sys2Proof.Machine.execAadd h f d a b disp s
  | .acas h f d a b disp => Sys2Proof.Machine.execAcas h f d a b disp s
  | .axchg h f d a b disp => Sys2Proof.Machine.execAxchg h f d a b disp s
  | .amin h f d a b disp => Sys2Proof.Machine.execAmin h f d a b disp s
  | .amax h f d a b disp => Sys2Proof.Machine.execAmax h f d a b disp s
  | .aand h f d a b disp => Sys2Proof.Machine.execAand h f d a b disp s
  | .aor h f d a b disp => Sys2Proof.Machine.execAor h f d a b disp s
  | .axor h f d a b disp => Sys2Proof.Machine.execAxor h f d a b disp s
  | .fence h kind scope => Sys2Proof.Machine.execFence h kind scope s
  | .xfence h scope mask => Sys2Proof.Machine.execXfence h scope mask s
  | .bexp h scope l d a b disp => Sys2Proof.Machine.execBexp h scope l d a b disp s
  | .barv h scope l a b disp => Sys2Proof.Machine.execBarv h scope l a b disp s
  | .bwait h scope l a b disp => Sys2Proof.Machine.execBwait h scope l a b disp s
  | .wbind h l d a disp => Sys2Proof.Machine.execWbind h l d a disp s
  | .wret h a => Sys2Proof.Machine.execWret h a s
  | .wld h mty raw d a b => Sys2Proof.Machine.execWld h mty raw d a b s
  | .wst h mty raw d a b => Sys2Proof.Machine.execWst h mty raw d a b s
  | .wvld h mty raw d a b n1 => Sys2Proof.Machine.execWvld h mty raw d a b n1 s
  | .wvst h mty raw d a b n1 => Sys2Proof.Machine.execWvst h mty raw d a b n1 s
  | .wqry h d a sel => Sys2Proof.Machine.execWqry h d a sel s
  | .wadj h d a => Sys2Proof.Machine.execWadj h d a s
  | .wfoot h d a sel => Sys2Proof.Machine.execWfoot h d a sel s
  | .mzero h d tg => Sys2Proof.Machine.execMzero h d tg s
  | .mma h d a b ta tb l ng1 kg tg => Sys2Proof.Machine.execMma h d a b ta tb l ng1 kg tg s
  | .mmas h d a b ta tb l ng1 kg tg => Sys2Proof.Machine.execMmas h d a b ta tb l ng1 kg tg s
  | .mld h d a b ty tg => Sys2Proof.Machine.execMld h d a b ty tg s
  | .mst h d a b rnd ty tg => Sys2Proof.Machine.execMst h d a b rnd ty tg s
  | .msst h d a b c rnd ty l tg => Sys2Proof.Machine.execMsst h d a b c rnd ty l tg s
  | .madd h d a kg tg => Sys2Proof.Machine.execMadd h d a kg tg s
  | .mstat h d a => Sys2Proof.Machine.execMstat h d a s
  | .mclrs h a => Sys2Proof.Machine.execMclrs h a s
  | .mtm h d a => Sys2Proof.Machine.execMtm h d a s
  | .mtmRd h d a => Sys2Proof.Machine.execMtmRd h d a s
  | .mtmgSet h d a n => Sys2Proof.Machine.execMtmgSet h d a n s
  | .mtmgClr h d a n => Sys2Proof.Machine.execMtmgClr h d a n s
  | .msync h => Sys2Proof.Machine.execMsync h s
  | .cpy h d a b out l bc bar => Sys2Proof.Machine.execCpy h d a b out l bc bar s
  | .cpyq h d a b => Sys2Proof.Machine.execCpyq h d a b s
  | .gath h mty raw d a b mask => Sys2Proof.Machine.execGath h mty raw d a b mask s
  | .scat h mty raw d a b mask => Sys2Proof.Machine.execScat h mty raw d a b mask s
  | .scadd h ty d a b mask => Sys2Proof.Machine.execScadd h ty d a b mask s
  | .rbar h ty scope a b n => Sys2Proof.Machine.execRbar h ty scope a b n s
  | .ship h rout w u d a b c => Sys2Proof.Machine.execShip h rout w u d a b c s
  | .qpush h d a b disp => Sys2Proof.Machine.execQpush h d a b disp s
  | .qpop h d a b disp => Sys2Proof.Machine.execQpop h d a b disp s
  | .qpeek h d a b disp => Sys2Proof.Machine.execQpeek h d a b disp s
  | .qclose h a => Sys2Proof.Machine.execQclose h a s
  | .qstat h d a => Sys2Proof.Machine.execQstat h d a s
  | .chbind h d a => Sys2Proof.Machine.execChbind h d a s
  | .chstat h d a => Sys2Proof.Machine.execChstat h d a s
  | .semw h scope a b => Sys2Proof.Machine.execSemw h scope a b s
  | .sems h scope a b => Sys2Proof.Machine.execSems h scope a b s
  | .bar h scope l a b disp => Sys2Proof.Machine.execBar h scope l a b disp s
  | .trap h code => Sys2Proof.Machine.execTrap h code s
  | .sys h d a svc => Sys2Proof.Machine.execSys h d a svc s
  | .rfe h => Sys2Proof.Machine.execRfe h s
  | .cwget h d a idx => Sys2Proof.Machine.execCwget h d a idx s
  | .cwset h a b idx => Sys2Proof.Machine.execCwset h a b idx s
  | .feat h d => Sys2Proof.Machine.execFeat h d s
  | .exrd h d a idx => Sys2Proof.Machine.execExrd h d a idx s
  | .exwr h a b idx => Sys2Proof.Machine.execExwr h a b idx s
  | .exres h a fin => Sys2Proof.Machine.execExres h a fin s
  | .seed h a => Sys2Proof.Machine.execSeed h a s
  | .idle h d b => Sys2Proof.Machine.execIdle h d b s
  | .powerGood => Sys2Proof.Machine.execPowerGood s
  | .securityAlarm => Sys2Proof.Machine.execSecurityAlarm s
  | .refreshTakeover => Sys2Proof.Machine.execRefreshTakeover s
  | .narelFlitReplay => Sys2Proof.Machine.execNarelFlitReplay s
  | .narelPortDown => Sys2Proof.Machine.execNarelPortDown s
  | .powerPacing => Sys2Proof.Machine.execPowerPacing s
  | .notifyDmwr => Sys2Proof.Machine.execNotifyDmwr s
  | .notifyPostedWrite => Sys2Proof.Machine.execNotifyPostedWrite s
  | .pasidRevocation => Sys2Proof.Machine.execPasidRevocation s
  | .registerWrite => Sys2Proof.Machine.execRegisterWrite s
  | .intake => Sys2Proof.Machine.execIntake s
  | .start => Sys2Proof.Machine.execStart s
  | .layout => Sys2Proof.Machine.execLayout s
  | .format => Sys2Proof.Machine.execFormat s
  | .cancel => Sys2Proof.Machine.execCancel s
  | .placement => Sys2Proof.Machine.execPlacement s
  | .urgentPlacement => Sys2Proof.Machine.execUrgentPlacement s
  | .frondStart => Sys2Proof.Machine.execFrondStart s
  | .readyListPlace => Sys2Proof.Machine.execReadyListPlace s
  | .stealRead => Sys2Proof.Machine.execStealRead s
  | .stealCas => Sys2Proof.Machine.execStealCas s
  | .stealPassRetry => Sys2Proof.Machine.execStealPassRetry s
  | .balancerInterval => Sys2Proof.Machine.execBalancerInterval s
  | .balancerMove => Sys2Proof.Machine.execBalancerMove s
  | .coreRebind => Sys2Proof.Machine.execCoreRebind s
  | .dequeTransfer => Sys2Proof.Machine.execDequeTransfer s
  | .streamSourcePush => Sys2Proof.Machine.execStreamSourcePush s
  | .streamSinkWrite => Sys2Proof.Machine.execStreamSinkWrite s
  | .icacheFill => Sys2Proof.Machine.execIcacheFill s
  | .pageWalkDone => Sys2Proof.Machine.execPageWalkDone s
  | .resultLanding => Sys2Proof.Machine.execResultLanding s
  | .storePerformed => Sys2Proof.Machine.execStorePerformed s
  | .storeAck => Sys2Proof.Machine.execStoreAck s
  | .crossDieStoreApply => Sys2Proof.Machine.execCrossDieStoreApply s
  | .migrate => Sys2Proof.Machine.execMigrate s
  | .migrationArrival => Sys2Proof.Machine.execMigrationArrival s
  | .fillPick => Sys2Proof.Machine.execFillPick s
  | .lineArrival => Sys2Proof.Machine.execLineArrival s
  | .fillLanding => Sys2Proof.Machine.execFillLanding s
  | .fillFailure => Sys2Proof.Machine.execFillFailure s
  | .copyComplete => Sys2Proof.Machine.execCopyComplete s
  | .cpyqPush => Sys2Proof.Machine.execCpyqPush s
  | .matrixWordComplete => Sys2Proof.Machine.execMatrixWordComplete s
  | .channelFlitDelivery => Sys2Proof.Machine.execChannelFlitDelivery s
  | .syncResend => Sys2Proof.Machine.execSyncResend s
  | .felimitTimeout => Sys2Proof.Machine.execFelimitTimeout s
  | .sleepEnd => Sys2Proof.Machine.execSleepEnd s
  | .swapRequest => Sys2Proof.Machine.execSwapRequest s
  | .urgentQuantumEnd => Sys2Proof.Machine.execUrgentQuantumEnd s
  | .swapBack => Sys2Proof.Machine.execSwapBack s
  | .gangSuspend => Sys2Proof.Machine.execGangSuspend s
  | .gangResume => Sys2Proof.Machine.execGangResume s
  | .hang => Sys2Proof.Machine.execHang s
  | .supervisorMessage => Sys2Proof.Machine.execSupervisorMessage s
  | .frondhalt => Sys2Proof.Machine.execFrondhalt s
  | .handlerEntry => Sys2Proof.Machine.execHandlerEntry s
  | .faultDomainEnd => Sys2Proof.Machine.execFaultDomainEnd s
  | .featureMigrate => Sys2Proof.Machine.execFeatureMigrate s
  | .jobRetirement => Sys2Proof.Machine.execJobRetirement s
  | .sysAnswer => Sys2Proof.Machine.execSysAnswer s
  | .idleWake => Sys2Proof.Machine.execIdleWake s
  | .hostCxlMemAccess => Sys2Proof.Machine.execHostCxlMemAccess s
  | .status => Sys2Proof.Machine.execStatus s
  | .loadfw => Sys2Proof.Machine.execLoadfw s
  | .attest => Sys2Proof.Machine.execAttest s
  | .setpkg => Sys2Proof.Machine.execSetpkg s
  | .inval => Sys2Proof.Machine.execInval s
  | .xlans => Sys2Proof.Machine.execXlans s
  | .poison => Sys2Proof.Machine.execPoison s
  | .setthr => Sys2Proof.Machine.execSetthr s
  | .clrcnt => Sys2Proof.Machine.execClrcnt s
  | .mailboxDone => Sys2Proof.Machine.execMailboxDone s
  | .reductionMergeDone => Sys2Proof.Machine.execReductionMergeDone s
  | .matrixCheckPoint => Sys2Proof.Machine.execMatrixCheckPoint s

end Sys2Proof.Machine
end

