-- ==== Sys2Proof/Machine/Schedule.lean ====
section
/-! DEFINITION. What happens in a cycle and in which order (log entries 2, 25): the issue chances of R116, then the
events and the turns that are no row of the opcode table, and at last the next cycle. -/

namespace Sys2Proof.Machine

/-! ## Issue chances -/

/-- The bank of a frond is active: a main bank that is not Frozen, or a shadow bank from cycle t + 32 (R131). -/
def bankActive (s : State) (f : Frond) : Bool :=
  if f.urgent then
    match (getCore s f.pcid).urgent with
    | some u => match u.t with
      | some t => decide (t + 32 ≤ s.clk)
      | none => false
    | none => false
  else !frozenAt (getCore s f.pcid) s.clk

/-- The slot of a frond has its issue chance in this cycle (R116), and has not been offered it. -/
def hasChance (s : State) (f : Frond) : Bool :=
  match f.loc with
  | .slot n => n % 16 == s.clk % 16 && !s.offered.contains f.uid
  | _ => false

/-- A frond uses its issue chance in this cycle (R116, R118, R438). -/
def issues (s : State) (f : Frond) : Bool :=
  hasChance s f && f.wait == .run && !f.swMark && decide (f.notBefore ≤ s.clk) && bankActive s f && mayRun s f
    && s.mgmt.state == .operational

/-- Of two fronds the one on the lower core, then in the lower slot. -/
def issueOrder (a b : Frond) : Bool :=
  decide (a.pcid < b.pcid) || (a.pcid == b.pcid && decide (slotNum a ≤ slotNum b))

/-- The frond whose issue chance comes next in this cycle. -/
def nextIssue (s : State) : Option Frond := (sortBy issueOrder (s.fronds.filter (issues s))).head?

/-- The frond at issue is back in the state, in the order of the fronds' names. -/
def settleIssue (s : State) : State :=
  match s.issuing with
  | some f => { s with issuing := none, fronds := insertBy (fun a b => decide (a.uid ≤ b.uid)) f s.fronds }
  | none => s

/-- A frond is at issue: it is out of the state, and its chance has been used. -/
def takeChance (s : State) (f : Frond) : State :=
  { s with offered := f.uid :: s.offered, fronds := delFirst (fun x => x.uid == f.uid) s.fronds, issuing := some f }

/-- An outcome with its next state changed. -/
def mapNext (g : State → State) : Host.Outcome State Fault Refusal → Host.Outcome State Fault Refusal
  | .next s => .next (g s)
  | .fault r => .fault r
  | .refused r => .refused r

/-- An event happens to its subject. -/
def happen (s : State) (o : Occur) : Host.Outcome State Fault Refusal :=
  mapNext (fun t => { t with subject := .none }) (exec o.ev { s with subject := o.subject })

/-- A pending cause is taken at the issue chance of a frond (R370). -/
def takePending (s : State) (f : Frond) (c : Cause) : Host.Outcome State Fault Refusal :=
  happen { s with offered := f.uid :: s.offered }
    { ev := if hasHandler s f c then .handlerEntry else .frondhalt, subject := .frond f.uid }

/-- The issue chance of a frond (R99): a pending cause, the fetch, or the word at its PC. A precise cause of another word,
to which the frond has not come back, is gone with it (R370). -/
def issueChance (s : State) (f : Frond) : Host.Outcome State Fault Refusal :=
  match nextCause s f with
  | some (c, _) => takePending s f c
  | none =>
    let t := takeChance s f
    let put := fun (r : State × Frond) => refreshSpent (settleIssue { r.1 with issuing := some r.2 }) f.pcid
    if 2 ^ 56 < f.pc + 12 then .next (put (takeCause { t with issuing := none } f causeXLATE f.pc f.pc 0))
    else
      match absentLine s f with
      | some (line, va) => .next (put (fetchMiss { t with issuing := none } f line va))
      | none =>
        match (fetchedWord s f).map decodeNat with
        | some (.ok i) => mapNext settleIssue (exec i (takeChance s (dropCause f)))
        | _ => .next { s with offered := f.uid :: s.offered }

/-! ## Events -/

/-- The events that only the world outside the machine's rules brings about, in the order of `inputs` (log entry 6). -/
def isInput : Instr → Bool
  | .powerGood => true
  | .securityAlarm => true
  | .refreshTakeover => true
  | .narelFlitReplay => true
  | .powerPacing => true
  | .notifyDmwr => true
  | .notifyPostedWrite => true
  | .pasidRevocation => true
  | .registerWrite => true
  | .placement => true
  | .urgentPlacement => true
  | .hostCxlMemAccess => true
  | _ => false

/-- An input: one of those events, an uncorrectable error found in a granule, or the job of a failed package that comes to this
one (R446, R447; log entries 6, 68, 73, 105). -/
def isInputOf (o : Occur) : Bool :=
  isInput o.ev || match o.ev, o.subject with
    | .poison, .granule _ => true
    | .poison, .lsGranule _ => true
    | .gangResume, .spare _ => true
    | _, _ => false

/-- One subject with each of some events. -/
def each (subject : Subject) (evs : List Instr) : List Occur := evs.map (fun e => { ev := e, subject := subject })

/-- The events of a core. -/
def coreOccurs (c : Core) : List Occur :=
  each (.bank c.pcid false) [.frondStart, .readyListPlace] ++ each (.bank c.pcid true) [.frondStart, .readyListPlace]
    ++ each (.core c.pcid) [.stealRead, .stealCas, .stealPassRetry, .balancerMove, .coreRebind, .dequeTransfer, .fillPick
                           , .fillLanding, .fillFailure, .urgentQuantumEnd, .swapBack]
    ++ (match c.fill with
      | some x => x.lines.flatMap (fun l => each (.line c.pcid l) [.lineArrival])
      | none => [])

/-- The events of a frond. -/
def frondOccurs (f : Frond) : List Occur :=
  each (.frond f.uid) [.migrate, .migrationArrival, .syncResend, .sleepEnd, .faultDomainEnd, .featureMigrate
                      , .sysAnswer, .idleWake]
    ++ (List.range f.chans.length).flatMap (fun n => each (.port f.uid n) [.channelFlitDelivery])

/-- The events of a flight. -/
def flightOccurs (g : Flight) : List Occur :=
  each (.object g.id) [.resultLanding, .storeAck, .felimitTimeout]
    ++ (List.range g.elems.length).flatMap (fun k => each (.element g.id k) [.storePerformed, .crossDieStoreApply])

/-- The events of a job. -/
def jobOccurs (j : Job) : List Occur :=
  each (.job j.jid) [.gangSuspend, .gangResume, .hang, .jobRetirement]
    ++ (List.range j.msgs.length).flatMap (fun k => each (.element j.jid k) [.supervisorMessage])
    ++ j.pipes.zipIdx.flatMap (fun p => each (.pipe j.jid p.2) [.balancerInterval]
      ++ (List.range p.1.queues.length).flatMap (fun q =>
        each (.queue j.jid p.2 q) [.streamSourcePush, .streamSinkWrite]))

/-- The events of an engine. -/
def engineOccurs (e : Engine) : List Occur :=
  each (.engine e.tile false) [.matrixWordComplete] ++ each (.engine e.tile true) [.matrixWordComplete]
    ++ e.queue.flatMap (fun w => each (.engineWord e.tile w.id) [.matrixCheckPoint])

/-- Every event that the rules of the machine bring about, of every thing that it may happen to. -/
def ruleOccurs (s : State) : List Occur :=
  s.aqis.flatMap (fun a => each (.aqi a.n) [.intake, .start, .layout, .format, .cancel])
    ++ each .none [.status, .loadfw, .attest, .setpkg, .inval, .xlans, .poison, .setthr, .clrcnt, .mailboxDone]
    ++ s.jobs.flatMap jobOccurs ++ s.cores.flatMap coreOccurs ++ s.fronds.flatMap frondOccurs
    ++ s.flights.flatMap flightOccurs ++ s.engines.flatMap engineOccurs
    ++ s.copies.flatMap (fun c => each (.object c.id) [.copyComplete]
      ++ c.lines.flatMap (fun l => each (.element c.id l) [.lineArrival]))
    ++ s.copyqs.flatMap (fun c => each (.object c.id) [.cpyqPush])
    ++ s.phases.flatMap (fun p => each (.object p.id) [.reductionMergeDone])
    ++ s.walks.flatMap (fun w => each (.object w.id) [.pageWalkDone])
    ++ s.ifills.flatMap (fun x => each (.iline x.tile x.jid x.line) [.icacheFill])
    ++ s.swaps.flatMap (fun x => each (.swap x.pcid x.jid) [.swapRequest])
    ++ s.replays.flatMap (fun x => each (.narel (x.1 / 16) (x.1 % 16)) [.narelPortDown])

/-- Events that happen in the first cycle in which they can (R76, R79, R82, R83, R121, R133, R160, R236, R348, R381,
R387, R445). -/
def isDue : Instr → Bool
  | .frondStart => true
  | .readyListPlace => true
  | .fillPick => true
  | .sleepEnd => true
  | .felimitTimeout => true
  | .hang => true
  | .swapBack => true
  | .urgentQuantumEnd => true
  | .balancerInterval => true
  | .balancerMove => true
  | .stealPassRetry => true
  | .narelPortDown => true
  | _ => false

/-- An outcome other than a refusal. -/
def happens : Host.Outcome State Fault Refusal → Bool
  | .refused _ => false
  | _ => true

/-! ## Turns that are no row of the opcode table -/

/-- An element of a load, or of another operation that only reads, is performed (R319, R292). -/
def performRead (s : State) (id k : Nat) : Option State :=
  performIf s id k (fun g _ => g.op.quiet && match g.op with
    | .operand _ => operandMayRead s g
    | _ => true)

/-- An `exit` that has issued, or a `join` that ends its frond, can go on (R157, R158). -/
def exitReady (s : State) (f : Frond) : Bool :=
  (f.wait == .exiting || f.wait == .joined) && f.outs.isEmpty
    && ((f.wait == .exiting && !f.hnd && !f.storeErrs.isEmpty) ||
    match (List.range 4).find? (fun w => (viewOf f w).isSome) with
    | some w => match viewOf f w with
      | some d => viewReleased s f w d
      | none => true
    | none => true)

/-- The stores of the head word of an engine set out (R301). -/
def headStores (s : State) (tile : Nat) (urgent : Bool) : Option State :=
  (headWord s tile urgent).bind (startStores s tile)

/-- A step of the machine that is no row of the opcode table. -/
inductive Quiet where
  /-- Element `k` of a flight that reads. -/
  | read (id k : Nat)
  /-- An `exit`, or a `join` that ends its frond, goes on. -/
  | exit (uid : Nat)
  /-- The entries of view register `w` of a frond that has ended leave the catalogues. -/
  | drop (uid w : Nat)
  /-- A blocked request takes its place at a home port. -/
  | request (id : Nat)
  /-- The stores of `mst` set out. -/
  | stores (tile : Nat) (urgent : Bool)
  /-- A main bank is active again. -/
  | thaw (pcid : Nat)
  /-- A fill of an instruction line reads piece `k` of it (R93). -/
  | code (tile jid line k : Nat)
  /-- A copy out of local store writes piece `k` of its region (R319). -/
  | out (id k : Nat)
  /-- A copy reads piece `k` of its source (R319). -/
  | fetch (id k : Nat)
  /-- The element at bit `4 * b` of operand line `k` of a flight is read before the rest of its line (R319). -/
  | operand (id k b : Nat)
  /-- Piece `k` of the oldest completion record on its way is written (R405). -/
  | record (k : Nat)
  /-- A phase merges element `k` (R275, R319). -/
  | merge (id k : Nat)
  /-- What a core has stolen comes to it (R80). -/
  | stolen (pcid : Nat)
  deriving DecidableEq, Repr

/-- What a quiet step does; none when it cannot happen. -/
def quietStep (s : State) : Quiet → Option State
  | .read id k => performRead s id k
  | .exit uid => (findFrond s uid).bind (fun f => if exitReady s f then some (exitGo s uid) else none)
  | .drop uid w => if deadViewReady s uid w then some (dropEntries s uid w) else none
  | .request id => portArrival s id
  | .stores tile urgent => headStores s tile urgent
  | .thaw pcid => thaw s pcid
  | .code tile jid line k => readAhead s tile jid line k
  | .out id k => movePiece s id k
  | .fetch id k => fetchPiece s id k
  | .operand id k b => readOperand s id k b
  | .record k => recordPiece s k
  | .merge id k => mergeOne s id k
  | .stolen pcid => stolenLands s pcid

/-- Every quiet step, of every thing that it may happen to. -/
def quiets (s : State) : List Quiet :=
  s.flights.flatMap (fun g => Quiet.request g.id :: (List.range g.elems.length).map (Quiet.read g.id))
    ++ s.fronds.map (fun f => Quiet.exit f.uid) ++ s.catalogue.map (fun e => Quiet.drop e.uid e.w)
    ++ s.engines.flatMap (fun e => [Quiet.stores e.tile false, Quiet.stores e.tile true])
    ++ s.cores.flatMap (fun c => [Quiet.thaw c.pcid, Quiet.stolen c.pcid])
    ++ s.ifills.flatMap (fun x => (List.range 32).map (Quiet.code x.tile x.jid x.line))
    ++ s.copies.flatMap (fun c => (copyLeft c).map (Quiet.out c.id) ++ (copyPieces c).map (Quiet.fetch c.id))
    ++ s.flights.flatMap (fun g => match g.op with
      | .operand _ => (List.range g.elems.length).flatMap (fun k => (List.range 256).map (Quiet.operand g.id k))
      | _ => [])
    ++ (List.range 4).map Quiet.record
    ++ (s.phases.filter (merging s)).flatMap (fun p => (mergeLeft p).map (Quiet.merge p.id))

/-! ## The next cycle -/

/-- A frond of a job is Frozen, or the job is suspended (R382). -/
def held (s : State) (jid : Nat) : Bool :=
  s.fronds.any (fun f => f.jid == jid && isFrozen s f)
    || ((findJob s jid).map (fun j => phaseCode j.phase != 0)).getD false

/-- The HANG message of a job has been taken from its slot, which lies in the image while the job is suspended (R384,
R387). -/
def hangMsgTaken (s : State) (j : Job) : Bool :=
  j.hangSent && !j.msgs.any (fun m => m.kind == 1) && match windowOk s j.jid j.supv with
    | some (p, o) => !syncFull s (p * 2 ^ 20 + o)
    | none => !j.inImage

/-- A job at the end of a cycle: the hang window starts anew when a condition of it failed (R387). -/
def tickJob (s : State) (j : Job) : Job :=
  let j := if hangMsgTaken s j then { j with hangSent := false, progress := s.clk } else j
  if hangQuiet s j then j else { j with progress := s.clk }

/-- A flight at the end of a cycle. A `join` whose waits are over sets out for its counter (R157, R450); Frozen cycles do
not count toward a timeout (R382). -/
def tickFlight (s : State) (g : Flight) : Flight :=
  if g.op == .join && g.first.isNone && joinReady s g then { g with first := some s.clk, due := Nat.max g.due s.clk }
  else if g.first.isSome && held s g.jid then { g with frozen := g.frozen + 1 }
  else g

/-- A waiter at the end of a cycle: cycles of its bank's freeze do not count (R132, R236). -/
def tickWaiter (s : State) (w : Waiter) : Waiter :=
  if ((findFrond s w.uid).map (isFrozen s)).getD false then { w with frozen := w.frozen + 1 } else w

/-- A core at the end of a cycle. -/
def tickCore (s : State) (c : Core) : Core :=
  { c with holds := c.holds.map (fun q => { q with waiters := q.waiters.map (tickWaiter s) }) }

/-- The next cycle begins. -/
def tick (s : State) : State :=
  { s with clk := s.clk + 1, offered := [], arrivals := [], jobs := s.jobs.map (tickJob s), flights := s.flights.map (tickFlight s)
           cores := s.cores.map (tickCore s) }

/-! ## The step -/

/-- What may happen next, once the issue chances of a cycle are over. -/
inductive Turn where
  | input (o : Occur) (rest : List Occur)
  | event (o : Occur)
  | quiet (q : Quiet)
  | tick
  deriving DecidableEq, Repr

/-- A turn is taken. -/
def take (s : State) : Turn → Host.Outcome State Fault Refusal
  | .input o rest => happen { s with inputs := rest } o
  | .event o => happen s o
  | .quiet q => match quietStep s q with
    | some t => .next t
    | none => .next s
  | .tick => .next (tick s)

/-- The next input, when it can happen. -/
def inputTurns (s : State) : List Turn :=
  match s.inputs with
  | o :: rest => if isInputOf o && happens (happen { s with inputs := rest } o) then [.input o rest] else []
  | [] => []

/-- A turn that must be taken in this cycle. -/
def Turn.due : Turn → Bool
  | .event o => isDue o.ev
  | .quiet (.thaw _) => true
  | .quiet (.stolen _) => true
  | _ => false

/-- The turns that may be taken now. -/
def turns (s : State) : List Turn :=
  let now := inputTurns s ++ ((ruleOccurs s).filter (fun o => happens (happen s o))).map Turn.event
    ++ ((quiets s).filter (fun q => (quietStep s q).isSome)).map Turn.quiet
  if now.any Turn.due then now else .tick :: now

/-- One of the turns that may be taken, by a free choice when there are several (log entry 2). -/
def chooseTurn (s : State) : Host.Outcome State Fault Refusal :=
  match turns s with
  | [] => .next (tick s)
  | [t] => take s t
  | t :: ts => take { s with choices := s.choices + 1 } ((t :: ts).getD (Config.pick s.choices % (t :: ts).length) t)

/-- One step: the next issue chance of the cycle, or else a turn. -/
def oneStep (s : State) : Host.Outcome State Fault Refusal :=
  match nextIssue s with
  | some f => issueChance s f
  | none => chooseTurn s

/-! ## A word placed for the next step -/

/-- PC of a placed word. -/
abbrev placedPc : Nat := 0x1000

/-- The stage of a placed word. -/
def placedStage : Stage :=
  { snum := 0, regs := 128, cmin := 1, cmax := 1, carr := 4, holdb := 16384, deq := 256, feat := 1, fdom := 0
    traph := 0, supv := 0, entry := placedPc, fed := none, n0 := 1, n1 := 1, n2 := 1, args := []
    asked := [128, 1, 1, 4, 16384, 256], completed := false }

/-- The job of a placed word: running, on core 0. -/
def placedWordJob (s : State) (jid : Nat) : Job :=
  { jid := jid, aqi := 0, pasid := 0, pent := 0, cpent := 0, urgent := false, phase := .running, prio := 2, order := 0
    accepted := s.clk, cra := 0, tag := 0, irq := false, vec := 0, seed := 0, layn := 0, layouts := []
    fmts := List.replicate 16 0, wset := [], lone := 65536, askedLone := 65536, supv := 0, clamp := false
    pipes := [{ stages := [placedStage], queues := [], bint := 16, himark := 192, lomark := 64, moves := 8
                asked := [16, 192, 64, 8], placedAt := s.clk, intervals := 0 }]
    cores := [0], lsImage := [], quantum := 4800000, ferl := 1024, fet := 2 ^ 24, hangk := 20, errors := 0, flt := 0
    satSum := 0, infSum := 0, nanSum := 0, items := 1, progress := s.clk, hangSent := false, snapshot := [], msgs := []
    delivered := [] }

/-- The frond of a placed word, in the slot of core 0 that has its chance in this cycle. -/
def placedFrond (s : State) (jid : Nat) : Frond :=
  { uid := s.fresh, fid := 0, jid := jid, pl := 0, stage := 0, urgent := false, control := false, pcid := 0
    loc := .slot (s.clk % 16), record := 0, base := 0, regs := 128, g := List.replicate 128 0, pc := placedPc, preds := 0
    flags := 0, hnd := false, rooted := true, entryDepth := 0, loops := [], epc := 0, ecause := 0, einfo := 0
    sseed := 0, ix := 0, views := List.replicate 4 none, outs := [], held := [], heldPc := 0, heldH := []
    heldHPc := 0, chans := List.replicate 8 Chan.unboundPort, wait := .run, notBefore := 0, claims := []
    lastWalk := none, late := [], storeErrs := [], cause := none, swMark := false, errWait := false, since := s.clk
    seq := s.fresh, feed := none, halt := none }

/-- Core 0 bound to the placed job. -/
def placedCore (jid : Nat) : Core :=
  { Core.fresh 0 with
      bind := some { jid := jid, pl := 0, stage := 0 }, carrels := List.replicate 4 Carrel.none
      holdOff := lsSize - 4 * blockSize - 16384, holdLen := 16384
      dequeOff := lsSize - 4 * blockSize - 16384 - 8192, dequeLen := 8192
      segOff := lsSize - 4 * blockSize - 16384 - 8192 }

/-- A state in which the next step issues the instruction with bits `w`: an operational part whose core 0 runs a job of
one frond, with the instruction in its tile's instruction cache (log entry 26). -/
def placeWord (s : State) (nbits w : Nat) : State :=
  let jid := nextJid s (s.jobs.length + s.records.length + 1) s.lastJid
  let line : ILine := { tile := 0, jid := jid, line := placedPc
                        bytes := bytesOfWord 12 (w % 2 ^ nbits) ++ List.replicate 116 0 }
  let others := s.fronds.filter (fun f => f.pcid != 0)
  let s := updEngine (setCore s (placedCore jid)) 0 (fun e => { e with owner := some jid, mainJob := some jid })
  { s with
      mgmt := { s.mgmt with state := .operational, dark := false }
      jobs := s.jobs ++ [placedWordJob s jid], lastJid := jid, fresh := s.fresh + 1, issuing := none
      offered := others.map (fun f => f.uid), fronds := others ++ [placedFrond s jid], ilines := line :: s.ilines }

end Sys2Proof.Machine
end

