-- ==== Sys2Proof/Machine/Step.lean ====
section
/-! DEFINITION. The step, and the placing of an instruction where the next step fetches it. -/

namespace Sys2Proof.Machine

/-- One step of the machine: the issue chance, the event or the new cycle that comes next. -/
def step (s : State) : Host.Outcome State Fault Refusal := Sys2Proof.Machine.oneStep s

/-- The state with the instruction whose bits are `w` at the PC of a frond that has its issue chance. -/
def State.withFetchWord (s : State) (nbits w : Nat) : State := Sys2Proof.Machine.placeWord s nbits w

end Sys2Proof.Machine
end

