-- ==== Sys2Proof/Safety.lean ====
section
/-! DEFINITION. The words in which statements speak of a run: what a safe run is, what a word at issue finds, and
what a word that completes leaves. -/

namespace Sys2Proof.Machine

/-! ## Safe runs -/

/-- Memory and its sets are in their canonical form: the bytes of the local stores, HBM and the host, the empty
words, the marks of uncorrectable granules, the format map, the access counters and the marks of local-store granules. -/
abbrev Memory.wf (s : State) : Prop :=
  mapWf 0 s.ls ∧ mapWf 0 s.hbm ∧ mapWf 0 s.host ∧ setWf s.empties ∧ setWf s.poison ∧ mapWf 0 s.fmtMap
    ∧ mapWf 0 s.counters ∧ setWf s.lsPoison

/-- `n` steps lead from `s` to `t`. -/
def Steps : Nat → State → State → Prop
  | 0, s, t => s = t
  | n + 1, s, t => ∃ m, step s = .next m ∧ Steps n m t

/-- A run from `s` is safe when every state that it reaches has a next state. -/
def Safe (s : State) : Prop := ∀ n t, Steps n s t → ∃ u, step t = .next u

/-! ## Rounding to binary32, said of its two neighbours -/

/-- The magnitude of a binary32 pattern without its sign (R163) in units of 2^-149, with 2^128 for that of infinity. -/
def f32Units (p : Nat) : Nat := if p < 2 ^ 23 then p else (2 ^ 23 + p % 2 ^ 23) * 2 ^ (p / 2 ^ 23 - 1)

/-- The signed magnitude of a binary32 pattern in units of 2^-149. -/
def f32Signed (p : BitVec 32) : Int :=
  if p.msb then -(f32Units (p.toNat % 2 ^ 31) : Int) else f32Units (p.toNat % 2 ^ 31)

/-- A magnitude against a / b: less, equal or greater. -/
def magAgainst (x : Mag) (a b : Nat) : Ordering :=
  if x.root then compare (x.num * b ^ 2) (a ^ 2 * x.den) else compare (x.num * b) (a * x.den)

/-- R172: whether a magnitude from lo / d up to hi / d, two neighbours, goes to the upper one. `odd` says that the lower one is
an odd number of quanta. -/
def goesUp (mode rnd : Nat) (neg odd : Bool) (x : Mag) (lo hi d : Nat) : Bool :=
  match mode with
  | 0 => magAgainst x (lo + hi) (2 * d) == .gt || (magAgainst x (lo + hi) (2 * d) == .eq && odd)
  | 1 => false
  | 2 => magAgainst x lo d == .gt && !neg
  | 3 => magAgainst x lo d == .gt && neg
  | _ => magAgainst x (65536 * lo + (65536 - rnd) * (hi - lo)) (65536 * d) != .lt

/-- R172, R175 and R176 for binary32: `r` is what the magnitude `x`, in units of 2^-149, rounds to with the sign `neg`. Between
two neighbouring patterns it is the one that the mode chooses. FNX is set when it differs from `x`, FUF too when `x` is tiny,
which is so when the exponent unbounded below would give less than 2^-126, and FOF when it is past the greatest. From 2^128
on, the mode chooses between infinity and the greatest. -/
def RoundsTo (mode rnd : Nat) (neg : Bool) (x : Mag) (r : FRes) : Prop :=
  let sign := if neg then 2 ^ 31 else 0
  (∀ p, p < 0x7F800000 → magAgainst x (f32Units p) 1 ≠ .lt → magAgainst x (f32Units (p + 1)) 1 = .lt →
    let up := goesUp mode rnd neg (decide (p % 2 = 1)) x (f32Units p) (f32Units (p + 1)) 1
    let q := if up then p + 1 else p
    let inexact : Bool := magAgainst x (f32Units p) 1 == .gt
    let tiny : Bool := decide (p < 2 ^ 23)
      && !(magAgainst x (2 ^ 24 - 1) 2 != .lt && goesUp mode rnd neg true x (2 ^ 24 - 1) (2 ^ 24) 2)
    r = (sign + q, (if inexact then flagFNX else 0) ||| (if inexact && tiny then flagFUF else 0)
      ||| (if q = 0x7F800000 then flagFOF else 0)))
  ∧ (magAgainst x (f32Units 0x7F800000) 1 ≠ .lt →
    r = (sign + (if mode = 1 ∨ (mode = 2 ∧ neg = true) ∨ (mode = 3 ∧ neg = false) then 0x7F7FFFFF else 0x7F800000),
      flagFOF ||| flagFNX))

/-- What an exact signed sum of `k / d` units rounds to: where it is 0 its sign is that of both operands, or where they differ
+0, and −0 by RDN. -/
def SumRoundsTo (mode rnd : Nat) (k : Int) (d : Nat) (neg1 neg2 : Bool) (r : FRes) : Prop :=
  if k = 0 then r = (if (neg1 && neg2) || ((neg1 != neg2) && mode == 3) then 2 ^ 31 else 0, 0)
  else RoundsTo mode rnd (decide (k < 0)) { num := k.natAbs, den := d, root := false } r

/-! ## What a word at issue finds -/

/-- The machine without the frond at issue. -/
def aside (s : State) : State := { s with issuing := none }

/-- A frond is at issue with a word of hints `h`: its guard is true, its guard predicate is not outstanding, and it
holds no operand of a word that did not issue. -/
structure AtIssue (s : State) (f : Frond) (h : Hints) : Prop where
  at_ : s.issuing = some f
  guard : f.pred h.gq.toNat ≠ h.gn
  settled : outPred f h.gq.toNat = false
  held : f.held = []
  heldH : f.heldH = []

/-- The word at the PC is the last word of the innermost hardware loop that the end test looks at (R153, R372). -/
def endsPass (f : Frond) : Bool :=
  match f.loops.getLast? with
  | none => false
  | some l => !(f.hnd && decide (f.loops.length ≤ f.entryDepth)) && f.pc == (l.start + 12 * (l.blen - 1)) % 2 ^ 56

/-- What a scalar source that is no port reads (R110): none where the field is refused, and none where the register
is the destination of an outstanding result (R127). -/
def srcVal (s : State) (f : Frond) (o : Opnd) : Option Word :=
  match operandOf o with
  | .reg n => if n < f.regs ∧ outReg f n = false then some (f.reg n) else none
  | .imm x => some x
  | .zero => some 0
  | .special n => some (readSpecial { f := f, s := aside s, flags := 0 } n)
  | _ => none

/-- What operand B reads (R103). -/
def srcValB (s : State) (f : Frond) : SrcB → Option Word
  | .fld o => srcVal s f o
  | .wide i => some (i.signExtend 64)

/-- A scalar destination that is no port is admitted (R110), and is not outstanding (R127). -/
def dstOk (f : Frond) (o : Opnd) : Bool :=
  match operandOf o with
  | .reg n => decide (n < f.regs) && !outReg f n
  | .zero => true
  | .special n => specialWritable n
  | _ => false

/-- The frond with a scalar destination written (R110): `zero` discards, and a write to `fst` clears flags. -/
def putDst (f : Frond) (o : Opnd) (x : Word) : Frond :=
  match operandOf o with
  | .reg n => { f with g := f.g.set n x }
  | .special 0xD9 => { f with epc := x }
  | .special 0xDA => { f with ecause := x }
  | .special 0xDB => { f with einfo := x }
  | .special 0xDC => fstWrite f x
  | _ => f

/-! ## What a word that completes leaves -/

/-- The state after a word has completed: the frond `f` at issue with PC `pc`, once the hints have acted and the
spent order of its core has been brought up to date. -/
def retired (s : State) (f : Frond) (h : Hints) (pc : Nat) : State :=
  let g := switchMark h { lastUse h { f with errWait := false } with pc := pc }
  refreshSpent { s with issuing := some g } g.pcid

/-- The machine beside a frond whose word issues: its slot is no longer owed the vector pipe (R122). -/
def issued (s : State) (f : Frond) : State := notOwed (aside s) f

/-- The PC of the next word. -/
def nextPc (f : Frond) : Nat := (f.pc + 12) % 2 ^ 56

/-- The answers of `exec`. -/
abbrev Answer := Host.Outcome State Fault Refusal

/-- The end of a word, as fetched in `word`, that has issued whole and transfers nothing, beside the machine `t`, whose
frond has become `g` (R96, R98, R153): the PC moves to the next word, unless the word ends a pass of the innermost
hardware loop. A counted loop that has made its passes ends; a loop at its most passes ends and raises LOOPTRIP past its
body; any other begins its next pass. -/
def moves (t : State) (g : Frond) (h : Hints) (word : Nat) : Answer :=
  match endsPass g, g.loops.getLast? with
  | true, some l =>
    let out : Frond := { g with loops := g.loops.dropLast }
    if l.while_ = false ∧ l.count ≤ l.pass then .next (retired t out h (nextPc g))
    else if l.pass ≠ l.maxt then
      .next (retired t { g with loops := out.loops ++ [{ l with pass := l.pass + 1 }] } h l.start)
    else
      let past : Frond := { lastUse h { out with errWait := false } with pc := nextPc g }
      let r := takeCause t past causeLOOPTRIP (out.loops.length * 2 ^ 56 + l.start) (nextPc g) word
      let x := switchMark h r.2
      .next (refreshSpent { r.1 with issuing := some x } x.pcid)
  | _, _ => .next (retired t g h (nextPc g))

/-- The word at the PC of a frond, as fetched. -/
def wordOf (s : State) (f : Frond) : Nat := (fetchedWord (aside s) f).getD 0

/-- The word of the frond `f` completes in sequence (R153): the frond becomes `g` but for its hints and the end of its
pass, and nothing beside it changes. -/
def completes (s : State) (f g : Frond) (h : Hints) : Answer := moves (issued s f) g h (wordOf s f)

/-- The word of the frond `f` completes as a transfer to `pc`. -/
def transfers (s : State) (f g : Frond) (h : Hints) (pc : Nat) : Answer := .next (retired (issued s f) g h pc)

/-- The word of the frond `f` raises cause `code` with `info` at its own PC, and has no other effect (R99, R369). -/
def traps (s : State) (f : Frond) (code info : Nat) : Answer :=
  let r := takeCause (issued s f) f code info f.pc ((fetchedWord (aside s) f).getD 0)
  .next (refreshSpent { r.1 with issuing := some r.2 } r.2.pcid)

/-- A predicate field that names a predicate register (R110), whose register is not outstanding (R127). -/
def predOk (f : Frond) (o : Opnd) : Prop := 0xB0 ≤ o.toNat ∧ o.toNat < 0xC0 ∧ outPred f (o.toNat - 0xB0) = false

/-- The predicate that a predicate field names. -/
def predVal (f : Frond) (o : Opnd) : Bool := f.pred (o.toNat - 0xB0)

/-- The frond with the predicate of a predicate field written. -/
def putPred (f : Frond) (o : Opnd) (b : Bool) : Frond := f.setPred (o.toNat - 0xB0) b

/-! ## Vector words -/

/-- What a vector source that is no port reads, as 512 bits (R110, R124). -/
def srcVec (f : Frond) (o : Opnd) : Option Nat :=
  match operandOf o with
  | .vec n => if 8 * n + 7 < f.regs ∧ outVec f n = false then some (f.vreg n) else none
  | .imm x => some (ofLanes (List.replicate 16 (x.toNat % 2 ^ 32)))
  | .zero => some 0
  | _ => none

/-- What vector operand B reads: a wide immediate goes to every lane (R200). -/
def srcVecB (f : Frond) : SrcB → Option Nat
  | .fld o => srcVec f o
  | .wide i => some (ofLanes (List.replicate 16 i.toNat))

/-- A vector destination that is no port is admitted (R110), and is not outstanding (R127). -/
def dstVecOk (f : Frond) (o : Opnd) : Bool :=
  match operandOf o with
  | .vec n => decide (8 * n + 7 < f.regs) && !outVec f n
  | .zero => true
  | _ => false

/-- The frond with a vector destination written with 512 bits. -/
def putVec (f : Frond) (o : Opnd) (x : Nat) : Frond :=
  match operandOf o with
  | .vec n => f.setVreg n x
  | _ => f

/-- Lane `l` of 512 bits (R124). -/
def lane (x l : Nat) : BitVec 32 := BitVec.ofNat 32 (x / 2 ^ (32 * l))

/-- The 512 bits of 16 lanes. -/
def fromLanes (g : Nat → BitVec 32) : Nat := ofLanes ((List.range 16).map (fun l => (g l).toNat))

/-- The core of the frond has the vector unit, and its quadrant's pipe takes a word of the frond now (R101, R122,
R436). -/
def VectorReady (s : State) (f : Frond) : Prop :=
  (featBits (aside s) f.pcid f.jid f.urgent).toNat.testBit 1 = true
    ∧ pipeRefuses (getCore (aside s) f.pcid) s.clk (slotNum f) = false ∧ (s.pacing = false ∨ f.urgent = true)

/-- The machine beside a frond whose vector word starts: the pipe is occupied in this cycle and the next three, and
the slot is no longer owed (R122). -/
def piped (s : State) (f : Frond) : State := notOwed (usePipe (aside s) f) f

/-- The vector word of the frond `f` completes in sequence. -/
def completesVec (s : State) (f g : Frond) (h : Hints) : Answer := moves (piped s f) g h (wordOf s f)

/-! ## Number words -/

/-- The random word of element `e` of a word of a frond (R173). -/
def randomWord (s : State) (f : Frond) (e : Nat) : Nat := rndOf (seedOf s f.jid) f.sseed e

/-- The frond with a scalar binary32 result written and its flags raised (R163, R189). -/
def putF32 (f : Frond) (o : Opnd) (r : FRes) : Frond :=
  putDst (raiseFlags f r.2) o (BitVec.ofNat 64 (r.1 % 2 ^ 32))

/-- The frond with a vector of binary32 results written and the flags of all lanes raised (R189). -/
def putF32s (f : Frond) (o : Opnd) (r : Nat → FRes) : Frond :=
  raiseFlags (putVec f o (fromLanes (fun l => BitVec.ofNat 32 (r l).1)))
    ((List.range 16).foldl (fun b l => b ||| (r l).2) 0)

/-! ## P-form words -/

/-- The result of the scalar half of a P-form word, at 64 bits, and its flags (R107, R138 to R142), by its group-0
index; `t` is the old destination. -/
def pairScalar (sop : Nat) (x y t : Word) : Word × BitVec 7 :=
  match sop with
  | 0 => (x + y, 0)
  | 1 => (x - y, 0)
  | 2 => (x * y, 0)
  | 3 => ((x.signExtend 128 * y.signExtend 128).extractLsb' 64 64, 0)
  | 4 => ((x.setWidth 128 * y.setWidth 128).extractLsb' 64 64, 0)
  | 5 => if y = 0 then (BitVec.allOnes 64, flagDZ) else (x.sdiv y, 0)
  | 6 => if y = 0 then (BitVec.allOnes 64, flagDZ) else (x / y, 0)
  | 7 => if y = 0 then (x, flagDZ) else (x.srem y, 0)
  | 8 => if y = 0 then (x, flagDZ) else (x % y, 0)
  | 9 => (x &&& y, 0)
  | 10 => (x ||| y, 0)
  | 11 => (x ^^^ y, 0)
  | 12 => (x &&& ~~~y, 0)
  | 13 => (x ||| ~~~y, 0)
  | 14 => (x <<< (y.toNat % 64), 0)
  | 15 => (x >>> (y.toNat % 64), 0)
  | 16 => (x.sshiftRight (y.toNat % 64), 0)
  | 17 => (x.rotateLeft (y.toNat % 64), 0)
  | 18 => (if x.sle y then x else y, 0)
  | 19 => (if x.sle y then y else x, 0)
  | 20 => (if x.ule y then x else y, 0)
  | 21 => (if x.ule y then y else x, 0)
  | 22 => (x.clz, 0)
  | 23 => (x.ctz, 0)
  | 24 => (x.cpop, 0)
  | 25 => (x.reverse, 0)
  | 26 => ((List.range 8).foldl (fun (r : Word) j =>
      r ||| (x >>> (8 * j) &&& 0xFF) <<< (56 - 8 * j)) 0, 0)
  | 30 => (x, 0)
  | _ => (t + x * y, 0)

/-- Lane `l` of the result of the vector half of a P-form word, and its flags (R108, R201 to R212), by VOP, TY and
RM; `e` gives the random words and `cid` is the logical core. -/
def pairVector (vop ty rm : Nat) (e : Nat → Nat) (cid x y z l : Nat) : FRes :=
  let a := lane x l
  let b := lane y l
  let int (r : BitVec 32) : FRes := (r.toNat, 0)
  match vop with
  | 0x00 => int (a + b)
  | 0x01 => int (a - b)
  | 0x02 => int (a * b)
  | 0x03 => int (a * b + lane z l)
  | 0x04 => int (a &&& b)
  | 0x05 => int (a ||| b)
  | 0x06 => int (a ^^^ b)
  | 0x07 => int (a <<< (b.toNat % 32))
  | 0x08 => int (a >>> (b.toNat % 32))
  | 0x09 => int (a.sshiftRight (b.toNat % 32))
  | 0x0A => int (if ty = 1 then (if a.ule b then a else b) else if a.sle b then a else b)
  | 0x0B => int (if ty = 1 then (if a.ule b then b else a) else if a.sle b then b else a)
  | 0x11 => int (lane x (b.toNat % 16))
  | 0x15 => int (((List.range (l + 1)).map (lane x)).foldl (· + ·) 0)
  | 0x40 => fAdd rm (e l) cid a.toNat b.toNat
  | 0x41 => fSub rm (e l) cid a.toNat b.toNat
  | 0x42 => fMul rm (e l) cid a.toNat b.toNat
  | 0x43 => fFma rm (e l) cid a.toNat b.toNat (lane z l).toNat
  | 0x44 => fMinMax false (ty == 1) cid a.toNat b.toNat
  | 0x45 => fMinMax true (ty == 1) cid a.toNat b.toNat
  | 0x4B => fScale rm (e l) cid a.toNat b.toNat
  | 0x4C => fEx2 rm (e l) cid a.toNat
  | _ => fRsq rm (e l) cid a.toNat

/-- The operands of a P-form word, none of them a port, are admitted, and read `a`, `b`, `t`, `va`, `vb` and `vc`; those
that an operation does not have are not read (R107, R108, R110). -/
def PairReads (s : State) (f : Frond) (x : SHalf) (v : VHalf) (a b t : Word) (va vb vc : Nat) : Prop :=
  dstOk f (x.sd.setWidth 9) = true
    ∧ srcVal s f (x.sa.setWidth 9) = some a
    ∧ (sopOne x.sop.toNat = false → srcVal s f x.sb = some b)
    ∧ (x.sop = 34 → srcVal s f (x.sd.setWidth 9) = some t)
    ∧ dstVecOk f (vectorField v.vd) = true
    ∧ srcVec f (vectorField v.va) = some va
    ∧ (2 ≤ vopSources v.vop.toNat → srcVec f (vectorField v.vb) = some vb)
    ∧ (3 ≤ vopSources v.vop.toNat → srcVec f (vectorField v.vc) = some vc)

/-- A P-form word completes: its scalar half has raised DZ and written, then its vector half has written and raised its
flags (log entry 100). -/
def completesPair (s : State) (f : Frond) (h : Hints) (x : SHalf) (v : VHalf) (a b t : Word) (va vb vc : Nat) :
    Answer :=
  let r := pairScalar x.sop.toNat a b t
  let q := pairVector v.vop.toNat v.ty.toNat v.rm.toNat (randomWord (aside s) f) (cidOf (aside s) f) va vb vc
  completesVec s f (putF32s (putDst (raiseFlags f r.2) (x.sd.setWidth 9) r.1) (vectorField v.vd) q) h

/-! ## Running a part of a word -/

/-- What a word at issue starts from. -/
def startOf (s : State) (f : Frond) : Ctx := { f := f, s := aside s, flags := 0 }

/-- A part of a word gives `a` and goes on from `c'`. -/
def Gives {α : Type} (m : M α) (c : Ctx) (a : α) (c' : Ctx) : Prop := ExceptT.run m c = (.ok a, c')

/-- A part of a word stops. -/
def Stops {α : Type} (m : M α) (c : Ctx) (st : Stop) (c' : Ctx) : Prop := ExceptT.run m c = (.error st, c')

/-! ## Words that act on the machine beside their frond -/

/-- The word of the frond `f` completes in sequence: the frond becomes `g` but for its hints, and the machine beside
it `t`. -/
def completesWith (s : State) (f g : Frond) (t : State) (h : Hints) : Answer := moves (notOwed t f) g h (wordOf s f)

/-- The chance of the frond `f` passes: its word has not issued, and nothing has changed (R118). -/
def waits (s : State) (f : Frond) : Answer := .next (refreshSpent { aside s with issuing := some f } f.pcid)

/-- The frond `f` parks before its word has issued (R120). -/
def parks (s : State) (f : Frond) (reason obj info : Nat) : Answer :=
  let r := parkWord (aside s) f reason obj info
  .next (refreshSpent { r.1 with issuing := some r.2 } r.2.pcid)

/-- The word of the frond `f` has issued, and its frond stays inside it as `g`, with the machine `t` beside it. -/
def latches (f g : Frond) (t : State) : Answer :=
  let t := notOwed t f
  .next (refreshSpent { t with issuing := some { g with since := t.clk } } g.pcid)

/-- A frond with an outstanding result, unless it has no destination (R125). -/
def withResult (g : Frond) (id : Nat) (d : Dest) : Frond :=
  if d = .none then g else { g with outs := g.outs ++ [{ id := id, dest := d }] }

/-- The accesses of the word of `f` start as a flight, from the frond and machine of `c`: with `wait` the frond waits
at the port until they have been answered, else the word completes and its result, if any, becomes outstanding. -/
def flies (s : State) (f : Frond) (h : Hints) (wait : Bool) (c : Ctx) (x : Launch) : Answer :=
  let r := addFlight c.s c.f x (if wait then some h else none)
  if wait then latches f { c.f with wait := .port r.1 } r.2 else completesWith s f (withResult c.f r.1 x.dest) r.2 h

/-- A general register or `zero` that may receive a result, and is not outstanding (R245, R127). -/
def resOk (f : Frond) (o : Opnd) : Bool :=
  match operandOf o with
  | .reg n => decide (n < f.regs) && !outReg f n
  | .zero => true
  | _ => false

/-- The frond `f` may start an access: no acquire of its own is outstanding, and fewer than 8 results are
(R125, R253). -/
def MayAccess (s : State) (f : Frond) : Prop := acquiring (aside s) f.uid = false ∧ f.outs.length < 8

/-- A release of the frond `f` over the paths `on` at a scope may issue (R253, R328). -/
def Released (s : State) (f : Frond) (on : Nat → Bool) (scope : Nat) : Prop :=
  f.outs = [] ∧ released (aside s) f.uid on scope = true

/-- The effective address of R247. -/
def addressOf (a : Word) (disp : BitVec 32) : Nat := (a + disp.signExtend 64).toNat

/-- A field that names an object: one of the operand values `lo` to `hi`. -/
def objOk (o : Opnd) (lo hi : Nat) : Prop := lo ≤ o.toNat ∧ o.toNat ≤ hi

/-! ## Engine words -/

/-- A job's first use of an engine's set finds the words of the job before it complete (R279, R280). -/
def MayClaim (s : State) (f : Frond) : Prop :=
  let e := getEngine (aside s) (tileOf f.pcid)
  e.holdsFor f.urgent f.jid = true ∨ e.queue = []

/-- The machine once a word of `f` has claimed its engine's set: a set that held another job's values passes to the job
of `f`, cleared, and the counters of the job before go into its sums (R279, R280, R402). -/
def setTaken (s : State) (f : Frond) : State :=
  let e := getEngine (aside s) (tileOf f.pcid)
  if e.holdsFor f.urgent f.jid then aside s else passSet (aside s) e f.urgent f.jid

/-- The machine once the conversions `cs` of a word of `f` with CNT have been counted on accumulator `acc` (R198). -/
def countedOn (s : State) (f : Frond) (acc : Nat) (cs : List Conv) : State :=
  updSet (setTaken s f) (tileOf f.pcid) f.urgent (fun e => ctrAdd e acc (tally cs))

/-- The engine of the tile of `f` takes a word of `f` now (R101, R279, R280, R282, R436). -/
def EngineReady (s : State) (f : Frond) : Prop :=
  let e := getEngine (aside s) (tileOf f.pcid)
  (featBits (aside s) f.pcid f.jid f.urgent).toNat.testBit 0 = true ∧ e.queue.length < 32
    ∧ (∀ w ∈ e.queue, w.urgent = f.urgent) ∧ MayClaim s f
    ∧ acquiring (aside s) f.uid = false ∧ (s.pacing = false ∨ f.urgent = true)

/-- What the body of an engine word starts from. -/
def engineStart (s : State) (f : Frond) : Ctx := { f := f, s := setTaken s f, flags := 0 }

/-- The tile guard of a word of `f` is true (R295). -/
def tileOn (s : State) (f : Frond) (tg : TileGuard) : Bool :=
  !tg.tge || (((getEngine (setTaken s f) (tileOf f.pcid)).set f.urgent).masks.getD tg.tm.toNat 0).toNat.testBit tg.tbit.toNat

/-- The engine word of a word of `f` that is accepted under the name `id`. -/
def engineWord (s : State) (f : Frond) (h : Hints) (id : Nat) (x : Accept) : EngWord :=
  { id := id, uid := f.uid, jid := f.jid, pcid := f.pcid, urgent := f.urgent, cid := cidOf s f
    seed := seedOf s f.jid, stream := f.sseed, hints := h, op := x.op, fa := x.fa, fb := x.fb
    fmts := tableFor s f.jid x.elems, checked := x.checked, stored := false, elems := x.elems, view := x.view, due := s.clk + x.cycles }

/-- The machine with a word at the end of the queue of the engine of a tile. -/
def queued (s : State) (tile : Nat) (w : EngWord) : State :=
  updEngine s tile (fun e => { e with queue := e.queue ++ [w] })

/-- The frond after a word that roots it (R34). -/
def rootedAs (f : Frond) : Frond := { f with rooted := true }

/-- A word of `f` without operands in memory is accepted by its engine and completes (R282). -/
def enqueues (s : State) (f : Frond) (h : Hints) (x : Accept) : Answer :=
  let t : State := { setTaken s f with fresh := s.fresh + 1 }
  completesWith s f (rootedAs f) (queued t (tileOf f.pcid) (engineWord t f h s.fresh x)) h

/-! ## Events -/

/-- Byte `i` of a number. -/
def numByte (v i : Nat) : Byte := BitVec.ofNat 8 (v / 256 ^ i)

/-- Memory of one kind holds the low `n` bytes of `v` from `a` on, and is otherwise as it was. -/
def WroteIn (old new : SMap Byte) (a n v : Nat) : Prop :=
  ∀ x, mapGet (0 : Byte) x new = if a ≤ x ∧ x < a + n then numByte v (x - a) else mapGet 0 x old

/-- The memory of `t` is that of `s` but for `n` bytes at a place, which hold `v`. -/
def Wrote (s t : State) (p : Place) (n v : Nat) : Prop :=
  match p with
  | .ls a => WroteIn s.ls t.ls a n v ∧ t.hbm = s.hbm ∧ t.host = s.host
  | .hbm a => WroteIn s.hbm t.hbm a n v ∧ t.ls = s.ls ∧ t.host = s.host
  | .host a => WroteIn s.host t.host a n v ∧ t.ls = s.ls ∧ t.hbm = s.hbm
  | .walk _ _ _ _ => False

/-- A byte of memory: one of a local store, of HBM or of the host. -/
def memByte (t : State) : Place → Byte
  | .ls a => mapGet 0 a t.ls
  | .hbm a => mapGet 0 a t.hbm
  | .host a => mapGet 0 a t.host
  | .walk _ _ _ _ => 0

/-- Where the byte at `x` lies among `n` bytes at `p`; none when it does not. -/
def byteWithin (x p : Place) (n : Nat) : Option Nat :=
  match x, p with
  | .ls a, .ls b => if b ≤ a ∧ a < b + n then some (a - b) else none
  | .hbm a, .hbm b => if b ≤ a ∧ a < b + n then some (a - b) else none
  | .host a, .host b => if b ≤ a ∧ a < b + n then some (a - b) else none
  | _, _ => none

/-- The memory of `t` is that of `s` after some writes, each of a value at a place, in their order. -/
def WroteAll (s t : State) (ws : List (Place × Nat × Nat)) : Prop :=
  ∀ x, memByte t x = ((ws.reverse.findSome? (fun w => (byteWithin x w.1 w.2.1).map (numByte w.2.2))).getD (memByte s x))

/-- What a store of a flight makes of the value of an element (R186, R187, R248, R301): its bits as they are, or their code in
the format of its place, or of its accumulator's word; through an unused format a free value (log entry 15). -/
def storedOf (s : State) (g : Flight) (e : Elem) : Nat :=
  let here := fun (page : Nat) => if e.size = 1 then codeAt s (resolve s e.place) page else 0
  let code := match e.coding with
    | .raw => 0
    | .fixed c => c
    | .place page => here page
    | .acc c page _ _ _ _ => if c ≠ 0 then c else here page
  let entry : BitVec 32 := g.fmts.getD code 0
  if code ≠ 0 ∧ entry.toNat % 16 = 0 then Config.unusedFormat code e.val
  else match e.coding with
    | .acc _ _ _ rnd ty bits =>
      if code ≠ 0 then (convert rnd (.float (fmtOfEntry entry)) bits (f32 e.val)).code
      else if ty = 0 ∨ e.size = 1 then e.val
      else (convert rnd (.float (if ty = 1 then fmtF16 else fmtBf16)) bits (f32 e.val)).code
    | _ => if code = 0 then e.val else (convert 0 (.float (fmtOfEntry entry)) 0 (f32 e.val)).code

/-- No operation waits at a port for a word that `n` bytes at a place touch (R347). -/
def Undisturbed (s : State) (p : Place) (n : Nat) : Prop :=
  ∀ a, p = .ls a → ∀ c, ∀ w ∈ (getCore s c).waitList, w.word + 8 ≤ a ∨ a + n ≤ w.word

/-- No access counter reports: every threshold is 0 (R227). -/
def Silent (s : State) : Prop := ∀ x ∈ s.thresholds, x = 0

/-- The bytes `ts` of a copy out of local store have been written to its region, and nothing else: each as it was read ahead,
or as it stands in local store; where two lie at one address, the later one (R268, R269). -/
def CopiedOut (s t : State) (c : Copy) (ts : List Nat) : Prop :=
  (∀ i ∈ ts, (∀ k ∈ ts, i < k → copyOff c k ≠ copyOff c i) →
    mapGet 0 (c.pa + copyOff c i) t.hbm = (gotByte c.got i).getD (mapGet 0 (c.ls + i) s.ls))
  ∧ (∀ a, (∀ i ∈ ts, c.pa + copyOff c i ≠ a) → mapGet 0 a t.hbm = mapGet 0 a s.hbm) ∧ t.ls = s.ls ∧ t.host = s.host

/-- A parked or Blocked frond that goes on: in its slot, or from its record on the ready list (R119, R121). -/
def awake (s : State) (f : Frond) : Frond :=
  { f with wait := .run, notBefore := s.clk + 1, loc := if f.loc = .hold then .ready else f.loc
           seq := if f.loc = .hold then s.fresh else f.seq }

/-- The machine in which the frond `uid`, changed by `g`, goes on. -/
def awakened (s : State) (uid : Nat) (g : Frond → Frond) : State :=
  updFrond { s with fresh := s.fresh + 1 } uid (fun f => awake s (g f))

/-- The flight `g` has left the machine. -/
def gone (s : State) (g : Flight) : State := delFlight s g.id

/-- The forwarding entry of a reply frees (R231). -/
def sentOn (t : State) (id : Nat) : State :=
  { t with cores := t.cores.map (fun c => { c with fwd := c.fwd.filter (fun x => x != id) }) }

/-! ## Guards -/

/-- The hints of a word, and whether it is one of group 0xA, which roots its frond under a false guard too (R34, R98);
none of an event. -/
def hintsIn : Instr → Option (Hints × Bool)
  | .add h _ _ _ _ => some (h, false)
  | .sub h _ _ _ _ => some (h, false)
  | .mul h _ _ _ _ => some (h, false)
  | .mulh h _ _ _ _ => some (h, false)
  | .mulhn h _ _ _ _ => some (h, false)
  | .div h _ _ _ _ => some (h, false)
  | .divn h _ _ _ _ => some (h, false)
  | .rem h _ _ _ _ => some (h, false)
  | .remn h _ _ _ _ => some (h, false)
  | .and h _ _ _ _ => some (h, false)
  | .or h _ _ _ _ => some (h, false)
  | .xor h _ _ _ _ => some (h, false)
  | .andn h _ _ _ _ => some (h, false)
  | .orn h _ _ _ _ => some (h, false)
  | .shl h _ _ _ _ => some (h, false)
  | .shr h _ _ _ _ => some (h, false)
  | .sar h _ _ _ _ => some (h, false)
  | .rol h _ _ _ _ => some (h, false)
  | .min h _ _ _ _ => some (h, false)
  | .max h _ _ _ _ => some (h, false)
  | .minn h _ _ _ _ => some (h, false)
  | .maxn h _ _ _ _ => some (h, false)
  | .clz h _ _ _ => some (h, false)
  | .ctz h _ _ _ => some (h, false)
  | .popc h _ _ _ => some (h, false)
  | .brev h _ _ _ => some (h, false)
  | .bswap h _ _ _ => some (h, false)
  | .bfx h _ _ _ _ _ => some (h, false)
  | .bfi h _ _ _ _ => some (h, false)
  | .sel h _ _ _ _ _ => some (h, false)
  | .mov h _ _ _ => some (h, false)
  | .sext h _ _ _ => some (h, false)
  | .zext h _ _ _ => some (h, false)
  | .lea h _ _ _ _ _ => some (h, false)
  | .mad h _ _ _ _ => some (h, false)
  | .li h _ _ => some (h, false)
  | .lpc h _ _ => some (h, false)
  | .cmp h _ _ _ _ _ _ => some (h, false)
  | .tst h _ _ _ _ _ => some (h, false)
  | .pand h _ _ _ _ _ => some (h, false)
  | .por h _ _ _ _ _ => some (h, false)
  | .pxor h _ _ _ _ _ => some (h, false)
  | .pnot h _ _ => some (h, false)
  | .pset h _ => some (h, false)
  | .pget h _ => some (h, false)
  | .br h _ => some (h, false)
  | .jmp h _ => some (h, false)
  | .call h _ _ => some (h, false)
  | .callr h _ _ => some (h, false)
  | .loop h _ _ _ => some (h, false)
  | .loopw h _ _ => some (h, false)
  | .lexit h => some (h, false)
  | .fork h _ _ _ _ => some (h, false)
  | .join h _ _ => some (h, false)
  | .exit h => some (h, false)
  | .nop h => some (h, false)
  | .bch h _ _ _ => some (h, false)
  | .sleep h _ => some (h, false)
  | .fadd h _ _ _ _ => some (h, false)
  | .fsub h _ _ _ _ => some (h, false)
  | .fmul h _ _ _ _ => some (h, false)
  | .ffma h _ _ _ _ _ => some (h, false)
  | .fmin h _ _ _ _ => some (h, false)
  | .fmax h _ _ _ _ => some (h, false)
  | .fdiv h _ _ _ _ => some (h, false)
  | .fsqrt h _ _ _ => some (h, false)
  | .frcp h _ _ _ => some (h, false)
  | .fcmp h _ _ _ _ _ => some (h, false)
  | .fcvt h _ _ _ _ _ _ _ => some (h, false)
  | .fclass h _ _ => some (h, false)
  | .vadd h _ _ _ => some (h, false)
  | .vsub h _ _ _ => some (h, false)
  | .vmul h _ _ _ => some (h, false)
  | .vmad h _ _ _ _ => some (h, false)
  | .vand h _ _ _ => some (h, false)
  | .vor h _ _ _ => some (h, false)
  | .vxor h _ _ _ => some (h, false)
  | .vshl h _ _ _ => some (h, false)
  | .vshr h _ _ _ => some (h, false)
  | .vsar h _ _ _ => some (h, false)
  | .vmin h _ _ _ _ => some (h, false)
  | .vmax h _ _ _ _ => some (h, false)
  | .vcmp h _ _ _ _ _ => some (h, false)
  | .vsel h _ _ _ _ => some (h, false)
  | .vbcast h _ _ => some (h, false)
  | .vext h _ _ _ _ => some (h, false)
  | .vins h _ _ _ => some (h, false)
  | .vperm h _ _ _ => some (h, false)
  | .vredadd h _ _ _ => some (h, false)
  | .vredmin h _ _ _ => some (h, false)
  | .vredmax h _ _ _ => some (h, false)
  | .vscan h _ _ _ => some (h, false)
  | .viota h _ _ _ => some (h, false)
  | .vfadd h _ _ _ _ => some (h, false)
  | .vfsub h _ _ _ _ => some (h, false)
  | .vfmul h _ _ _ _ => some (h, false)
  | .vffma h _ _ _ _ _ => some (h, false)
  | .vfmin h _ _ _ _ _ => some (h, false)
  | .vfmax h _ _ _ _ _ => some (h, false)
  | .vfcmp h _ _ _ _ => some (h, false)
  | .vfred h _ _ _ _ => some (h, false)
  | .vfcvt h _ _ _ _ _ => some (h, false)
  | .vfpack h _ _ _ _ _ _ _ _ _ => some (h, false)
  | .vfunpk h _ _ _ _ _ _ _ => some (h, false)
  | .vfscale h _ _ _ _ => some (h, false)
  | .vfex2 h _ _ _ => some (h, false)
  | .vfrsq h _ _ _ => some (h, false)
  | .addPform h _ _ _ _ => some (h, false)
  | .subPform h _ _ _ _ => some (h, false)
  | .mulPform h _ _ _ _ => some (h, false)
  | .mulhPform h _ _ _ _ => some (h, false)
  | .mulhnPform h _ _ _ _ => some (h, false)
  | .divPform h _ _ _ _ => some (h, false)
  | .divnPform h _ _ _ _ => some (h, false)
  | .remPform h _ _ _ _ => some (h, false)
  | .remnPform h _ _ _ _ => some (h, false)
  | .andPform h _ _ _ _ => some (h, false)
  | .orPform h _ _ _ _ => some (h, false)
  | .xorPform h _ _ _ _ => some (h, false)
  | .andnPform h _ _ _ _ => some (h, false)
  | .ornPform h _ _ _ _ => some (h, false)
  | .shlPform h _ _ _ _ => some (h, false)
  | .shrPform h _ _ _ _ => some (h, false)
  | .sarPform h _ _ _ _ => some (h, false)
  | .rolPform h _ _ _ _ => some (h, false)
  | .minPform h _ _ _ _ => some (h, false)
  | .maxPform h _ _ _ _ => some (h, false)
  | .minnPform h _ _ _ _ => some (h, false)
  | .maxnPform h _ _ _ _ => some (h, false)
  | .clzPform h _ _ _ _ => some (h, false)
  | .ctzPform h _ _ _ _ => some (h, false)
  | .popcPform h _ _ _ _ => some (h, false)
  | .brevPform h _ _ _ _ => some (h, false)
  | .bswapPform h _ _ _ _ => some (h, false)
  | .movPform h _ _ _ _ => some (h, false)
  | .madPform h _ _ _ _ => some (h, false)
  | .vaddPform h _ _ _ _ _ _ _ => some (h, false)
  | .vsubPform h _ _ _ _ _ _ _ => some (h, false)
  | .vmulPform h _ _ _ _ _ _ _ => some (h, false)
  | .vmadPform h _ _ _ _ _ _ _ => some (h, false)
  | .vandPform h _ _ _ _ _ _ _ => some (h, false)
  | .vorPform h _ _ _ _ _ _ _ => some (h, false)
  | .vxorPform h _ _ _ _ _ _ _ => some (h, false)
  | .vshlPform h _ _ _ _ _ _ _ => some (h, false)
  | .vshrPform h _ _ _ _ _ _ _ => some (h, false)
  | .vsarPform h _ _ _ _ _ _ _ => some (h, false)
  | .vminPform h _ _ _ _ _ _ _ => some (h, false)
  | .vmaxPform h _ _ _ _ _ _ _ => some (h, false)
  | .vpermPform h _ _ _ _ _ _ _ => some (h, false)
  | .vscanPform h _ _ _ _ _ _ _ => some (h, false)
  | .vfaddPform h _ _ _ _ _ _ _ => some (h, false)
  | .vfsubPform h _ _ _ _ _ _ _ => some (h, false)
  | .vfmulPform h _ _ _ _ _ _ _ => some (h, false)
  | .vffmaPform h _ _ _ _ _ _ _ => some (h, false)
  | .vfminPform h _ _ _ _ _ _ _ => some (h, false)
  | .vfmaxPform h _ _ _ _ _ _ _ => some (h, false)
  | .vfscalePform h _ _ _ _ _ _ _ => some (h, false)
  | .vfex2Pform h _ _ _ _ _ _ _ => some (h, false)
  | .vfrsqPform h _ _ _ _ _ _ _ => some (h, false)
  | .ld h _ _ _ _ => some (h, false)
  | .st h _ _ _ _ => some (h, false)
  | .vld h _ _ _ _ => some (h, false)
  | .vst h _ _ _ _ => some (h, false)
  | .vlds h _ _ _ _ _ => some (h, false)
  | .vsts h _ _ _ _ _ => some (h, false)
  | .hold h _ _ => some (h, false)
  | .pin h _ _ _ => some (h, false)
  | .unpin h _ _ _ => some (h, false)
  | .lsfmt h _ _ _ => some (h, false)
  | .ldf h _ _ _ _ _ => some (h, false)
  | .lde h _ _ _ _ _ => some (h, false)
  | .stf h _ _ _ _ _ => some (h, false)
  | .sto h _ _ _ _ _ => some (h, false)
  | .clrf h _ _ _ => some (h, false)
  | .aadd h _ _ _ _ _ => some (h, false)
  | .acas h _ _ _ _ _ => some (h, false)
  | .axchg h _ _ _ _ _ => some (h, false)
  | .amin h _ _ _ _ _ => some (h, false)
  | .amax h _ _ _ _ _ => some (h, false)
  | .aand h _ _ _ _ _ => some (h, false)
  | .aor h _ _ _ _ _ => some (h, false)
  | .axor h _ _ _ _ _ => some (h, false)
  | .fence h _ _ => some (h, false)
  | .xfence h _ _ => some (h, false)
  | .bexp h _ _ _ _ _ _ => some (h, false)
  | .barv h _ _ _ _ _ => some (h, false)
  | .bwait h _ _ _ _ _ => some (h, false)
  | .wbind h _ _ _ _ => some (h, false)
  | .wret h _ => some (h, false)
  | .wld h _ _ _ _ _ => some (h, false)
  | .wst h _ _ _ _ _ => some (h, false)
  | .wvld h _ _ _ _ _ _ => some (h, false)
  | .wvst h _ _ _ _ _ _ => some (h, false)
  | .wqry h _ _ _ => some (h, false)
  | .wadj h _ _ => some (h, false)
  | .wfoot h _ _ _ => some (h, false)
  | .mzero h _ _ => some (h, true)
  | .mma h _ _ _ _ _ _ _ _ _ => some (h, true)
  | .mmas h _ _ _ _ _ _ _ _ _ => some (h, true)
  | .mld h _ _ _ _ _ => some (h, true)
  | .mst h _ _ _ _ _ _ => some (h, true)
  | .msst h _ _ _ _ _ _ _ _ => some (h, true)
  | .madd h _ _ _ _ => some (h, true)
  | .mstat h _ _ => some (h, true)
  | .mclrs h _ => some (h, true)
  | .mtm h _ _ => some (h, true)
  | .mtmRd h _ _ => some (h, true)
  | .mtmgSet h _ _ _ => some (h, true)
  | .mtmgClr h _ _ _ => some (h, true)
  | .msync h => some (h, true)
  | .cpy h _ _ _ _ _ _ _ => some (h, false)
  | .cpyq h _ _ _ => some (h, false)
  | .gath h _ _ _ _ _ _ => some (h, false)
  | .scat h _ _ _ _ _ _ => some (h, false)
  | .scadd h _ _ _ _ _ => some (h, false)
  | .rbar h _ _ _ _ _ => some (h, false)
  | .ship h _ _ _ _ _ _ _ => some (h, false)
  | .qpush h _ _ _ _ => some (h, false)
  | .qpop h _ _ _ _ => some (h, false)
  | .qpeek h _ _ _ _ => some (h, false)
  | .qclose h _ => some (h, false)
  | .qstat h _ _ => some (h, false)
  | .chbind h _ _ => some (h, false)
  | .chstat h _ _ => some (h, false)
  | .semw h _ _ _ => some (h, false)
  | .sems h _ _ _ => some (h, false)
  | .bar h _ _ _ _ _ => some (h, false)
  | .trap h _ => some (h, false)
  | .sys h _ _ _ => some (h, false)
  | .rfe h => some (h, false)
  | .cwget h _ _ _ => some (h, false)
  | .cwset h _ _ _ => some (h, false)
  | .feat h _ => some (h, false)
  | .exrd h _ _ _ => some (h, false)
  | .exwr h _ _ _ => some (h, false)
  | .exres h _ _ => some (h, false)
  | .seed h _ => some (h, false)
  | .idle h _ _ => some (h, false)
  | .powerGood => none
  | .securityAlarm => none
  | .refreshTakeover => none
  | .narelFlitReplay => none
  | .narelPortDown => none
  | .powerPacing => none
  | .notifyDmwr => none
  | .notifyPostedWrite => none
  | .pasidRevocation => none
  | .registerWrite => none
  | .intake => none
  | .start => none
  | .layout => none
  | .format => none
  | .cancel => none
  | .placement => none
  | .urgentPlacement => none
  | .frondStart => none
  | .readyListPlace => none
  | .stealRead => none
  | .stealCas => none
  | .stealPassRetry => none
  | .balancerInterval => none
  | .balancerMove => none
  | .coreRebind => none
  | .dequeTransfer => none
  | .streamSourcePush => none
  | .streamSinkWrite => none
  | .icacheFill => none
  | .pageWalkDone => none
  | .resultLanding => none
  | .storePerformed => none
  | .storeAck => none
  | .crossDieStoreApply => none
  | .migrate => none
  | .migrationArrival => none
  | .fillPick => none
  | .lineArrival => none
  | .fillLanding => none
  | .fillFailure => none
  | .copyComplete => none
  | .cpyqPush => none
  | .matrixWordComplete => none
  | .channelFlitDelivery => none
  | .syncResend => none
  | .felimitTimeout => none
  | .sleepEnd => none
  | .swapRequest => none
  | .urgentQuantumEnd => none
  | .swapBack => none
  | .gangSuspend => none
  | .gangResume => none
  | .hang => none
  | .supervisorMessage => none
  | .frondhalt => none
  | .handlerEntry => none
  | .faultDomainEnd => none
  | .featureMigrate => none
  | .jobRetirement => none
  | .sysAnswer => none
  | .idleWake => none
  | .hostCxlMemAccess => none
  | .status => none
  | .loadfw => none
  | .attest => none
  | .setpkg => none
  | .inval => none
  | .xlans => none
  | .poison => none
  | .setthr => none
  | .clrcnt => none
  | .mailboxDone => none
  | .reductionMergeDone => none
  | .matrixCheckPoint => none

end Sys2Proof.Machine
end

