-- ==== Sys2Proof/Certificates/Slice0/Obligations.lean ====
section
/-! DEFINITION. The statements for the provers. -/

open Sys2Proof Sys2Proof.Machine

/-! ## Integer words -/

/-- R138 and R136: each two-source word of group 0x0 writes its value at the width of W, sign-extended to 64 bits,
to D. Nothing else changes but the PC: `completes` gives the whole next state. -/
def Obligations.IntegerTwoSources : Prop :=
  ∀ (s : State) (f : Frond) (h : Hints) (w : Bool) (d a : Opnd) (b : SrcB) (va vb : Word),
    AtIssue s f h → dstOk f d = true → srcVal s f a = some va → srcValB s f b = some vb →
    let n := if w then 32 else 64
    let x : BitVec n := va.setWidth n
    let y : BitVec n := vb.setWidth n
    let writes (r : BitVec n) : Answer := completes s f (putDst f d (r.signExtend 64)) h
    exec (.add h w d a b) s = writes (x + y)
    ∧ exec (.sub h w d a b) s = writes (x - y)
    ∧ exec (.mul h w d a b) s = writes (x * y)
    ∧ exec (.mulh h w d a b) s = writes ((x.signExtend (2 * n) * y.signExtend (2 * n)).extractLsb' n n)
    ∧ exec (.mulhn h w d a b) s = writes ((x.setWidth (2 * n) * y.setWidth (2 * n)).extractLsb' n n)
    ∧ exec (.and h w d a b) s = writes (x &&& y)
    ∧ exec (.or h w d a b) s = writes (x ||| y)
    ∧ exec (.xor h w d a b) s = writes (x ^^^ y)
    ∧ exec (.andn h w d a b) s = writes (x &&& ~~~y)
    ∧ exec (.orn h w d a b) s = writes (x ||| ~~~y)
    ∧ exec (.shl h w d a b) s = writes (x <<< (y.toNat % n))
    ∧ exec (.shr h w d a b) s = writes (x >>> (y.toNat % n))
    ∧ exec (.sar h w d a b) s = writes (x.sshiftRight (y.toNat % n))
    ∧ exec (.rol h w d a b) s = writes (x.rotateLeft (y.toNat % n))
    ∧ exec (.min h w d a b) s = writes (if x.sle y then x else y)
    ∧ exec (.max h w d a b) s = writes (if x.sle y then y else x)
    ∧ exec (.minn h w d a b) s = writes (if x.ule y then x else y)
    ∧ exec (.maxn h w d a b) s = writes (if x.ule y then y else x)

/-- R139: the divisions. A divisor of 0 gives all ones and the dividend, and sets DZ before D is written, without a trap; the least value
divided by -1 gives itself and remainder 0; otherwise the quotient is truncated toward zero. -/
def Obligations.IntegerDivision : Prop :=
  ∀ (s : State) (f : Frond) (h : Hints) (w : Bool) (d a : Opnd) (b : SrcB) (va vb : Word),
    AtIssue s f h → dstOk f d = true → srcVal s f a = some va → srcValB s f b = some vb →
    let n := if w then 32 else 64
    let x : BitVec n := va.setWidth n
    let y : BitVec n := vb.setWidth n
    let writes (r : BitVec n) : Answer := completes s f (putDst f d (r.signExtend 64)) h
    let byZero (r : BitVec n) : Answer := completes s f (putDst (raiseFlags f flagDZ) d (r.signExtend 64)) h
    (y = 0 → exec (.div h w d a b) s = byZero (BitVec.allOnes n)
      ∧ exec (.divn h w d a b) s = byZero (BitVec.allOnes n)
      ∧ exec (.rem h w d a b) s = byZero x
      ∧ exec (.remn h w d a b) s = byZero x)
    ∧ (y ≠ 0 → exec (.divn h w d a b) s = writes (BitVec.ofNat n (x.toNat / y.toNat))
      ∧ exec (.remn h w d a b) s = writes (BitVec.ofNat n (x.toNat % y.toNat)))
    ∧ (y ≠ 0 → ¬ (x = BitVec.intMin n ∧ y = BitVec.allOnes n) →
      exec (.div h w d a b) s = writes (BitVec.ofInt n (x.toInt.tdiv y.toInt))
      ∧ exec (.rem h w d a b) s = writes (BitVec.ofInt n (x.toInt - x.toInt.tdiv y.toInt * y.toInt)))
    ∧ (x = BitVec.intMin n → y = BitVec.allOnes n →
      exec (.div h w d a b) s = writes x ∧ exec (.rem h w d a b) s = writes 0)

/-- R140: the one-source words count zero and one bits, and reverse bits and bytes, at the width of W. -/
def Obligations.IntegerOneSource : Prop :=
  ∀ (s : State) (f : Frond) (h : Hints) (w : Bool) (d a : Opnd) (va : Word),
    AtIssue s f h → dstOk f d = true → srcVal s f a = some va →
    let n := if w then 32 else 64
    let x : BitVec n := va.setWidth n
    let writes (r : BitVec n) : Answer := completes s f (putDst f d (r.signExtend 64)) h
    (∃ k, k ≤ n ∧ exec (.clz h w d a) s = writes (BitVec.ofNat n k)
      ∧ (∀ i, n - k ≤ i → x.getLsbD i = false) ∧ (k < n → x.getLsbD (n - 1 - k) = true))
    ∧ (∃ k, k ≤ n ∧ exec (.ctz h w d a) s = writes (BitVec.ofNat n k)
      ∧ (∀ i, i < k → x.getLsbD i = false) ∧ (k < n → x.getLsbD k = true))
    ∧ exec (.popc h w d a) s = writes (BitVec.ofNat n ((List.range n).filter x.getLsbD).length)
    ∧ (∃ r, exec (.brev h w d a) s = writes r ∧ ∀ i, i < n → r.getLsbD (n - 1 - i) = x.getLsbD i)
    ∧ (∃ r, exec (.bswap h w d a) s = writes r
      ∧ ∀ j, j < n / 8 → r.extractLsb' (8 * (n / 8 - 1 - j)) 8 = x.extractLsb' (8 * j) 8)

/-- R141 to R143: bit fields, selection, moves, extensions, `lea` and `mad`; `li` writes its constant, and `lpc` adds
it to the PC of its own word. -/
def Obligations.FieldsAndMoves : Prop :=
  (∀ (s : State) (f : Frond) (h : Hints) (d a : Opnd) (x : Word),
     AtIssue s f h → dstOk f d = true → srcVal s f a = some x →
     let writes (r : Word) : Answer := completes s f (putDst f d r) h
     (∀ (pos len1 : BitVec 6), pos.toNat + len1.toNat < 64 →
       exec (.bfx h false d a pos len1) s
         = writes ((x.extractLsb' pos.toNat (len1.toNat + 1)).setWidth 64)
       ∧ exec (.bfx h true d a pos len1) s
         = writes ((x.extractLsb' pos.toNat (len1.toNat + 1)).signExtend 64)
       ∧ ∀ t, srcVal s f d = some t → ∃ r, exec (.bfi h d a pos len1) s = writes r
         ∧ ∀ i, i < 64 → r.getLsbD i = if pos.toNat ≤ i ∧ i ≤ pos.toNat + len1.toNat then x.getLsbD (i - pos.toNat)
           else t.getLsbD i)
     ∧ exec (.mov h false d a) s = writes x
     ∧ exec (.mov h true d a) s = writes ((x.setWidth 32).signExtend 64)
     ∧ exec (.sext h 0 d a) s = writes ((x.setWidth 8).signExtend 64)
     ∧ exec (.sext h 1 d a) s = writes ((x.setWidth 16).signExtend 64)
     ∧ exec (.sext h 2 d a) s = writes ((x.setWidth 32).signExtend 64)
     ∧ exec (.zext h 0 d a) s = writes ((x.setWidth 8).setWidth 64)
     ∧ exec (.zext h 1 d a) s = writes ((x.setWidth 16).setWidth 64)
     ∧ exec (.zext h 2 d a) s = writes ((x.setWidth 32).setWidth 64)
     ∧ (∀ (b : SrcB) (y : Word) (qc : BitVec 4) (qn : Bool), srcValB s f b = some y →
       outPred f qc.toNat = false →
       exec (.sel h d a b qc qn) s = writes (if f.pred qc.toNat != qn then x else y))
     ∧ (∀ (b : Opnd) (y : Word) (sh : BitVec 3) (disp : BitVec 32), srcVal s f b = some y →
       exec (.lea h d a b sh disp) s = writes (x + (y <<< sh.toNat) + disp.signExtend 64))
     ∧ (∀ (b : SrcB) (y t : Word), srcValB s f b = some y → srcVal s f d = some t →
       exec (.mad h false d a b) s = writes (t + x * y)
       ∧ exec (.mad h true d a b) s = writes (((t + x * y).setWidth 32).signExtend 64)))
  ∧ (∀ (s : State) (f : Frond) (h : Hints) (d : Opnd) (imm : BitVec 60),
       AtIssue s f h → dstOk f d = true →
       exec (.li h d imm) s = completes s f (putDst f d (imm.signExtend 64)) h
       ∧ exec (.lpc h d imm) s = completes s f (putDst f d (BitVec.ofNat 64 f.pc + imm.signExtend 64)) h)

/-! ## Predicates -/

/-- R145 and R146: `cmp` compares at the width and signedness of TYPE, `tst` tests the common bits, and COMB decides
the write. R147 and R148: predicate logic, and the moves of all predicates at once. -/
def Obligations.PredicateWords : Prop :=
  (∀ (s : State) (f : Frond) (h : Hints) (d a : Opnd) (b : SrcB) (x y : Word),
     AtIssue s f h → predOk f d → srcVal s f a = some x → srcValB s f b = some y →
     let writes (comb : BitVec 2) (c : Bool) : Answer := completes s f (putPred f d
       (if comb = 0 then c else if comb = 1 then predVal f d && c else predVal f d || c)) h
     (∀ (ty : BitVec 3) (comb : BitVec 2), comb ≠ 3 →
       let n := 8 * 2 ^ (ty.toNat % 4)
       let u := (x.setWidth n).toInt
       let v := (y.setWidth n).toInt
       let m := (x.setWidth n).toNat
       let k := (y.setWidth n).toNat
       let lt : Bool := if ty.toNat < 4 then decide (u < v) else decide (m < k)
       exec (.cmp h d a b ty 0 comb) s = writes comb (m == k)
       ∧ exec (.cmp h d a b ty 1 comb) s = writes comb (m != k)
       ∧ exec (.cmp h d a b ty 2 comb) s = writes comb lt
       ∧ exec (.cmp h d a b ty 3 comb) s = writes comb (lt || m == k)
       ∧ exec (.cmp h d a b ty 4 comb) s = writes comb (!lt && m != k)
       ∧ exec (.cmp h d a b ty 5 comb) s = writes comb (!lt))
     ∧ (∀ comb : BitVec 2, comb ≠ 3 →
       exec (.tst h d a b false comb) s = writes comb (x &&& y != 0)
       ∧ exec (.tst h d a b true comb) s = writes comb (x &&& y == 0)))
  ∧ (∀ (s : State) (f : Frond) (h : Hints), AtIssue s f h →
       (∀ (d a b : Opnd) (na nb : Bool), predOk f d → predOk f a → predOk f b →
         exec (.pand h d a b na nb) s
           = completes s f (putPred f d ((predVal f a != na) && (predVal f b != nb))) h
         ∧ exec (.por h d a b na nb) s
           = completes s f (putPred f d ((predVal f a != na) || (predVal f b != nb))) h
         ∧ exec (.pxor h d a b na nb) s
           = completes s f (putPred f d ((predVal f a != na) != (predVal f b != nb))) h)
       ∧ (∀ (d a : Opnd), predOk f d → predOk f a →
         exec (.pnot h d a) s = completes s f (putPred f d (!predVal f a)) h)
       ∧ ((∀ n, n < 16 → outPred f n = false) →
         (∀ (a : Opnd) (x : Word), srcVal s f a = some x →
           exec (.pset h a) s = completes s f { f with preds := (x.setWidth 16) ||| 1 } h)
         ∧ ∀ d : Opnd, dstOk f d = true → ∃ r : Word, exec (.pget h d) s = completes s f (putDst f d r) h
           ∧ (∀ n, n < 16 → r.getLsbD n = f.pred n) ∧ (∀ n, 16 ≤ n → r.getLsbD n = false)))

/-! ## Control flow -/

/-- R150: the taken transfers, with their links; `bch` and the channels stand in `Obligations.ChannelWords`. A link
at PC = 2^56 − 12 is 0 (log entry 97, DESIGN CHOICE: R150 gives no modulo). -/
def Obligations.Transfers : Prop :=
  ∀ (s : State) (f : Frond) (h : Hints), AtIssue s f h →
    (∀ disp : BitVec 32,
      let target := ((f.pc + 12 * disp.toInt : Int) % 2 ^ 56).toNat
      exec (.br h disp) s = transfers s f f h target
      ∧ ∀ d : Opnd, dstOk f d = true →
        exec (.call h d disp) s = transfers s f (putDst f d (BitVec.ofNat 64 (nextPc f))) h target)
    ∧ (∀ (a : Opnd) (t : Word), srcVal s f a = some t →
      (t.toNat % 4 = 0 → t.toNat < 2 ^ 56 →
        exec (.jmp h a) s = transfers s f f h t.toNat
        ∧ ∀ d : Opnd, dstOk f d = true →
          exec (.callr h d a) s = transfers s f (putDst f d (BitVec.ofNat 64 (nextPc f))) h t.toNat)
      ∧ (t.toNat % 4 ≠ 0 →
        exec (.jmp h a) s = traps s f causeALIGN t.toNat
        ∧ ∀ d : Opnd, dstOk f d = true → exec (.callr h d a) s = traps s f causeALIGN t.toNat)
      ∧ (t.toNat % 4 = 0 → 2 ^ 56 ≤ t.toNat →
        exec (.jmp h a) s = traps s f causeXLATE t.toNat
        ∧ ∀ d : Opnd, dstOk f d = true → exec (.callr h d a) s = traps s f causeXLATE t.toNat))

/-- R152, R154 and R372: `loop` and `loopw` open a level, or skip a body of no pass; `lexit` ends the innermost level;
a fifth level, a shared last word and an exit without a level raise LOOPTRIP with no other effect. R153: the end
test at the last word of the innermost loop, here a `nop`. A counted loop that has made its passes ends; a loop at
its most passes ends and raises LOOPTRIP past its body; any other begins its next pass. A `loop` with count 0 goes past its
body where it is the last word of an enclosing level too, with no end test (log entry 98, DESIGN CHOICE). -/
def Obligations.HardwareLoops : Prop :=
  (∀ (s : State) (f : Frond) (h : Hints), AtIssue s f h →
     (∀ (a : Opnd) (x : Word) (maxt : BitVec 20) (blen : BitVec 12), srcVal s f a = some x → blen ≠ 0 →
       let start := nextPc f
       let last := (f.pc + 12 * blen.toNat) % 2 ^ 56
       let level (w : Bool) (n : Nat) : Level :=
         { start := start, blen := blen.toNat, maxt := maxt.toNat, pass := 1, count := n, while_ := w }
       let opened (w : Bool) (n : Nat) : Frond := { f with loops := f.loops ++ [level w n] }
       (f.loops.length < 4 → (∀ l ∈ f.loops, l.last ≠ last) →
         (x ≠ 0 → exec (.loop h a maxt blen) s = transfers s f (opened false (min x.toNat 2097151)) h start)
         ∧ (x = 0 → exec (.loop h a maxt blen) s = transfers s f f h ((last + 12) % 2 ^ 56))
         ∧ exec (.loopw h maxt blen) s = transfers s f (opened true 0) h start)
       ∧ (4 ≤ f.loops.length →
         exec (.loop h a maxt blen) s = traps s f causeLOOPTRIP (2 ^ 63 + 3 * 2 ^ 56 + start)
         ∧ exec (.loopw h maxt blen) s = traps s f causeLOOPTRIP (2 ^ 63 + 3 * 2 ^ 56 + start))
       ∧ (∀ i l, f.loops.length < 4 → f.loops[i]? = some l → l.last = last →
         (∀ j m, j < i → f.loops[j]? = some m → m.last ≠ last) →
         exec (.loop h a maxt blen) s = traps s f causeLOOPTRIP (2 ^ 62 + i * 2 ^ 56 + start)
         ∧ exec (.loopw h maxt blen) s = traps s f causeLOOPTRIP (2 ^ 62 + i * 2 ^ 56 + start)))
     ∧ (∀ ls l, f.loops = ls ++ [l] → (f.hnd = true → f.entryDepth ≤ ls.length) →
       exec (.lexit h) s = transfers s f { f with loops := ls } h ((l.last + 12) % 2 ^ 56))
     ∧ (f.loops = [] ∨ (f.hnd = true ∧ f.loops.length ≤ f.entryDepth) →
       exec (.lexit h) s = traps s f causeLOOPTRIP (2 ^ 61)))
  ∧ (∀ (s : State) (f : Frond) (h : Hints) (ls : List Level) (l : Level),
       AtIssue s f h → f.loops = ls ++ [l] → (f.hnd = true → f.entryDepth ≤ ls.length) →
       f.pc = (l.start + 12 * (l.blen - 1)) % 2 ^ 56 →
       let ended : Frond := { f with loops := ls }
       (l.while_ = false → l.count ≤ l.pass → exec (.nop h) s = transfers s f ended h (nextPc f))
       ∧ (¬ (l.while_ = false ∧ l.count ≤ l.pass) → l.pass = l.maxt →
         let past : Frond := { lastUse h { ended with errWait := false } with pc := nextPc f }
         let r := takeCause (issued s f) past causeLOOPTRIP (ls.length * 2 ^ 56 + l.start) (nextPc f) (wordOf s f)
         let x := switchMark h r.2
         exec (.nop h) s = .next (refreshSpent { r.1 with issuing := some x } x.pcid))
       ∧ (¬ (l.while_ = false ∧ l.count ≤ l.pass) → l.pass ≠ l.maxt →
         exec (.nop h) s = transfers s f { f with loops := ls ++ [{ l with pass := l.pass + 1 }] } h l.start))

/-- R159 and R160: `nop` has no effect of its own, nor has `sleep` with a count of 0; any other `sleep` leaves its
frond Blocked until the end of that many cycles, also one whose end test raises LOOPTRIP, before the first word of the handler
(log entry 99, DESIGN CHOICE). -/
def Obligations.Waiting : Prop :=
  ∀ (s : State) (f : Frond) (h : Hints), AtIssue s f h →
    exec (.nop h) s = completes s f f h
    ∧ ∀ (b : SrcB) (y : Word), srcValB s f b = some y → f.wait = .run →
      (y.setWidth 32 = 0 → exec (.sleep h b) s = completes s f f h)
      ∧ (y.setWidth 32 ≠ 0 → ∃ (t : State) (g : Frond), completes s f f h = .next t ∧ t.issuing = some g
        ∧ exec (.sleep h b) s = .next (if g.wait = .run then { t with
            issuing := some { g with wait := .sleep (s.clk + (y.setWidth 32).toNat), since := s.clk } } else t))

/-! ## Numbers -/

/-- R189, R194, R195 and R199: each scalar binary32 word writes the pattern that its operation gives for the low
32 bits of its sources, with bits 63:32 zero, and raises the flags that the operation sets, before D is written (R128). -/
def Obligations.FloatScalarWords : Prop :=
  ∀ (s : State) (f : Frond) (h : Hints) (d a : Opnd) (va : Word),
    AtIssue s f h → dstOk f d = true → srcVal s f a = some va →
    let x := va.toNat % 2 ^ 32
    let cid := cidOf (aside s) f
    let writes (r : FRes) : Answer := completes s f (putF32 f d r) h
    (∀ (rnd : BitVec 3) (b : SrcB) (vb : Word), srcValB s f b = some vb →
      let y := vb.toNat % 2 ^ 32
      let e := randomWord (aside s) f 0
      exec (.fadd h rnd d a b) s = writes (fAdd rnd.toNat e cid x y)
      ∧ exec (.fsub h rnd d a b) s = writes (fSub rnd.toNat e cid x y)
      ∧ exec (.fmul h rnd d a b) s = writes (fMul rnd.toNat e cid x y)
      ∧ exec (.fdiv h rnd d a b) s = writes (fDiv rnd.toNat e cid x y)
      ∧ exec (.fmin h false d a b) s = writes (fMinMax false false cid x y)
      ∧ exec (.fmin h true d a b) s = writes (fMinMax false true cid x y)
      ∧ exec (.fmax h false d a b) s = writes (fMinMax true false cid x y)
      ∧ exec (.fmax h true d a b) s = writes (fMinMax true true cid x y)
      ∧ exec (.fsqrt h rnd d a) s = writes (fSqrt rnd.toNat e cid x)
      ∧ exec (.frcp h rnd d a) s = writes (fRcp rnd.toNat e cid x))
    ∧ (∀ (rnd : BitVec 3) (b c : Opnd) (vb vc : Word), srcVal s f b = some vb → srcVal s f c = some vc →
      exec (.ffma h rnd d a b c) s = writes (fFma rnd.toNat (randomWord (aside s) f 0) cid x
        (vb.toNat % 2 ^ 32) (vc.toNat % 2 ^ 32)))
    ∧ exec (.fclass h d a) s = writes (fClass x, 0)

/-- R195, R196 and R199 on patterns: comparisons order patterns by sign and magnitude with −0 equal to +0, a NaN is
unordered, the lesser or greater puts −0 below +0, and each pattern has one class. R181, R191: invalid operations
give a positive NaN with the logical core in its payload and set FNV; a division of a nonzero number by zero gives
an infinity and sets FDZ; two NaNs give the one of the lesser payload, made quiet. -/
def Obligations.FloatOrder : Prop :=
  (let isNan (p : BitVec 32) : Bool := 0x7F800000 < (p &&& 0x7FFFFFFF).toNat
   let isSig (p : BitVec 32) : Bool := isNan p && !p.getLsbD 22
   let key (p : BitVec 32) : Int := if p.msb then -((p &&& 0x7FFFFFFF).toNat : Int) else p.toNat
   let flag (b : Bool) : BitVec 7 := if b then flagFNV else 0
   (∀ p q : BitVec 32,
     let un := isNan p || isNan q
     let sig := isSig p || isSig q
     let cmp (c : Nat) := fCmp c p.toNat q.toNat
     cmp 0 = (!un && key p == key q, flag sig)
     ∧ cmp 1 = (un || key p != key q, flag sig)
     ∧ cmp 2 = (!un && decide (key p < key q), flag un)
     ∧ cmp 3 = (!un && decide (key p ≤ key q), flag un)
     ∧ cmp 4 = (!un && decide (key q < key p), flag un)
     ∧ cmp 5 = (!un && decide (key q ≤ key p), flag un)
     ∧ cmp 6 = (un, flag sig)
     ∧ cmp 7 = (!un, flag sig))
   ∧ (∀ (p q : BitVec 32) (nan : Bool) (cid : Nat), isNan p = false → isNan q = false →
     let below : Bool := decide (key p < key q) || (key p == key q && p.msb && !q.msb)
     fMinMax false nan cid p.toNat q.toNat = (if below then p.toNat else q.toNat, 0)
     ∧ fMinMax true nan cid p.toNat q.toNat = (if below then q.toNat else p.toNat, 0))
   ∧ (∀ (p q : BitVec 32) (max : Bool) (cid : Nat), isNan p = true → isNan q = false →
     fMinMax max false cid p.toNat q.toNat = (q.toNat, flag (isSig p))
     ∧ fMinMax max false cid q.toNat p.toNat = (q.toNat, flag (isSig p))
     ∧ fMinMax max true cid p.toNat q.toNat = ((p ||| 0x00400000).toNat, flag (isSig p))
     ∧ fMinMax max true cid q.toNat p.toNat = ((p ||| 0x00400000).toNat, flag (isSig p)))
   ∧ (∀ p : BitVec 32,
     let m := (p &&& 0x7FFFFFFF).toNat
     fClass p.toNat = (if 0x7F800000 < m then (if p.getLsbD 22 then 0x200 else 0x100)
       else if m = 0x7F800000 then (if p.msb then 0x001 else 0x080)
       else if 0x00800000 ≤ m then (if p.msb then 0x002 else 0x040)
       else if 0 < m then (if p.msb then 0x004 else 0x020)
       else if p.msb then 0x008 else 0x010)))
  ∧ (∀ (mode rnd cid : Nat), mode < 5 → cid < 8192 →
       let inf : Nat := 0x7F800000
       let minus : Nat := 2 ^ 31
       let produced : FRes := (0x7FC00000 + cid * 512, flagFNV)
       fAdd mode rnd cid inf (minus + inf) = produced
       ∧ fAdd mode rnd cid (minus + inf) inf = produced
       ∧ fSub mode rnd cid inf inf = produced
       ∧ fMul mode rnd cid 0 inf = produced
       ∧ fMul mode rnd cid (minus + inf) 0 = produced
       ∧ fDiv mode rnd cid 0 0 = produced
       ∧ fDiv mode rnd cid inf inf = produced
       ∧ (∀ p : BitVec 32, p.msb = true → 0x80000000 < p.toNat → p.toNat ≤ 0xFF800000 →
         fSqrt mode rnd cid p.toNat = produced ∧ fRsq mode rnd cid p.toNat = produced)
       ∧ fSqrt mode rnd cid minus = (minus, 0)
       ∧ fSqrt mode rnd cid inf = (inf, 0)
       ∧ (∀ p : BitVec 32, (p &&& 0x7FFFFFFF).toNat ≠ 0 → (p &&& 0x7FFFFFFF).toNat < inf →
         fDiv mode rnd cid p.toNat 0 = (if p.msb then minus + inf else inf, flagFDZ)
         ∧ fDiv mode rnd cid p.toNat minus = (if p.msb then inf else minus + inf, flagFDZ))
       ∧ fRcp mode rnd cid 0 = (inf, flagFDZ)
       ∧ fRcp mode rnd cid minus = (minus + inf, flagFDZ)
       ∧ (∀ p q : BitVec 32, inf < (p &&& 0x7FFFFFFF).toNat → inf < (q &&& 0x7FFFFFFF).toNat →
         let r : BitVec 32 := if (q &&& 0x003FFFFF).toNat < (p &&& 0x003FFFFF).toNat then q else p
         let z : FRes := ((r ||| 0x00400000).toNat, if p.getLsbD 22 && q.getLsbD 22 then 0 else flagFNV)
         fAdd mode rnd cid p.toNat q.toNat = z ∧ fSub mode rnd cid p.toNat q.toNat = z
         ∧ fMul mode rnd cid p.toNat q.toNat = z ∧ fDiv mode rnd cid p.toNat q.toNat = z))

/-- R163, R172, R175, R176: roundings. A value that binary32 holds is its own rounding in every mode and sets no flag. Any
other finite value goes to the one of its two neighbours that the mode chooses, with FNX, FUF and FOF as `RoundsTo` says; to
an integer type of any width and sign it goes to the integer beside it that the mode chooses, or to the end of the type with
FNV (a negative value to an unsigned type, row 9, is log entry 27, DEDUCED). R183, R194 and R205: a finite sum, difference,
product, quotient, square root, fused sum and scaled value is the exact one, so rounded once. R210 and R211: `vfex2` and
`vfrsq` follow their steps. -/
def Obligations.Roundings : Prop :=
  (∀ (mode rnd : Nat) (p : BitVec 32), rnd < 65536 → (p &&& 0x7FFFFFFF).toNat ≤ 0x7F800000 →
     roundF32 mode rnd (f32 p.toNat) = (p.toNat, 0))
  ∧ (∀ (mode rnd k : Nat) (e : Int) (neg : Bool), mode < 5 → rnd < 65536 → 0 < k →
       RoundsTo mode rnd neg { num := k * 2 ^ (e + 149).toNat, den := 2 ^ (-149 - e).toNat, root := false }
         (roundF32 mode rnd (.fin neg k e)))
  ∧ (∀ (bits k rnd mode : Nat) (e : Int) (sg neg : Bool), bits ∈ [8, 16, 32, 64] → mode < 5 → rnd < 65536 → 0 < k →
       let den := 2 ^ (-e).toNat
       let lo := k * 2 ^ e.toNat / den
       let up := goesUp mode rnd neg (decide (lo % 2 = 1)) { num := k * 2 ^ e.toNat, den := den, root := false } lo (lo + 1) 1
       let r := if up then lo + 1 else lo
       let most := if sg then (if neg then 2 ^ (bits - 1) else 2 ^ (bits - 1) - 1) else if neg then 0 else 2 ^ bits - 1
       let code (x : Nat) := (BitVec.ofInt bits (if neg then -(x : Int) else x)).toNat
       convert mode (.int bits sg) rnd (.fin neg k e)
         = if r ≤ most then
             { code := code r, flags := if k * 2 ^ e.toNat % den = 0 then 0 else flagFNX, clamp := false, inf := false, nan := false }
           else { code := code most, flags := flagFNV, clamp := true, inf := false, nan := false })
  ∧ (∀ (mode rnd cid : Nat) (p q : BitVec 32), mode < 5 → rnd < 65536 →
       (p &&& 0x7FFFFFFF).toNat < 0x7F800000 → (q &&& 0x7FFFFFFF).toNat < 0x7F800000 →
       let units (x : BitVec 32) := f32Units (x &&& 0x7FFFFFFF).toNat
       let turned := p.msb != q.msb
       SumRoundsTo mode rnd (f32Signed p + f32Signed q) 1 p.msb q.msb (fAdd mode rnd cid p.toNat q.toNat)
       ∧ SumRoundsTo mode rnd (f32Signed p - f32Signed q) 1 p.msb (!q.msb) (fSub mode rnd cid p.toNat q.toNat)
       ∧ SumRoundsTo mode rnd (f32Signed p * f32Signed q) (2 ^ 149) turned turned (fMul mode rnd cid p.toNat q.toNat)
       ∧ (units q ≠ 0 → SumRoundsTo mode rnd ((if q.msb then -1 else 1) * f32Signed p * 2 ^ 149) (units q) turned turned
           (fDiv mode rnd cid p.toNat q.toNat))
       ∧ (p.msb = false → units p ≠ 0 →
           RoundsTo mode rnd false { num := units p * 2 ^ 149, den := 1, root := true } (fSqrt mode rnd cid p.toNat))
       ∧ (∀ r : BitVec 32, (r &&& 0x7FFFFFFF).toNat < 0x7F800000 →
           SumRoundsTo mode rnd (f32Signed p * f32Signed q + f32Signed r * 2 ^ 149) (2 ^ 149) turned r.msb
             (fFma mode rnd cid p.toNat q.toNat r.toNat))
       ∧ (∀ n : BitVec 32, SumRoundsTo mode rnd (f32Signed p * 2 ^ n.toInt.toNat) (2 ^ (-n.toInt).toNat) p.msb p.msb
           (fScale mode rnd cid p.toNat n.toNat))
       ∧ (128 * 2 ^ 149 ≤ f32Signed p →
           RoundsTo mode rnd false { num := 2 ^ 277, den := 1, root := false } (fEx2 mode rnd cid p.toNat))
       ∧ (f32Signed p < -160 * 2 ^ 149 →
           RoundsTo mode rnd false { num := 1, den := 2 ^ 11, root := false } (fEx2 mode rnd cid p.toNat))
       ∧ (∀ (n : Int) (f : BitVec 32), -160 * 2 ^ 149 ≤ f32Signed p → f32Signed p < 128 * 2 ^ 149 →
           f32Signed p = n * 2 ^ 149 + f32Signed f → 2 * (f32Signed f).natAbs ≤ 2 ^ 149 →
           (2 * (f32Signed f).natAbs = 2 ^ 149 → n % 2 = 0) →
           let y := [0x3AAEC3FF, 0x3C1D955B, 0x3D635847, 0x3E75FDF0, 0x3F317218, 0x3F800000].foldl
             (fun y c => (fFma 0 0 cid y f.toNat c).1) 0x39218489
           ∃ r, RoundsTo mode rnd false { num := f32Units y * 2 ^ n.toNat, den := 2 ^ (-n).toNat, root := false } r
             ∧ fEx2 mode rnd cid p.toNat = (r.1, r.2 ||| if f32Signed p % 2 ^ 149 = 0 then 0 else flagFNX))
       ∧ (∀ (m r : BitVec 32) (k : Int), p.msb = false → m.msb = false → units p ≠ 0 →
           0x3F800000 ≤ m.toNat → m.toNat < 0x40800000 → units p * 4 ^ (-k).toNat = units m * 4 ^ k.toNat →
           let step (y : Nat) :=
             (fFma 0 0 cid (fMul 0 0 cid y 0x3F000000).1 (fFma 0 0 cid ((fMul 0 0 cid y m.toNat).1 ^^^ 2 ^ 31) y 0x3F800000).1 y).1
           let y := step (step (step (step (fFma 0 0 cid 0xBE200000 m.toNat 0x3F900000).1)))
           f32Units r.toNat * 2 ^ k.toNat = f32Units y * 2 ^ (-k).toNat → fRsq mode rnd cid p.toNat = (r.toNat, flagFNX)))

/-- R196, R197 and R198: `fcmp` writes its predicate by COMB; `fcvt` writes its conversion, and with CNT counts it on
an accumulator of the frond's tile, once the words of another job that holds the set have completed; an unused format
raises OPERAND. The flags of `fcvt` are raised before D is written, so that a write to `fst` clears them (R128). -/
def Obligations.FloatComparisonsAndConversions : Prop :=
  ∀ (s : State) (f : Frond) (h : Hints) (d a : Opnd) (va : Word),
    AtIssue s f h → srcVal s f a = some va →
    (∀ (b : SrcB) (vb : Word) (cond : BitVec 4) (comb : BitVec 2), predOk f d → srcValB s f b = some vb → comb ≠ 3 →
      let r := fCmp cond.toNat (va.toNat % 2 ^ 32) (vb.toNat % 2 ^ 32)
      exec (.fcmp h d a b cond comb) s = completes s f (raiseFlags (putPred f d
        (if comb = 0 then r.1 else if comb = 1 then predVal f d && r.1 else predVal f d || r.1)) r.2) h)
    ∧ (∀ (rnd : BitVec 3) (src dst : BitVec 5) (cnt : Bool) (acc : BitVec 2), dstOk f d = true →
      (cnt = true → (featBits (aside s) f.pcid f.jid f.urgent).toNat.testBit 0 = true) →
      let unused (k : BitVec 5) : Bool := decide (0x11 ≤ k.toNat) && entryUnused (aside s) f.jid (k.toNat - 0x10)
      let v := convertKind rnd.toNat (randomWord (aside s) f 0) (nanPayload (cidOf (aside s) f) 0) src.toNat dst.toNat
        (kindEntry (aside s) f.jid src.toNat) (kindEntry (aside s) f.jid dst.toNat) va.toNat
      let after := if cnt then countedOn s f acc.toNat [v] else aside s
      let g := putDst (raiseFlags f v.flags) d
        (BitVec.ofNat 64 (extendKind src.toNat dst.toNat 64 va.toNat v.code))
      (unused src = false → unused dst = false →
        ((cnt = true → MayClaim s f) → exec (.fcvt h rnd d a src dst cnt acc) s = completesWith s f g after h)
        ∧ (cnt = true → ¬ MayClaim s f → exec (.fcvt h rnd d a src dst cnt acc) s = waits s f))
      ∧ (unused src = true →
        exec (.fcvt h rnd d a src dst cnt acc) s
          = traps s f causeOPERAND (operandInfo 5 0xF (src.toNat - 0x10)))
      ∧ (unused src = false → unused dst = true →
        exec (.fcvt h rnd d a src dst cnt acc) s
          = traps s f causeOPERAND (operandInfo 5 0xF (dst.toNat - 0x10))))

/-! ## Vectors -/

/-- R201 to R203: the integer vector words, lane by lane. -/
def Obligations.VectorIntegerWords : Prop :=
  ∀ (s : State) (f : Frond) (h : Hints), AtIssue s f h → VectorReady s f →
    (∀ (d a : Opnd) (x : Nat), srcVec f a = some x → dstVecOk f d = true →
      let writes (g : Nat → BitVec 32) : Answer := completesVec s f (putVec f d (fromLanes g)) h
      (∀ (b : SrcB) (y : Nat), srcVecB f b = some y →
        exec (.vadd h d a b) s = writes (fun l => lane x l + lane y l)
        ∧ exec (.vsub h d a b) s = writes (fun l => lane x l - lane y l)
        ∧ exec (.vmul h d a b) s = writes (fun l => lane x l * lane y l)
        ∧ exec (.vand h d a b) s = writes (fun l => lane x l &&& lane y l)
        ∧ exec (.vor h d a b) s = writes (fun l => lane x l ||| lane y l)
        ∧ exec (.vxor h d a b) s = writes (fun l => lane x l ^^^ lane y l)
        ∧ exec (.vshl h d a b) s = writes (fun l => lane x l <<< ((lane y l).toNat % 32))
        ∧ exec (.vshr h d a b) s = writes (fun l => lane x l >>> ((lane y l).toNat % 32))
        ∧ exec (.vsar h d a b) s = writes (fun l => (lane x l).sshiftRight ((lane y l).toNat % 32))
        ∧ exec (.vmin h false d a b) s = writes (fun l => if (lane x l).sle (lane y l) then lane x l else lane y l)
        ∧ exec (.vmin h true d a b) s = writes (fun l => if (lane x l).ule (lane y l) then lane x l else lane y l)
        ∧ exec (.vmax h false d a b) s = writes (fun l => if (lane x l).sle (lane y l) then lane y l else lane x l)
        ∧ exec (.vmax h true d a b) s = writes (fun l => if (lane x l).ule (lane y l) then lane y l else lane x l)
        ∧ (∀ (lt : Bool),
          let less (p q : BitVec 32) : Bool := if lt then p.ult q else p.slt q
          let mark (c : BitVec 32 → BitVec 32 → Bool) : Answer :=
            writes (fun l => if c (lane x l) (lane y l) then 0xFFFFFFFF else 0)
          exec (.vcmp h lt 0 d a b) s = mark (fun p q => p == q)
          ∧ exec (.vcmp h lt 1 d a b) s = mark (fun p q => p != q)
          ∧ exec (.vcmp h lt 2 d a b) s = mark less
          ∧ exec (.vcmp h lt 3 d a b) s = mark (fun p q => !less q p)
          ∧ exec (.vcmp h lt 4 d a b) s = mark (fun p q => less q p)
          ∧ exec (.vcmp h lt 5 d a b) s = mark (fun p q => !less p q)))
      ∧ (∀ (b : Opnd) (y : Nat), srcVec f b = some y →
        exec (.vperm h d a b) s = writes (fun l => lane x ((lane y l).toNat % 16))
        ∧ ∀ (c : Opnd) (z : Nat), srcVec f c = some z →
          exec (.vmad h d a b c) s = writes (fun l => lane x l * lane y l + lane z l)
          ∧ exec (.vsel h d a b c) s = writes (fun l => if lane z l ≠ 0 then lane x l else lane y l))
      ∧ exec (.vscan h false d a) s = writes (fun l => ((List.range (l + 1)).map (lane x)).foldl (· + ·) 0)
      ∧ exec (.vscan h true d a) s = writes (fun l => ((List.range l).map (lane x)).foldl (· + ·) 0))
    ∧ (∀ (d a : Opnd) (x : Word), srcVal s f a = some x → dstVecOk f d = true →
      exec (.vbcast h d a) s = completesVec s f (putVec f d (fromLanes (fun _ => x.setWidth 32))) h
      ∧ ∀ (b : SrcB) (y : Word), srcValB s f b = some y →
        exec (.viota h d a b) s
          = completesVec s f (putVec f d (fromLanes (fun l => x.setWidth 32 + BitVec.ofNat 32 l * y.setWidth 32))) h
        ∧ ∀ z : Nat, srcVec f d = some z →
          exec (.vins h d a b) s = completesVec s f (putVec f d (fromLanes (fun l =>
            if l = y.toNat % 16 then x.setWidth 32 else lane z l))) h)
    ∧ (∀ (d a : Opnd) (x : Nat), srcVec f a = some x → dstOk f d = true → ∀ lt : Bool,
      let writes (r : BitVec 32) : Answer :=
        completesVec s f (putDst f d (if lt then r.setWidth 64 else r.signExtend 64)) h
      (∀ (b : SrcB) (y : Word), srcValB s f b = some y →
        exec (.vext h lt d a b) s = writes (lane x (y.toNat % 16)))
      ∧ exec (.vredadd h lt d a) s = writes (((List.range 16).map (lane x)).foldl (· + ·) 0)
      ∧ (∃ l, l < 16 ∧ exec (.vredmin h lt d a) s = writes (lane x l)
        ∧ ∀ m, m < 16 → if lt then (lane x l).toNat ≤ (lane x m).toNat else (lane x l).toInt ≤ (lane x m).toInt)
      ∧ (∃ l, l < 16 ∧ exec (.vredmax h lt d a) s = writes (lane x l)
        ∧ ∀ m, m < 16 → if lt then (lane x m).toNat ≤ (lane x l).toNat else (lane x m).toInt ≤ (lane x l).toInt))

/-- R205 to R211: the binary32 vector words; lane `l` is element `l` of its rounding, and a flag is set when a lane
sets it, after the write of D (log entry 100, DESIGN CHOICE). Conversions to an unsigned type and of a NaN of a 16-bit format
are those of log entries 27 and 76 (DEDUCED). -/
def Obligations.VectorFloatWords : Prop :=
  ∀ (s : State) (f : Frond) (h : Hints) (rnd : BitVec 3) (d a : Opnd) (x : Nat),
    AtIssue s f h → VectorReady s f → srcVec f a = some x →
    let cid := cidOf (aside s) f
    let e := randomWord (aside s) f
    let m := rnd.toNat
    let p (l : Nat) := (lane x l).toNat
    (dstVecOk f d = true →
      let writes (r : Nat → FRes) : Answer := completesVec s f (putF32s f d r) h
      (∀ (b : SrcB) (y : Nat), srcVecB f b = some y →
        let q (l : Nat) := (lane y l).toNat
        exec (.vfadd h rnd d a b) s = writes (fun l => fAdd m (e l) cid (p l) (q l))
        ∧ exec (.vfsub h rnd d a b) s = writes (fun l => fSub m (e l) cid (p l) (q l))
        ∧ exec (.vfmul h rnd d a b) s = writes (fun l => fMul m (e l) cid (p l) (q l))
        ∧ exec (.vfscale h rnd d a b) s = writes (fun l => fScale m (e l) cid (p l) (q l))
        ∧ (∀ nan : Bool, exec (.vfmin h nan rnd d a b) s = writes (fun l => fMinMax false nan cid (p l) (q l))
          ∧ exec (.vfmax h nan rnd d a b) s = writes (fun l => fMinMax true nan cid (p l) (q l)))
        ∧ (∀ cond : BitVec 4, exec (.vfcmp h cond d a b) s = writes (fun l =>
          (if (fCmp cond.toNat (p l) (q l)).1 then 0xFFFFFFFF else 0, (fCmp cond.toNat (p l) (q l)).2))))
      ∧ (∀ (b c : Opnd) (y z : Nat), srcVec f b = some y → srcVec f c = some z →
        exec (.vffma h rnd d a b c) s
          = writes (fun l => fFma m (e l) cid (p l) (lane y l).toNat (lane z l).toNat))
      ∧ exec (.vfex2 h rnd d a) s = writes (fun l => fEx2 m (e l) cid (p l))
      ∧ exec (.vfrsq h rnd d a) s = writes (fun l => fRsq m (e l) cid (p l))
      ∧ (∀ src dst : BitVec 5, exec (.vfcvt h rnd d a src dst) s = writes (fun l =>
        let c := convertKind m (e l) (nanPayload cid 0) src.toNat dst.toNat 0 0 (p l)
        (extendKind src.toNat dst.toNat 32 (p l) c.code, c.flags))))
    ∧ (∀ z : Word, dstOk f d = true → srcVal s f d = some z →
      let fold (step : Nat → Nat → Nat → FRes) : FRes := (List.range 16).foldl (fun r l =>
        let t := step l r.1 (p l)
        (t.1, r.2 ||| t.2)) (z.toNat % 2 ^ 32, 0)
      let writes (r : FRes) : Answer := completesVec s f (putF32 f d r) h
      exec (.vfred h 0 rnd d a) s = writes (fold (fun l => fAdd m (e l) cid))
      ∧ exec (.vfred h 1 rnd d a) s = writes (fold (fun _ => fMinMax false false cid))
      ∧ exec (.vfred h 2 rnd d a) s = writes (fold (fun _ => fMinMax true false cid)))

/-- R209 and R198: `vfunpk` decodes 16 bytes of its source through a format under a scale, and gives the plain NaN for
any NaN code (R166, R180), `vfpack` encodes 16 lanes
into 16 bytes of its destination and keeps the other 48, and counts as `fcvt` does; an unused format raises OPERAND. -/
def Obligations.PackingWords : Prop :=
  ∀ (s : State) (f : Frond) (h : Hints) (rnd : BitVec 3) (d a b : Opnd) (fcode : BitVec 4) (sel : BitVec 2)
    (sc : Bool) (x : Nat) (vb : Word),
    AtIssue s f h → VectorReady s f → srcVec f a = some x → dstVecOk f d = true →
    (sc = true → srcVal s f b = some vb) →
    (fcode ≠ 0 ∧ entryUnused (aside s) f.jid fcode.toNat = false →
      let fm := fmtOfEntry (formatEntry (aside s) f.jid fcode.toNat)
      let pay := nanPayload (cidOf (aside s) f) 0
      let e := randomWord (aside s) f
      let scale : Option Int := if sc then scaleExp (vb.toNat % 256) else some 0
      let j (l : Nat) := 16 * sel.toNat + l
      exec (.vfunpk h rnd d a b fcode sel sc) s = completesVec s f (putF32s f d (fun l =>
        roundF32 rnd.toNat (e (j l))
          (plainNan (scaleNum (decodeNarrow fm pay (x / 2 ^ (8 * j l) % 256)) scale pay)))) h
      ∧ ∀ (cnt : Bool) (acc : BitVec 2) (z : Nat), srcVec f d = some z →
        (cnt = true → (featBits (aside s) f.pcid f.jid f.urgent).toNat.testBit 0 = true) →
        let c (l : Nat) : Conv := convert rnd.toNat (.float fm) (e (j l))
          (scaleNum (f32 (lane x l).toNat) (scale.map (fun k => -k)) pay)
        let cs := (List.range 16).map c
        let after := if cnt then countedOn s f acc.toNat cs else aside s
        (cnt = true → ¬ MayClaim s f → exec (.vfpack h rnd d a b fcode sel sc cnt acc) s = waits s f)
        ∧ ((cnt = true → MayClaim s f) → ∃ r : Nat, exec (.vfpack h rnd d a b fcode sel sc cnt acc) s
            = completesWith s f (raiseFlags (putVec f d r) (cs.foldl (fun b v => b ||| v.flags) 0))
              (usePipe after f) h
          ∧ (∀ l, l < 16 → r / 2 ^ (8 * j l) % 256 = (c l).code % 256)
          ∧ (∀ i, i < 64 → (i < j 0 ∨ j 15 < i) → r / 2 ^ (8 * i) % 256 = z / 2 ^ (8 * i) % 256)))
    ∧ (fcode ≠ 0 → entryUnused (aside s) f.jid fcode.toNat = true →
      exec (.vfunpk h rnd d a b fcode sel sc) s = traps s f causeOPERAND (operandInfo 5 0xF fcode.toNat)
      ∧ ∀ (cnt : Bool) (acc : BitVec 2) (z : Nat), srcVec f d = some z →
        (cnt = true → (featBits (aside s) f.pcid f.jid f.urgent).toNat.testBit 0 = true) →
        exec (.vfpack h rnd d a b fcode sel sc cnt acc) s
          = traps s f causeOPERAND (operandInfo 5 0xF fcode.toNat))

/-- R107 to R109 and R212: a P-form word named by its scalar half acts as both halves: both read all their operands
before either writes, and each writes what its own word writes. DZ comes before the write of SD, and the flags of the vector
half after both writes (log entry 100, DESIGN CHOICE). R107 to R109 and R212: the same, for a P-form word
named by its vector half. -/
def Obligations.PairWords : Prop :=
  (∀ (s : State) (f : Frond) (h : Hints) (sd sa : BitVec 8) (sb : Opnd) (v : VHalf),
     AtIssue s f h → VectorReady s f →
     ∀ (a b t : Word) (va vb vc : Nat),
     let half (sop : BitVec 7) : SHalf := { sop := sop, sd := sd, sa := sa, sb := sb }
     let reads (sop : BitVec 7) : Prop := PairReads s f (half sop) v a b t va vb vc
     let acts (sop : BitVec 7) : Answer := completesPair s f h (half sop) v a b t va vb vc
     (reads 0 → exec (.addPform h sd sa sb v) s = acts 0)
     ∧ (reads 1 → exec (.subPform h sd sa sb v) s = acts 1)
     ∧ (reads 2 → exec (.mulPform h sd sa sb v) s = acts 2)
     ∧ (reads 3 → exec (.mulhPform h sd sa sb v) s = acts 3)
     ∧ (reads 4 → exec (.mulhnPform h sd sa sb v) s = acts 4)
     ∧ (reads 5 → exec (.divPform h sd sa sb v) s = acts 5)
     ∧ (reads 6 → exec (.divnPform h sd sa sb v) s = acts 6)
     ∧ (reads 7 → exec (.remPform h sd sa sb v) s = acts 7)
     ∧ (reads 8 → exec (.remnPform h sd sa sb v) s = acts 8)
     ∧ (reads 9 → exec (.andPform h sd sa sb v) s = acts 9)
     ∧ (reads 10 → exec (.orPform h sd sa sb v) s = acts 10)
     ∧ (reads 11 → exec (.xorPform h sd sa sb v) s = acts 11)
     ∧ (reads 12 → exec (.andnPform h sd sa sb v) s = acts 12)
     ∧ (reads 13 → exec (.ornPform h sd sa sb v) s = acts 13)
     ∧ (reads 14 → exec (.shlPform h sd sa sb v) s = acts 14)
     ∧ (reads 15 → exec (.shrPform h sd sa sb v) s = acts 15)
     ∧ (reads 16 → exec (.sarPform h sd sa sb v) s = acts 16)
     ∧ (reads 17 → exec (.rolPform h sd sa sb v) s = acts 17)
     ∧ (reads 18 → exec (.minPform h sd sa sb v) s = acts 18)
     ∧ (reads 19 → exec (.maxPform h sd sa sb v) s = acts 19)
     ∧ (reads 20 → exec (.minnPform h sd sa sb v) s = acts 20)
     ∧ (reads 21 → exec (.maxnPform h sd sa sb v) s = acts 21)
     ∧ (reads 22 → exec (.clzPform h sd sa sb v) s = acts 22)
     ∧ (reads 23 → exec (.ctzPform h sd sa sb v) s = acts 23)
     ∧ (reads 24 → exec (.popcPform h sd sa sb v) s = acts 24)
     ∧ (reads 25 → exec (.brevPform h sd sa sb v) s = acts 25)
     ∧ (reads 26 → exec (.bswapPform h sd sa sb v) s = acts 26)
     ∧ (reads 30 → exec (.movPform h sd sa sb v) s = acts 30)
     ∧ (reads 34 → exec (.madPform h sd sa sb v) s = acts 34))
  ∧ (∀ (s : State) (f : Frond) (h : Hints) (vd va vb vc : BitVec 5) (ty : BitVec 4) (rm : BitVec 2) (x : SHalf),
       AtIssue s f h → VectorReady s f → sopOk x.sop.toNat = true →
       ∀ (a b t : Word) (xa xb xc : Nat),
       let half (vop : BitVec 7) : VHalf := { vop := vop, vd := vd, va := va, vb := vb, vc := vc, ty := ty, rm := rm }
       let reads (vop : BitVec 7) : Prop := PairReads s f x (half vop) a b t xa xb xc
       let acts (vop : BitVec 7) : Answer := completesPair s f h x (half vop) a b t xa xb xc
       (reads 0x0 → exec (.vaddPform h vd va vb vc ty rm x) s = acts 0x0)
       ∧ (reads 0x1 → exec (.vsubPform h vd va vb vc ty rm x) s = acts 0x1)
       ∧ (reads 0x2 → exec (.vmulPform h vd va vb vc ty rm x) s = acts 0x2)
       ∧ (reads 0x3 → exec (.vmadPform h vd va vb vc ty rm x) s = acts 0x3)
       ∧ (reads 0x4 → exec (.vandPform h vd va vb vc ty rm x) s = acts 0x4)
       ∧ (reads 0x5 → exec (.vorPform h vd va vb vc ty rm x) s = acts 0x5)
       ∧ (reads 0x6 → exec (.vxorPform h vd va vb vc ty rm x) s = acts 0x6)
       ∧ (reads 0x7 → exec (.vshlPform h vd va vb vc ty rm x) s = acts 0x7)
       ∧ (reads 0x8 → exec (.vshrPform h vd va vb vc ty rm x) s = acts 0x8)
       ∧ (reads 0x9 → exec (.vsarPform h vd va vb vc ty rm x) s = acts 0x9)
       ∧ (reads 0xa → exec (.vminPform h vd va vb vc ty rm x) s = acts 0xa)
       ∧ (reads 0xb → exec (.vmaxPform h vd va vb vc ty rm x) s = acts 0xb)
       ∧ (reads 0x11 → exec (.vpermPform h vd va vb vc ty rm x) s = acts 0x11)
       ∧ (reads 0x15 → exec (.vscanPform h vd va vb vc ty rm x) s = acts 0x15)
       ∧ (reads 0x40 → exec (.vfaddPform h vd va vb vc ty rm x) s = acts 0x40)
       ∧ (reads 0x41 → exec (.vfsubPform h vd va vb vc ty rm x) s = acts 0x41)
       ∧ (reads 0x42 → exec (.vfmulPform h vd va vb vc ty rm x) s = acts 0x42)
       ∧ (reads 0x43 → exec (.vffmaPform h vd va vb vc ty rm x) s = acts 0x43)
       ∧ (reads 0x44 → exec (.vfminPform h vd va vb vc ty rm x) s = acts 0x44)
       ∧ (reads 0x45 → exec (.vfmaxPform h vd va vb vc ty rm x) s = acts 0x45)
       ∧ (reads 0x4b → exec (.vfscalePform h vd va vb vc ty rm x) s = acts 0x4b)
       ∧ (reads 0x4c → exec (.vfex2Pform h vd va vb vc ty rm x) s = acts 0x4c)
       ∧ (reads 0x4d → exec (.vfrsqPform h vd va vb vc ty rm x) s = acts 0x4d))

/-! ## Loads, stores and residency -/

/-- R247 to R253: a load whose elements pass every check starts as one flight on path CORE that carries them; its
destination becomes outstanding, and nothing is written at issue. With `wait` (R230, R252) the frond waits at the
port. -/
def Obligations.LoadsStart : Prop :=
  ∀ (s : State) (f : Frond) (h : Hints) (m : MemFn) (d a : Opnd) (disp : BitVec 32) (x : Word) (es : List Elem)
    (wait : Bool) (g : Frond) (t : State),
    AtIssue s f h → MayAccess s f → srcVal s f a = some x →
    let c0 := startOf s f
    let c : Ctx := { f := g, s := t, flags := 0 }
    let flies (vec piece : Bool) : Answer := flies s f h wait c
      { path := pathCORE, op := .load m.mty.toNat vec, dest := destOf d, elems := es, piece := piece
        acq := if m.ord = 0 then none else some (m.ord.toNat - 1) }
    let at_ (sites : Nat → List (Nat × Nat)) : Prop :=
      Gives (elementsOf m.mty.toNat m.raw m.l false none sites) c0 es c0 ∧ Gives (serveWalk h es) c0 wait c
    (resOk f d = true → at_ (fun _ => [(0, addressOf x disp)]) → exec (.ld h m d a disp) s = flies false false)
    ∧ (dstVecOk f d = true →
      at_ (fun n => (List.range 16).map (fun l => (l, (addressOf x disp + l * n) % 2 ^ 64))) →
      exec (.vld h m d a disp) s = flies true true)
    ∧ (∀ (b : Opnd) (y : Word), dstVecOk f d = true → srcVal s f b = some y →
      at_ (fun _ => (List.range 16).map (fun l => (l, (addressOf x disp + l * y.toNat) % 2 ^ 64))) →
      exec (.vlds h m d a b disp) s = flies true false)

/-- R250 to R253: a store whose elements pass every check, and whose release condition holds when it has one, starts
as one flight on path CORE that carries its values; the frond goes on, and no byte is written at issue. -/
def Obligations.StoresStart : Prop :=
  ∀ (s : State) (f : Frond) (h : Hints) (m : MemFn) (a : Opnd) (disp : BitVec 32) (x : Word) (es : List Elem)
    (wait : Bool) (g : Frond) (t : State),
    AtIssue s f h → acquiring (aside s) f.uid = false → srcVal s f a = some x →
    (m.ord ≠ 0 → Released s f onCORE (m.ord.toNat - 1)) →
    let c0 := startOf s f
    let c : Ctx := { f := g, s := t, flags := 0 }
    let flies (piece : Bool) (val : Nat → Nat) : Answer := flies s f h wait c
      { path := pathCORE, op := .store, piece := piece, elems := es.map (fun e => { e with val := val e.lane }) }
    let at_ (sites : Nat → List (Nat × Nat)) : Prop :=
      Gives (elementsOf m.mty.toNat m.raw m.l true none sites) c0 es c0 ∧ Gives (serveWalk h es) c0 wait c
        ∧ Gives (waitClock es) c () c
    (∀ (b : Opnd) (y : Word), srcVal s f b = some y → at_ (fun _ => [(0, addressOf x disp)]) →
      exec (.st h m a b disp) s = flies false (fun _ => y.toNat))
    ∧ (∀ (b : Opnd) (y : Nat), srcVec f b = some y →
      at_ (fun n => (List.range 16).map (fun l => (l, (addressOf x disp + l * n) % 2 ^ 64))) →
      exec (.vst h m a b disp) s = flies true (fun l => (lanesOf y).getD l 0))
    ∧ (∀ (b d : Opnd) (y : Word) (z : Nat), srcVal s f b = some y → srcVec f d = some z →
      at_ (fun _ => (List.range 16).map (fun l => (l, (addressOf x disp + l * y.toNat) % 2 ^ 64))) →
      exec (.vsts h m d a b disp) s = flies false (fun l => (lanesOf z).getD l 0))

/-- R247: what a `.l` access of an integer type checks, in order: the reach of the local store, then alignment; it then
names the bytes at its offset in the local store of the frond's core. R342: a synchronising word lies in a local
store: an own-core offset, or a window address; any other address raises XLATE, and one that is not a multiple of 8
raises ALIGN. R257 and R184: `lsfmt` writes its code to the regions it names and to no other, after the frond's own
local accesses; its checks raise ALIGN, XLATE and OPERAND in this order. -/
def Obligations.LocalStore : Prop :=
  (∀ (s : State) (f : Frond) (mty : Nat) (write : Bool) (ea : Nat), mty < 8 →
     let n := 2 ^ (mty % 4)
     let c := startOf s f
     let run := elementsOf mty false true write none (fun _ => [(0, ea)])
     (ea + n ≤ 0x60000 → ea % n = 0 →
       Gives run c [{ place := .ls (f.pcid * 2 ^ 20 + ea), va := windowBase + (f.pcid * 2 ^ 20 + ea), size := n, lane := 0
                      coding := .raw, val := 0, performed := false, applied := false, cnt := none }] c)
     ∧ (0x60000 < ea + n → Stops run c (.trap causeXLATE ea) c)
     ∧ (ea + n ≤ 0x60000 → ea % n ≠ 0 → Stops run c (.trap causeALIGN ea) c))
  ∧ (∀ (s : State) (f : Frond) (ea : Nat) (o : Opnd),
       let c := startOf s f
       let is (a : Nat) : Elem :=
         { place := .ls a, va := windowBase + a, size := 8, lane := o.toNat, coding := .raw, val := 0
           performed := false, applied := false, cnt := none }
       (ea + 8 ≤ 0x60000 → ea % 8 = 0 → Gives (syncSite true ea o) c (is (f.pcid * 2 ^ 20 + ea)) c)
       ∧ (0x60000 < ea + 8 → Stops (syncSite true ea o) c (.trap causeXLATE ea) c)
       ∧ (ea + 8 ≤ 0x60000 → ea % 8 ≠ 0 → Stops (syncSite true ea o) c (.trap causeALIGN ea) c)
       ∧ (inWindow ea = false → Stops (syncSite false ea o) c (.trap causeXLATE ea) c)
       ∧ (∀ p off, windowOk (aside s) f.jid ea = some (p, off) → off + 8 ≤ 0x60000 → ea % 8 = 0 →
         inWindow ea = true → Gives (syncSite false ea o) c (is (ea - windowBase)) c))
  ∧ (∀ (s : State) (f : Frond) (h : Hints) (a : Opnd) (fcode : BitVec 4) (n1 : BitVec 5) (x : Word),
       AtIssue s f h → acquiring (aside s) f.uid = false → srcVal s f a = some x →
       let r := x.toNat / 0x4000
       let n := n1.toNat + 1
       let carrels := (getCore (aside s) f.pcid).carrels.length
       (x.toNat % 0x4000 ≠ 0 → exec (.lsfmt h a fcode n1) s = traps s f causeALIGN x.toNat)
       ∧ (x.toNat % 0x4000 = 0 → 24 < r + n → exec (.lsfmt h a fcode n1) s = traps s f causeXLATE x.toNat)
       ∧ (x.toNat % 0x4000 = 0 → r + n ≤ 24 → 24 - carrels < r + n →
         exec (.lsfmt h a fcode n1) s = traps s f causeOPERAND (operandInfo 4 0xA 0))
       ∧ (x.toNat % 0x4000 = 0 → r + n ≤ 24 - carrels → localPending (aside s) f.uid f.pcid = true →
         exec (.lsfmt h a fcode n1) s = waits s f)
       ∧ (x.toNat % 0x4000 = 0 → r + n ≤ 24 - carrels → localPending (aside s) f.uid f.pcid = false →
         mapWf 0 s.fmtMap →
         ∃ m : SMap Nat, exec (.lsfmt h a fcode n1) s = completesWith s f f { aside s with fmtMap := m } h
           ∧ ∀ y, regionCode { aside s with fmtMap := m } y
             = if f.pcid * 64 + r ≤ y / 0x4000 ∧ y / 0x4000 < f.pcid * 64 + r + n then fcode.toNat
               else regionCode s y))

/-- R255 and R256: `hold` and `pin` reach their block as a load does, and a `pin` or `unpin` at the frond's own core
answers in its predicate at once; off WALK pages `hold` does nothing more and the others answer false. R256: a
`pin` adds one to the count of a resident carrel unless the count is 255, or the carrel is unpinned and every other
carrel of the core is pinned; an `unpin` takes one from a nonzero count; a block that is not resident answers false
and changes nothing. -/
def Obligations.ResidencyWords : Prop :=
  (∀ (s : State) (f : Frond) (h : Hints) (a : Opnd) (disp : BitVec 32) (x : Word) (e : Elem) (wait : Bool) (g : Frond)
     (t : State),
     AtIssue s f h → MayAccess s f → srcVal s f a = some x →
     let c0 := startOf s f
     let c : Ctx := { f := g, s := t, flags := 0 }
     Gives (residencySite (addressOf x disp)) c0 e c0 →
     (Gives (serveWalk h [e]) c0 wait c →
       exec (.hold h a disp) s = if wait then flies s f h true c { path := pathCORE, op := .touch, elems := [e] }
         else completesWith s f g t h)
     ∧ (∀ (d : Opnd) (jid block off pa : Nat), predOk f d → e.place = .walk jid block off pa →
       (Gives (serveWalk h [e]) c0 wait c →
         let r := pinBlock t jid block true
         exec (.pin h d a disp) s
           = if wait then flies s f h true c { path := pathCORE, op := .pin true, dest := destOf d, elems := [e] }
             else completesWith s f (putPred g d r.1) r.2 h)
       ∧ (let r := pinBlock (aside s) jid block false
         exec (.unpin h d a disp) s
           = if (findJob (aside s) jid).bind (fun j => homeCore j block) = some f.pcid
             then completesWith s f (putPred f d r.1) r.2 h
             else flies s f h false c0 { path := pathCORE, op := .pin false, dest := destOf d, elems := [e] }))
     ∧ (∀ d : Opnd, predOk f d → (∀ jid block off pa, e.place ≠ .walk jid block off pa) →
       exec (.pin h d a disp) s = completes s f (putPred f d false) h
       ∧ exec (.unpin h d a disp) s = completes s f (putPred f d false) h))
  ∧ (∀ (s : State) (jid block : Nat) (add : Bool),
       (residentAt s jid block = none → pinBlock s jid block add = (false, s))
       ∧ ∀ (home k : Nat) (x : Carrel), residentAt s jid block = some (home, k) →
         (getCore s home).carrels[k]? = some x →
         let others := (getCore s home).carrels.zipIdx.any (fun e => e.2 != k && e.1.pins == 0)
         let r := pinBlock s jid block add
         (r.1 = true ↔ if add then x.pins < 255 ∧ (x.pins ≠ 0 ∨ others = true) else x.pins ≠ 0)
         ∧ ((getCore r.2 home).carrels[k]?).map (fun y => y.pins)
           = some (if r.1 then (if add then x.pins + 1 else x.pins - 1) else x.pins)
         ∧ r.2.ls = s.ls ∧ r.2.hbm = s.hbm ∧ r.2.fronds = s.fronds ∧ r.2.jobs = s.jobs)

/-! ## Synchronising words -/

/-- R345, R346, R355 and R367: `ldf`, `lde`, `stf`, `bwait` and `bar` hold their frond until the port answers; `sto`,
`clrf`, `bexp` and `barv` start and the frond goes on; the releases among them issue only when released. -/
def Obligations.SyncWords : Prop :=
  ∀ (s : State) (f : Frond) (h : Hints) (scope : BitVec 3) (l : Bool) (d a b : Opnd) (disp : BitVec 32) (x y : Word)
    (e : Elem),
    AtIssue s f h → MayAccess s f → srcVal s f a = some x → srcVal s f b = some y →
    let c0 := startOf s f
    let op (o : SyncOp) (n : Nat) (dest : Dest) (e : Elem) : Launch :=
      { path := pathCORE, op := .sync o n, dest := dest, elems := [e] }
    Gives (syncSite l (addressOf x disp) 0) c0 e c0 → Gives (waitClock [e]) c0 () c0 →
    (resOk f d = true →
      exec (.ldf h scope l d a disp) s = flies s f h true c0 (op .ldf 0 (destOf d) e)
      ∧ exec (.lde h scope l d a disp) s = flies s f h true c0 (op .lde 0 (destOf d) e)
      ∧ (y.toNat < 2 ^ 47 → exec (.bexp h scope l d a b disp) s = flies s f h false c0 (op .bexp y.toNat (destOf d) e))
      ∧ (2 ^ 47 ≤ y.toNat →
        exec (.bexp h scope l d a b disp) s = traps s f causeOPERAND (operandInfo 5 2 b.toNat)))
    ∧ exec (.clrf h l a disp) s = flies s f h false c0 (op .clrf 0 .none e)
    ∧ exec (.bwait h scope l a b disp) s = flies s f h true c0 (op .bwait (y.toNat % 2 ^ 14) .none e)
    ∧ (Released s f onCORE scope.toNat →
      exec (.stf h scope l a b disp) s = flies s f h true c0 (op .stf y.toNat .none e)
      ∧ exec (.sto h scope l a b disp) s = flies s f h false c0 (op .sto y.toNat .none e)
      ∧ (y.toNat < 2 ^ 47 → exec (.barv h scope l a b disp) s = flies s f h false c0 (op .barv y.toNat .none e))
      ∧ (2 ^ 47 ≤ y.toNat → exec (.barv h scope l a b disp) s = traps s f causeOPERAND (operandInfo 5 2 b.toNat))
      ∧ (0 < y.toNat → y.toNat < 2 ^ 24 → exec (.bar h scope l a b disp) s
        = flies s f h true c0 (op .bar y.toNat .none { e with lane := b.toNat }))
      ∧ (y.toNat = 0 ∨ 2 ^ 24 ≤ y.toNat →
        exec (.bar h scope l a b disp) s = traps s f causeOPERAND (operandInfo 5 2 b.toNat)))
    ∧ ((f.outs ≠ [] ∨ released (aside s) f.uid onCORE scope.toNat = false) →
      exec (.stf h scope l a b disp) s = waits s f
      ∧ exec (.sto h scope l a b disp) s = waits s f
      ∧ exec (.barv h scope l a b disp) s = waits s f
      ∧ exec (.bar h scope l a b disp) s = waits s f)

/-- R350 to R352: an atomic whose address passes its checks starts as one read-modify-write, by the routine of its
operation, of its element; the compared value of `acas` is the old D. R329, R331 and R353: a `fence` or `xfence`
issues once the earlier accesses that it covers allow it, and then has no other effect; until then its chances
pass. -/
def Obligations.AtomicsAndFences : Prop :=
  (∀ (s : State) (f : Frond) (h : Hints) (m : AtomFn) (d a b : Opnd) (disp : BitVec 32) (x y : Word) (e : Elem)
     (path : Nat) (wait : Bool) (g : Frond) (t : State),
     AtIssue s f h → MayAccess s f → resOk f d = true → srcVal s f a = some x →
     srcVal s f b = some y →
     (m.ord.toNat.testBit 1 = true → Released s f onCoreShip m.scope.toNat) →
     let c0 := startOf s f
     let c : Ctx := { f := g, s := t, flags := 0 }
     let size := if m.ty.toNat % 2 = 1 then 8 else 4
     let low (v : Word) : Nat := v.toNat % 2 ^ (8 * size)
     let unsigned := m.ty.toNat.testBit 1
     let starts (rout v w : Nat) : Answer := flies s f h wait c
       { path := path, op := .rmw rout unsigned v w (!unsigned), dest := destOf d, elems := [e]
         acq := if m.ord.toNat % 2 = 1 then some m.scope.toNat else none }
     Gives (atomicSite m.l (addressOf x disp) size) c0 (e, path) c0 → Gives (serveWalk h [e]) c0 wait c →
     Gives (waitClock [e]) c () c →
     exec (.aadd h m d a b disp) s = starts 0 (low y) 0
     ∧ exec (.amin h m d a b disp) s = starts 1 (low y) 0
     ∧ exec (.amax h m d a b disp) s = starts 2 (low y) 0
     ∧ exec (.axchg h m d a b disp) s = starts 4 (low y) 0
     ∧ exec (.aand h m d a b disp) s = starts 5 (low y) 0
     ∧ exec (.aor h m d a b disp) s = starts 6 (low y) 0
     ∧ exec (.axor h m d a b disp) s = starts 7 (low y) 0
     ∧ ∀ z : Word, srcVal s f d = some z → exec (.acas h m d a b disp) s = starts 3 (low z) (low y))
  ∧ (∀ (s : State) (f : Frond) (h : Hints) (scope : BitVec 3), AtIssue s f h →
       acquiring (aside s) f.uid = false →
       (∀ kind : BitVec 2,
         let ready := (kind.toNat.testBit 0 = true → loadsLanded (aside s) f.uid onCORE = true)
           ∧ (kind.toNat.testBit 1 = true → released (aside s) f.uid onCORE scope.toNat = true)
         (ready → exec (.fence h kind scope) s = completes s f f h) ∧ (¬ ready → exec (.fence h kind scope) s = waits s f))
       ∧ ∀ mask : BitVec 6,
         let ready := released (aside s) f.uid (fun p => mask.toNat.testBit p) scope.toNat = true
           ∧ (mask.getLsbD 1 = true → copiesDone (aside s) f.uid = true)
           ∧ (mask.getLsbD 2 = true → matrixQuiet (aside s) f.uid = true)
         (ready → exec (.xfence h scope mask) s = completes s f f h)
         ∧ (¬ ready → exec (.xfence h scope mask) s = waits s f))

/-! ## Views -/

/-- R260, R261, R264 to R266: the words on view registers. `wret` retires a view once its stores have been performed;
`wqry` and `wfoot` read it, `wfoot` the lowest and the highest byte address of its elements and their lattice step, and
raise OPERAND for a result D that is a port or a special operand (R278); `wadj` moves its origin within its extents, or
raises VIEWBOUND and changes nothing. -/
def Obligations.ViewRegisters : Prop :=
  ∀ (s : State) (f : Frond) (h : Hints), AtIssue s f h → acquiring (aside s) f.uid = false →
    (∀ a : Opnd, objOk a 0xA0 0xA3 →
      let w := a.toNat - 0xA0
      (viewOf f w = none → exec (.wret h a) s = completes s f f h)
      ∧ ∀ v, viewOf f w = some v →
        (viewReleased (aside s) f w v = false → exec (.wret h a) s = waits s f)
        ∧ (viewReleased (aside s) f w v = true → (∀ g ∈ s.fronds, g.uid ≠ f.uid) → (∀ b ∈ s.binds, b.uid ≠ f.uid) →
          ∃ t, exec (.wret h a) s = completesWith s f (setView f w none) t h
            ∧ (∀ e ∈ t.catalogue, ¬ (e.uid = f.uid ∧ e.w = w)) ∧ t.ls = s.ls ∧ t.hbm = s.hbm))
    ∧ (∀ d a : Opnd, resOk f d = true → objOk a 0xA0 0xA3 →
      let w := a.toNat - 0xA0
      let writes (x : Word) : Answer := completes s f (putDst f d x) h
      (viewOf f w = none → (∀ sel, exec (.wqry h d a sel) s = writes 0) ∧ ∀ sel, exec (.wfoot h d a sel) s = writes 0)
      ∧ ∀ v, viewOf f w = some v →
        exec (.wqry h d a 0) s = writes ((v.extractLsb' 0 56).setWidth 64)
        ∧ exec (.wqry h d a 1) s = writes ((v.extractLsb' 64 32).setWidth 64)
        ∧ exec (.wqry h d a 14) s = writes 1
        ∧ (∀ k, k < 4 →
          exec (.wqry h d a (BitVec.ofNat 4 (2 + k))) s = writes ((v.extractLsb' (128 + 32 * k) 32).setWidth 64)
          ∧ exec (.wqry h d a (BitVec.ofNat 4 (6 + k))) s = writes ((v.extractLsb' (256 + 32 * k) 32).signExtend 64)
          ∧ exec (.wqry h d a (BitVec.ofNat 4 (10 + k))) s = writes ((v.extractLsb' (384 + 32 * k) 32).setWidth 64))
        ∧ ∃ x : BitVec 2 → Word, (∀ sel, exec (.wfoot h d a sel) s = writes (x sel))
          ∧ (viewEmpty v = true → x 0 = BitVec.allOnes 64 ∧ x 1 = 0 ∧ x 2 = 0 ∧ x 3 = 0)
          ∧ (viewEmpty v = false → 0 ≤ viewLow v → viewHigh v < 2 ^ 56 → viewRank v ≤ 4 →
            let inside (i : Nat → Nat) : Prop := ∀ k, k < viewRank v → i k < viewExt v k
            let at_ (i : Nat → Nat) : Int :=
              (viewBase v : Int) + viewEsz v * ((List.range (viewRank v)).map (fun k => i k * viewStr v k)).sum
            (∀ i, inside i → ((x 0).toNat : Int) ≤ at_ i ∧ at_ i + viewEsz v - 1 ≤ (x 1).toNat)
            ∧ (∃ i, inside i ∧ ((x 0).toNat : Int) = at_ i)
            ∧ (0 < viewEsz v → ∃ i, inside i ∧ at_ i + viewEsz v - 1 = (x 1).toNat)
            ∧ (x 2).toNat = (if viewRank v = 1 ∧ 2 ≤ viewExt v 0 then (viewStr v 0).natAbs * viewEsz v else 0)
            ∧ (x 3).toNat = if (x 2).toNat = 0 then 0 else (x 0).toNat % (x 2).toNat))
    ∧ (∀ d a : Opnd, objOk d 0x90 0x9F ∨ objOk d 0xD1 0xDE → objOk a 0xA0 0xA3 →
      (∀ sel, exec (.wqry h d a sel) s = traps s f causeOPERAND (operandInfo 1 0 d.toNat))
      ∧ ∀ sel, exec (.wfoot h d a sel) s = traps s f causeOPERAND (operandInfo 1 0 d.toNat))
    ∧ (∀ (d a : Opnd) (x : Word), objOk d 0xA0 0xA3 → srcVal s f a = some x →
      let w := d.toNat - 0xA0
      (viewOf f w = none → exec (.wadj h d a) s = traps s f causeOPERAND (operandInfo 4 0 d.toNat))
      ∧ ∀ v, viewOf f w = some v →
        let delta (k : Nat) : Int := (x.extractLsb' (16 * k) 16).toInt
        let org (k : Nat) : Int := viewOrg v k + delta k
        let fails (k : Nat) : Prop := if k < viewRank v then org k < 0 ∨ (viewExt v k : Int) ≤ org k else delta k ≠ 0
        ((∀ k, k < 4 → ¬ fails k) → ∃ v' : BitVec 512, exec (.wadj h d a) s = completes s f (setView f w (some v')) h
          ∧ v'.extractLsb' 0 384 = v.extractLsb' 0 384
          ∧ ∀ k, k < 4 → (viewOrg v' k : Int) = if k < viewRank v then org k else viewOrg v k)
        ∧ (∀ k, k < 4 → fails k → (∀ j, j < k → ¬ fails j) →
          exec (.wadj h d a) s = traps s f causeVIEWBOUND ((org k % 2 ^ 32).toNat * 2 ^ 32 + k)))
    ∧ ∀ (l : Bool) (d a : Opnd) (disp : BitVec 32) (x : Word), objOk d 0xA0 0xA3 → srcVal s f a = some x →
      let ea := addressOf x disp
      let w := d.toNat - 0xA0
      let c : Ctx := startOf s f
      let starts (p : Place) (cnt : Option Bool) : Answer := flies s f h true { c with f := rootedAs f }
        { path := pathCORE, op := .bind w
          elems := [{ place := p, va := vaOf p ea, size := 64, lane := 0, coding := .raw, val := 0, performed := false
                      applied := false, cnt := cnt }] }
      (ea % 64 = 0 → viewOf f w = none →
        (l = true → ea + 64 ≤ 0x60000 → exec (.wbind h l d a disp) s = starts (.ls (f.pcid * 2 ^ 20 + ea)) none)
        ∧ (l = false → ea < 2 ^ 56 → inWindow ea = false → ∀ p n cnt, Gives (placeAt false ea false) c (p, n, cnt) c →
          exec (.wbind h l d a disp) s = starts p cnt))
      ∧ (l = true → 0x60000 < ea + 64 → exec (.wbind h l d a disp) s = traps s f causeXLATE ea)
      ∧ (l = true → ea + 64 ≤ 0x60000 → ea % 64 ≠ 0 →
        exec (.wbind h l d a disp) s = traps s f causeALIGN ea)
      ∧ (l = true → ea + 64 ≤ 0x60000 → ea % 64 = 0 → viewOf f w ≠ none →
        exec (.wbind h l d a disp) s = traps s f causeOPERAND (operandInfo 4 0 d.toNat))

/-- R259, R262 and R263: an access through a live view whose coordinates lie within its bounds starts at the
element addresses of the view; one outside them raises VIEWBOUND for the lowest failing dimension, then the lowest
lane, and one through a view that is not live raises OPERAND. -/
def Obligations.ViewAccesses : Prop :=
  ∀ (s : State) (f : Frond) (h : Hints) (mty : BitVec 4) (raw : Bool) (o b : Opnd) (x : Word) (n1 : BitVec 4),
    AtIssue s f h → objOk o 0xA0 0xA3 → srcVal s f b = some x →
    let w := o.toNat - 0xA0
    let c0 := startOf s f
    let i (k : Nat) : Nat := (x.extractLsb' (16 * k) 16).toNat
    (MayAccess s f → viewOf f w = none →
      (∀ d, resOk f d = true →
        exec (.wld h mty raw d o b) s = traps s f causeOPERAND (operandInfo 4 1 o.toNat))
      ∧ (∀ d, dstVecOk f d = true →
        exec (.wvld h mty raw d o b n1) s = traps s f causeOPERAND (operandInfo 4 1 o.toNat)))
    ∧ (acquiring (aside s) f.uid = false → (∀ v, viewOf f w = some v → viewWrite v = false) →
      (∀ (c : Opnd) (y : Word), srcVal s f c = some y →
        exec (.wst h mty raw o b c) s = traps s f causeOPERAND (operandInfo 4 0 o.toNat))
      ∧ (∀ (c : Opnd) (y : Nat), srcVec f c = some y →
        exec (.wvst h mty raw o b c n1) s = traps s f causeOPERAND (operandInfo 4 0 o.toNat)))
    ∧ ∀ v, viewOf f w = some v → Gives (waitEngineView v) c0 () c0 →
      let index (l k : Nat) : Nat := viewOrg v k + i k + if k = 0 then l else 0
      let fails (l k : Nat) : Prop := if k < viewRank v then viewExt v k ≤ index l k else i k ≠ 0 ∨ (k = 0 ∧ l ≠ 0)
      let at_ (l : Nat) : Nat := ((viewBase v : Int) + viewEsz v *
        ((List.range (min 4 (viewRank v))).map (fun k => (index l k : Int) * viewStr v k)).sum).toNat
      let sites (n : Nat) : List (Nat × Nat) := (List.range n).map (fun l => (l, at_ l))
      let bad (n l k : Nat) : Prop := l < n ∧ k < 4 ∧ fails l k ∧ (∀ j m, j < k → m < n → ¬ fails m j)
        ∧ ∀ m, m < l → ¬ fails m k
      let info (l k : Nat) : Nat := index l k % 2 ^ 32 * 2 ^ 32 + l * 8 + k
      let fine (n : Nat) (write : Bool) (es : List Elem) (wait : Bool) (g : Frond) (t : State) : Prop :=
        (∀ l k, l < n → k < 4 → ¬ fails l k)
          ∧ Gives (elementsOf mty.toNat raw false write (some (viewFcode v, viewEsz v)) (fun _ => sites n)) c0 es c0
          ∧ Gives (serveWalk h es) c0 wait { f := g, s := t, flags := 0 }
          ∧ (write = true → Gives (waitClock es) { f := g, s := t, flags := 0 } () { f := g, s := t, flags := 0 })
      (MayAccess s f →
        (∀ d, resOk f d = true →
          (∀ es wait g t, fine 1 false es wait g t → exec (.wld h mty raw d o b) s
            = flies s f h wait { f := g, s := t, flags := 0 }
                { path := pathCORE, op := .load mty.toNat false, dest := destOf d, elems := es
                  view := some (footOf v, w) })
          ∧ ∀ k, bad 1 0 k → exec (.wld h mty raw d o b) s = traps s f causeVIEWBOUND (info 0 k))
        ∧ (∀ d, dstVecOk f d = true →
          (∀ es wait g t, fine (n1.toNat + 1) false es wait g t → exec (.wvld h mty raw d o b n1) s
            = flies s f h wait { f := g, s := t, flags := 0 }
                { path := pathCORE, op := .load mty.toNat true, dest := destOf d, elems := es
                  view := some (footOf v, w) })
          ∧ ∀ l k, bad (n1.toNat + 1) l k →
            exec (.wvld h mty raw d o b n1) s = traps s f causeVIEWBOUND (info l k)))
      ∧ (acquiring (aside s) f.uid = false → viewWrite v = true →
        (∀ (c : Opnd) (y : Word), srcVal s f c = some y →
          (∀ es wait g t, fine 1 true es wait g t → exec (.wst h mty raw o b c) s
            = flies s f h wait { f := g, s := t, flags := 0 }
                { path := pathCORE, op := .store, elems := es.map (fun e => { e with val := y.toNat })
                  view := some (footOf v, w) })
          ∧ ∀ k, bad 1 0 k → exec (.wst h mty raw o b c) s = traps s f causeVIEWBOUND (info 0 k))
        ∧ (∀ (c : Opnd) (y : Nat), srcVec f c = some y →
          (∀ es wait g t, fine (n1.toNat + 1) true es wait g t → exec (.wvst h mty raw o b c n1) s
            = flies s f h wait { f := g, s := t, flags := 0 }
                { path := pathCORE, op := .store, elems := es.map (fun e => { e with val := (lanesOf y).getD e.lane 0 })
                  view := some (footOf v, w) })
          ∧ ∀ l k, bad (n1.toNat + 1) l k →
            exec (.wvst h mty raw o b c n1) s = traps s f causeVIEWBOUND (info l k)))

/-! ## Engine words -/

/-- R282, R283, R286, R298 to R300: `mma`, `mmas` and `mld` whose checks pass are accepted at the end of their engine's
queue, root their frond, start the reads of their operands on path MATRIX, and hold their frond until the check
point. A misaligned operand of `mma` raises ALIGN, A before B. The lines of an operand in the issuing core's own
local store lie 128 bytes apart, and the first one out of reach raises XLATE. R282, R295, R297 and R301 to R304:
the engine words that read no operand tile are accepted at the end of their engine's queue and root their frond; a
false tile guard retires any guarded word with no other effect. -/
def Obligations.EngineWords : Prop :=
  (∀ (s : State) (f : Frond) (h : Hints) (d : Opnd) (tg : TileGuard),
     AtIssue s f h → EngineReady s f → tileOn s f tg = true → objOk d 0xC0 0xC3 →
     let g := rootedAs f
     let c : Ctx := engineStart s f
     let tile := tileOf f.pcid
     let accepted (x : Launch) (y : Accept) : Answer :=
       let r := addFlight c.s f x none
       latches f { g with wait := .engine r.1 } (queued r.2 tile (engineWord r.2 f h r.1 y))
     (∀ x n : Nat, x % 128 = 0 →
       (x + 128 * n ≤ 0x60000 → x < 0x60000 →
         Gives (reachLines true x n) c ((List.range n).map (fun i => f.pcid * 2 ^ 20 + x + 128 * i)) c)
       ∧ (0x60000 ≤ x → Stops (reachLines true x n) c (.trap causeXLATE x) c)
       ∧ (x < 0x60000 → 0x60000 < x + 128 * n → Stops (reachLines true x n) c (.trap causeXLATE 0x60000) c))
     ∧ (∀ (a b : Opnd) (x y : Word) (ta tb : BitVec 2) (l : Bool) (ng1 : BitVec 4) (kg : BitVec 9),
       srcVal s f a = some x → srcVal s f b = some y →
       let ng := ng1.toNat + 1
       let ca := tileCode c.s f l x.toNat ta.toNat
       let cb := tileCode c.s f l y.toNat tb.toNat
       let width := widthClass ta.toNat ca.2
       (x.toNat % 128 ≠ 0 →
         exec (.mma h d a b ta tb l ng1 kg tg) s = traps s f causeALIGN x.toNat
         ∧ exec (.mmas h d a b ta tb l ng1 kg tg) s = traps s f causeALIGN x.toNat)
       ∧ (x.toNat % 128 = 0 → y.toNat % 128 ≠ 0 →
         exec (.mma h d a b ta tb l ng1 kg tg) s = traps s f causeALIGN y.toNat
         ∧ exec (.mmas h d a b ta tb l ng1 kg tg) s = traps s f causeALIGN y.toNat)
       ∧ (x.toNat % 128 = 0 → y.toNat % 128 = 0 → ∀ (sparse : Bool) (la lb : List Nat),
         Gives (reachLines l x.toNat (tileLineCount ta.toNat ng ca.1 ca.2 sparse)) c la c →
         Gives (reachLines l y.toNat (tileLineCount tb.toNat ng cb.1 cb.2 false)) c lb c →
         Gives (checkTile ta.toNat ca.1 la) c () c → Gives (checkTile tb.toNat cb.1 lb) c () c →
         width = widthClass tb.toNat cb.2 → (∀ i ∈ la, wrongSparse c.s sparse i = false) →
         let answer : Answer := accepted { path := pathMATRIX, op := .operand 0, elems := (la ++ lb).map lineElem }
           { op := .mma (d.toNat - 0xC0) sparse ta.toNat tb.toNat ng kg.toNat width la.length lb.length
             fa := ca.2, fb := cb.2, checked := false }
         (sparse = false → exec (.mma h d a b ta tb l ng1 kg tg) s = answer)
         ∧ (sparse = true → exec (.mmas h d a b ta tb l ng1 kg tg) s = answer)))
     ∧ ∀ (a b : Opnd) (y : Word) (ty : BitVec 2) (v : BitVec 512) (es : List Elem), objOk a 0xA0 0xA3 →
       srcVal s f b = some y → viewOf f (a.toNat - 0xA0) = some v → Gives (tileElements v y ty.toNat false) c es c →
       exec (.mld h d a b ty tg) s
         = accepted { path := pathMATRIX, op := .operand 0, elems := es, view := some (footOf v, a.toNat - 0xA0) }
             { op := .load (d.toNat - 0xC0) ty.toNat, checked := false })
  ∧ (∀ (s : State) (f : Frond) (h : Hints), AtIssue s f h → EngineReady s f →
       let g := rootedAs f
       let c : Ctx := engineStart s f
       let tile := tileOf f.pcid
       let fresh : State := { c.s with fresh := s.fresh + 1 }
       (∀ (tg : TileGuard) (d : Opnd), objOk d 0xC0 0xC3 →
         (tileOn s f tg = true →
           exec (.mzero h d tg) s = enqueues s f h { op := .zero (d.toNat - 0xC0) }
           ∧ ∀ (a : Opnd) (kg : BitVec 9), objOk a 0xC0 0xC3 → exec (.madd h d a kg tg) s
             = enqueues s f h { op := .add (d.toNat - 0xC0) (a.toNat - 0xC0) kg.toNat, cycles := 128 })
         ∧ (tileOn s f tg = false →
           exec (.mzero h d tg) s = completes s f g h
           ∧ (∀ (a : Opnd) (kg : BitVec 9), objOk a 0xC0 0xC3 → exec (.madd h d a kg tg) s = completes s f g h)
           ∧ (∀ (a b : Opnd) (x y : Word) (ta tb : BitVec 2) (l : Bool) (ng1 : BitVec 4) (kg : BitVec 9),
             srcVal s f a = some x → srcVal s f b = some y →
             exec (.mma h d a b ta tb l ng1 kg tg) s = completes s f g h
             ∧ exec (.mmas h d a b ta tb l ng1 kg tg) s = completes s f g h)
           ∧ (∀ (a b : Opnd) (y : Word) (ty : BitVec 2), objOk a 0xA0 0xA3 → srcVal s f b = some y →
             exec (.mld h d a b ty tg) s = completes s f g h)))
       ∧ (∀ (tg : TileGuard) (d a b : Opnd) (y : Word) (rnd : BitVec 3) (ty : BitVec 2), objOk d 0xA0 0xA3 →
         objOk a 0xC0 0xC3 → srcVal s f b = some y →
         (tileOn s f tg = false → exec (.mst h d a b rnd ty tg) s = completes s f g h)
         ∧ (tileOn s f tg = true → ∀ v es, viewOf f (d.toNat - 0xA0) = some v → viewWrite v = true →
           Gives (tileElements v y ty.toNat true) c es c →
           exec (.mst h d a b rnd ty tg) s = enqueues s f h
             { op := .store (a.toNat - 0xC0) rnd.toNat ty.toNat, elems := es, view := some (footOf v, d.toNat - 0xA0)
               cycles := 128 }))
       ∧ (∀ (tg : TileGuard) (d a b r : Opnd) (x y z : Word) (rnd : BitVec 3) (ty : BitVec 2) (l : Bool),
         objOk a 0xC0 0xC3 → srcVal s f d = some x → srcVal s f b = some y → srcVal s f r = some z →
         (tileOn s f tg = false → exec (.msst h d a b r rnd ty l tg) s = completes s f g h)
         ∧ (tileOn s f tg = true →
           (x.toNat % 128 ≠ 0 → exec (.msst h d a b r rnd ty l tg) s = traps s f causeALIGN x.toNat)
           ∧ (x.toNat % 128 = 0 → ∀ p, Gives (reachLines l x.toNat 1) c [p] c →
             ((y.toNat < x.toNat ∨ 63 < z.toNat) →
               exec (.msst h d a b r rnd ty l tg) s = traps s f causeOPERAND (operandInfo 5 0xA r.toNat))
             ∧ (x.toNat ≤ y.toNat → z.toNat ≤ 63 → ∀ lines,
               Gives (reachLines l x.toNat (min (64 - z.toNat) ((y.toNat - x.toNat) / 128))) c lines c →
               let code := regionCode c.s p
               (code = 0 → ty = 0 →
                 exec (.msst h d a b r rnd ty l tg) s = traps s f causeOPERAND (operandInfo 5 0xE 0))
               ∧ (¬ (code = 0 ∧ ty = 0) → Gives (checkEntry code) c () c →
                 exec (.msst h d a b r rnd ty l tg) s
                   = latches f { g with wait := .engine s.fresh } (queued fresh tile (engineWord fresh f h s.fresh
                     { op := .sst (a.toNat - 0xC0) rnd.toNat ty.toNat code z.toNat lines.length
                       fa := formatEntry c.s f.jid code, checked := false, elems := lines.map lineElem
                       cycles := 128 })))))))
       ∧ (∀ a : Opnd, objOk a 0xC0 0xC3 →
         exec (.mclrs h a) s = enqueues s f h { op := .clear (a.toNat - 0xC0) }
         ∧ ∀ d : Opnd, resOk f d = true → f.outs.length < 8 →
           let r := addFlight c.s f { path := pathMATRIX, op := .value 0, dest := destOf d, elems := [] } none
           let t := updFlight r.2 r.1 (fun x => { x with done := none })
           exec (.mstat h d a) s = completesWith s f (withResult g r.1 (destOf d))
             (queued t tile (engineWord t f h r.1 { op := .stat (a.toNat - 0xC0) })) h))

/-- R305 and R306: `mtm` writes a tile mask of the frond's set; `mtm.rd` gives a whole mask and `mtmg` an old bit as
one outstanding result, and `mtmg` then sets or clears the bit; `msync` issues once the frond's earlier words of the
group have completed (R306). The pacing in `EngineReady` is log entry 14. -/
def Obligations.TileMasks : Prop :=
  ∀ (s : State) (f : Frond) (h : Hints), AtIssue s f h →
    let g := rootedAs f
    let tile := tileOf f.pcid
    let bank (t : State) : EngSet := (getEngine t tile).set f.urgent
    let put (t : State) (n : Nat) (x : Word) : State :=
      updSet t tile f.urgent (fun e => { e with masks := e.masks.set n x })
    let result (d : Opnd) (v : Nat) : Nat × State :=
      let r := addFlight (setTaken s f) f { path := pathMATRIX, op := .value v, dest := destOf d, elems := [] } none
      (r.1, updFlight r.2 r.1 (fun x => { x with done := some (s.clk + 16) }))
    ((featBits (aside s) f.pcid f.jid f.urgent).toNat.testBit 0 = true → acquiring (aside s) f.uid = false →
      (matrixQuiet (aside s) f.uid = true → exec (.msync h) s = completes s f g h)
      ∧ (matrixQuiet (aside s) f.uid = false → exec (.msync h) s = waits s f))
    ∧ (EngineReady s f → ∀ (k : Opnd) (n : Nat), objOk k 0xC4 0xCB → n = k.toNat - 0xC4 →
      (∀ (a : Opnd) (x : Word), srcVal s f a = some x →
        exec (.mtm h k a) s = completesWith s f g (put (setTaken s f) n x) h)
      ∧ (f.outs.length < 8 →
        let x := (bank (setTaken s f)).masks.getD n 0
        (∀ d : Opnd, resOk f d = true →
          let r := result d x.toNat
          exec (.mtmRd h d k) s = completesWith s f (withResult g r.1 (destOf d)) r.2 h)
        ∧ ∀ (d : Opnd) (bit : BitVec 6), predOk f d →
          let r := result d (x.getLsbD bit.toNat).toNat
          exec (.mtmgSet h d k bit) s
            = completesWith s f (withResult g r.1 (destOf d)) (put r.2 n (x ||| 1#64 <<< bit.toNat)) h
          ∧ exec (.mtmgClr h d k bit) s
            = completesWith s f (withResult g r.1 (destOf d)) (put r.2 n (x &&& ~~~(1#64 <<< bit.toNat))) h))

/-! ## Copies, gather and scatter, reduction, shipping -/

/-- R37 and R268 to R271: a handle is checked in the order of its reasons, and a refused one raises HANDLE; `cpy` and
`cpyq` then start a copy of the record's shape. A copy into local store clears the arrival bits of its lines and
stamps its code on every region it touches, at issue; a copy out carries the clock of its die (R326); one that leaves a
local store raises XLATE. -/
def Obligations.CopyWords : Prop :=
  ∀ (s : State) (f : Frond) (h : Hints) (d a b : Opnd) (x off : Word) (j : Job),
    AtIssue s f h → acquiring (aside s) f.uid = false → srcVal s f a = some x →
    srcVal s f b = some off → findJob s f.jid = some j →
    let c := startOf s f
    let handle := x.toNat % 2 ^ 16
    let record : Option (BitVec 512) := (j.layouts.find? (fun l => l.handle == handle)).map (fun l => l.bits)
    let rank (r : BitVec 512) : Nat := (r.extractLsb' 60 2).toNat
    let rows (r : BitVec 512) : Nat := if 2 ≤ rank r then (r.extractLsb' 288 32).toNat else 1
    let planes (r : BitVec 512) : Nat := if rank r = 3 then (r.extractLsb' 320 32).toNat else 1
    let row (r : BitVec 512) : Nat := (r.extractLsb' 256 32).toNat
    let bytes (r : BitVec 512) : Nat := planes r * rows r * row r
    let fits (r : BitVec 512) : Prop := (off.toNat : Int) + ((planes r : Int) - 1) * (r.extractLsb' 416 32).toNat
      + ((rows r : Int) - 1) * (r.extractLsb' 384 32).toNat + row r ≤ (r.extractLsb' 192 40).toNat
    let usable (r : BitVec 512) (write : Bool) : Prop := x.toNat < 2 ^ 16 ∧ handle < j.layn ∧ record = some r
      ∧ r.getLsbD 63 = true ∧ (r.extractLsb' 0 16).toNat = f.jid ∧ rank r ≠ 0 ∧ (write = true → r.getLsbD 62 = true)
      ∧ fits r
    let refused (n : Nat) (write : Bool) : Prop :=
      Stops (useHandle x off.toNat write) c (.trap causeHANDLE (n * 2 ^ 16 + handle)) c
    (∀ write : Bool,
      (2 ^ 16 ≤ x.toNat → refused 6 write)
      ∧ (x.toNat < 2 ^ 16 → j.layn ≤ handle → refused 0 write)
      ∧ (x.toNat < 2 ^ 16 → handle < j.layn → record = none → refused 1 write)
      ∧ ∀ r, x.toNat < 2 ^ 16 → handle < j.layn → record = some r →
        (r.getLsbD 63 = false → refused 1 write)
        ∧ (r.getLsbD 63 = true → (r.extractLsb' 0 16).toNat ≠ f.jid → refused 2 write)
        ∧ (r.getLsbD 63 = true → (r.extractLsb' 0 16).toNat = f.jid → rank r = 0 → refused 3 write)
        ∧ (r.getLsbD 63 = true → (r.extractLsb' 0 16).toNat = f.jid → rank r ≠ 0 → write = true →
          r.getLsbD 62 = false → refused 4 write)
        ∧ (r.getLsbD 63 = true → (r.extractLsb' 0 16).toNat = f.jid → rank r ≠ 0 →
          (write = true → r.getLsbD 62 = true) → ¬ fits r → refused 5 write)
        ∧ (usable r write → Gives (useHandle x off.toNat write) c r c))
    ∧ (∀ (out l bc : Bool) (bar : BitVec 19) (dst : Word) (r : BitVec 512), srcVal s f d = some dst →
      usable r out → (bc = true → bar.toNat + 8 ≤ 0x60000) →
      let n := bytes r
      let site : Option (Nat × Nat) := if l then some (f.pcid, dst.toNat) else windowOk (aside s) f.jid dst.toNat
      (∀ p o : Nat, site = some (p, o) → o + n ≤ 0x60000 →
        let at_ := p * 2 ^ 20 + o
        let k : Copy :=
          { id := s.fresh, uid := f.uid, jid := f.jid, pcid := f.pcid, out := out
            pa := (r.extractLsb' 128 52).toNat + off.toNat, va := (r.extractLsb' 64 56).toNat + off.toNat
            ext0 := row r, e1 := rows r, e2 := planes r, str1 := (r.extractLsb' 384 32).toNat
            str2 := (r.extractLsb' 416 32).toNat, ls := at_, lines := if out then [] else unitsOf at_ n 128
            bar := if bc then some (f.pcid * 2 ^ 20 + bar.toNat) else none, failed := none, due := s.clk + 1 }
        let stops := clockStops (aside s) (dieOf f.pcid) ((copyLeft k).map (fun t => .hbm (k.pa + copyOff k (8 * t))))
        (stops = true → exec (.cpy h d a b out l bc bar) s = waits s f)
        ∧ (stops = false → ∃ t : State, exec (.cpy h d a b out l bc bar) s = completesWith s f f t h
          ∧ t.copies = s.copies ++ [{ k with clock := (stampCopy (aside s) k).1 }]
          ∧ t.clocks = (stampCopy (aside s) k).2.clocks
          ∧ t.ls = s.ls ∧ t.hbm = s.hbm ∧ t.fronds = s.fronds ∧ t.jobs = s.jobs
          ∧ (mapWf 0 s.fmtMap → ∀ y, regionCode t y
            = if out = false ∧ n ≠ 0 ∧ at_ / 0x4000 ≤ y / 0x4000 ∧ y / 0x4000 ≤ (at_ + n - 1) / 0x4000
              then (r.extractLsb' 56 4).toNat else regionCode s y)))
      ∧ (site = none ∨ (∃ p o, site = some (p, o) ∧ 0x60000 < o + n) →
        exec (.cpy h d a b out l bc bar) s = traps s f causeXLATE dst.toNat))
    ∧ ∀ (q : Nat) (qu : Queue) (r : BitVec 512), objOk d 0x9C 0x9F → usable r false →
      portQueueOf (aside s) f d.toNat = some (q, qu) →
      (bytes r % 2 ^ qu.esz = 0 → exec (.cpyq h d a b) s
        = completesWith s f f (if bytes r = 0 then aside s else { aside s with
            fresh := s.fresh + 1
            copyqs := s.copyqs ++ [
              { id := s.fresh, uid := f.uid, jid := f.jid, pcid := f.pcid, pl := f.pl, stage := f.stage, q := q
                pa := (r.extractLsb' 128 52).toNat + off.toNat, va := (r.extractLsb' 64 56).toNat + off.toNat
                ext0 := row r, e1 := rows r, e2 := planes r, str1 := (r.extractLsb' 384 32).toNat
                str2 := (r.extractLsb' 416 32).toNat, pos := 0, due := s.clk + 1 }] }) h)
      ∧ (bytes r % 2 ^ qu.esz ≠ 0 →
        exec (.cpyq h d a b) s = traps s f causeOPERAND (operandInfo 3 0 d.toNat))

/-- R272 to R274 and R276: `gath`, `scat`, `scadd` and `ship` whose elements pass every check start as one flight on
their path, with the lanes that MASK admits; a word without a lane reads and writes nothing. R275: an `rbar` whose
target and copy pass their checks arrives at the phase of its core, or opens one for the cores that serve its stage
within its scope and do not drain, and its frond parks with reason 9; a differing arrival raises OPERAND. The arrival
that completes a phase issues the stores of its merge, which carry one clock of the opener's die (R326). -/
def Obligations.IndexedWords : Prop :=
  (∀ (s : State) (f : Frond) (h : Hints) (a b : Opnd) (x : Word), AtIssue s f h →
     acquiring (aside s) f.uid = false → srcVal s f a = some x →
     let c := startOf s f
     (∀ (mty : BitVec 4) (raw : Bool) (d : Opnd) (mask : BitVec 16) (y : Nat), srcVec f b = some y →
       let lanes := (List.range 16).filter (fun l => mask.getLsbD l)
       let sites (size : Nat) : List (Nat × Nat) := lanes.map (fun l =>
         (l, (((x.toNat : Int) + (lane y l).toInt * size) % 2 ^ 64).toNat))
       let elements (write : Bool) (es : List Elem) : Prop :=
         if mask = 0 then es = [] else Gives (elementsOf mty.toNat raw false write none sites) c es c
       (∀ es, f.outs.length < 8 → dstVecOk f d = true → elements false es → exec (.gath h mty raw d a b mask) s
         = flies s f h false c { path := pathGATHER, op := .load mty.toNat true, dest := destOf d, elems := es })
       ∧ ∀ (z : Nat) (es : List Elem), srcVec f d = some z → elements true es →
         (mask = 0 → exec (.scat h mty raw d a b mask) s = completes s f f h)
         ∧ (mask ≠ 0 → Gives (waitClock es) c () c → exec (.scat h mty raw d a b mask) s
           = flies s f h false c { path := pathGATHER, op := .store
                                   elems := es.map (fun e => { e with val := (lanesOf z).getD e.lane 0 }) }))
     ∧ (∀ (ty : BitVec 4) (d : Opnd) (mask : BitVec 16) (y z : Nat), srcVec f b = some y → srcVec f d = some z →
       let lanes := (List.range 16).filter (fun l => mask.getLsbD l)
       let at_ (l : Nat) : Nat := (x.toNat + 4 * (lane y l).toNat) % 2 ^ 64
       (mask = 0 → exec (.scadd h ty d a b mask) s = completes s f f h)
       ∧ (mask ≠ 0 → (∀ l ∈ lanes, at_ l + 4 ≤ 0x60000 ∧ at_ l % 4 = 0) → exec (.scadd h ty d a b mask) s
         = flies s f h false c
             { path := pathREDUCE, op := .scadd (ty == 1)
               elems := lanes.map (fun l =>
                 { place := .ls (f.pcid * 2 ^ 20 + at_ l), va := windowBase + (f.pcid * 2 ^ 20 + at_ l), size := 4, lane := l, coding := .raw
                   val := (lane z l).toNat, performed := false, applied := false, cnt := none }) }))
     ∧ ∀ (rout : BitVec 4) (w u : Bool) (d o : Opnd) (y z : Word) (e : Elem), f.outs.length < 8 → resOk f d = true →
       srcVal s f b = some y → srcVal s f o = some z →
       (featBits (aside s) f.pcid f.jid f.urgent).toNat.testBit 3 = true →
       let size := if w then 4 else 8
       Gives (shipSite x.toNat size) c e c → Gives (waitClock [e]) c () c → exec (.ship h rout w u d a b o) s
         = flies s f h false c
             { path := pathSHIP, op := .rmw rout.toNat u (y.toNat % 2 ^ (8 * size)) (z.toNat % 2 ^ (8 * size)) w
               dest := destOf d, elems := [e] })
  ∧ (∀ (s : State) (f : Frond) (h : Hints) (ty : BitVec 4) (scope : BitVec 3) (a b : Opnd) (n : BitVec 24) (x y : Word)
       (es ts : List Elem),
       AtIssue s f h → acquiring (aside s) f.uid = false → srcVal s f a = some x → srcVal s f b = some y →
       released (aside s) f.uid onCoreReduce scope.toNat = true →
       let c := startOf s f
       let sites (base : Nat) : List (Nat × Nat) := (List.range n.toNat).map (fun i => (i, (base + 4 * i) % 2 ^ 64))
       let same (p : Phase) : Prop := p.target = x.toNat ∧ p.copy = y.toNat ∧ p.n = n.toNat ∧ p.f32 = (ty == 1)
         ∧ p.scope = scope.toNat
       let parked (t : State) : Answer :=
         let r := parkFrond (notOwed t f) f 9 (x.toNat % 2 ^ 48) 0
         .next (refreshSpent { r.1 with issuing := some r.2 } r.2.pcid)
       let opens (es : List Elem) : Phase :=
         { id := s.fresh, jid := f.jid, pl := f.pl, stage := f.stage, scope := scope.toNat, f32 := ty == 1
           opener := f.pcid, target := x.toNat, places := es.map (fun e => e.place), copy := y.toNat, n := n.toNat
           parts := (s.cores.filter (fun k => servesStage k f.jid f.pl f.stage
             && k.move.isNone && sameScope scope.toNat f.pcid k.pcid)).map (fun k => k.pcid)
           arrived := [], waiters := [], due := s.clk + 1 }
       let stores (p : Phase) : Nat := ((mergeLeft p).map (fun i => (mergeDies (aside s) p i).length)).sum
       let joined (p : Phase) : State × Phase :=
         let q := { p with arrived := setAdd f.pcid p.arrived, waiters := p.waiters ++ [(f.uid, h)], begun := s.clk }
         if (∀ k ∈ q.parts, k ∈ q.arrived) ∧ stores q ≠ 0 ∧ q.clock = [] then
           ((stampClocks (aside s) (dieOf q.opener) (stores q)).2,
             { q with clock := (stampClocks (aside s) (dieOf q.opener) (stores q)).1 })
         else (aside s, q)
       (∀ p, phaseOf (aside s) f = some p → ¬ same p →
         exec (.rbar h ty scope a b n) s = traps s f causeOPERAND (operandInfo 5 0xE 0))
       ∧ (Gives (elementsSized 4 false true true 0 (sites y.toNat)) c ts c →
         Gives (elementsSized 4 false false true 0 (sites x.toNat)) c es c →
         (∀ p, phaseOf (aside s) f = some p → same p →
           (mergeStops (aside s) p = true → exec (.rbar h ty scope a b n) s = waits s f)
           ∧ (mergeStops (aside s) p = false → exec (.rbar h ty scope a b n) s = parked { (joined p).1 with
               phases := updFirst (fun q => q.id == p.id) (fun _ => (joined p).2) s.phases }))
         ∧ (phaseOf (aside s) f = none →
           (mergeStops (aside s) (opens es) = true → exec (.rbar h ty scope a b n) s = waits s f)
           ∧ (mergeStops (aside s) (opens es) = false → exec (.rbar h ty scope a b n) s
             = parked { noteTargets (joined (opens es)).1 es with
                 fresh := s.fresh + 1, phases := s.phases ++ [(joined (opens es)).2] }))))

/-! ## Queues, channels and semaphores -/

/-- R31, R87 and R88: a push goes to the back of the accepting segment with the most free room, then the lowest one, and
is refused when every accepting segment is full; a pop takes the front of the popping core's own segment, or of the
fullest, then the lowest, and finds nothing in an empty queue. The bytes of an element of a core's segment stand in the
segment's ring in that core's local store. R358 to R360: `qpush`, `qpop` and `qpeek` move one
element between a queue and the frond's own local store and answer in a predicate, or park on a full or empty
queue; a closed queue answers false; `qpush` and `qclose` wait as releases at package scope; `qstat` starts as one
outstanding result. -/
def Obligations.QueueWords : Prop :=
  (∀ (s : State) (jid pl n : Nat) (q : Queue), theQueue s jid pl n = some q →
     let place (p : Nat) (g : Seg) (i : Nat) : Nat := p * 2 ^ 20 + g.off + (g.head + i) % q.segn * 2 ^ q.esz
     (∀ bytes : List Byte,
       ((∀ g ∈ q.segs, g.accepting = true → q.segn ≤ g.elems.length) → pushElem s jid pl n bytes = none)
       ∧ ∀ (i : Nat) (g : Seg), q.segs[i]? = some g → g.accepting = true → g.elems.length < q.segn →
         (∀ (k : Nat) (x : Seg), q.segs[k]? = some x → x.accepting = true →
           g.elems.length < x.elems.length ∨ (g.elems.length = x.elems.length ∧ i ≤ k)) →
         (∀ p, g.pcid = some p → Undisturbed s (.ls (place p g g.elems.length)) (2 ^ q.esz)) →
         let kept := if g.pcid = none then bytes else []
         ∃ t, pushElem s jid pl n bytes = some t
           ∧ theQueue t jid pl n = some { q with
               accepted := q.accepted + 1
               segs := q.segs.set i { g with elems := g.elems ++ [{ bytes := kept, num := q.accepted }] } }
           ∧ t.hbm = s.hbm ∧ (g.pcid = none → t.ls = s.ls)
           ∧ ∀ p, g.pcid = some p → mapWf 0 s.ls →
             WroteIn s.ls t.ls (place p g g.elems.length) (2 ^ q.esz) (bytesNat bytes))
     ∧ ∀ pcid : Nat,
       ((∀ g ∈ q.segs, g.elems = []) → popElem s jid pl n pcid = none ∧ peekElem s jid pl n pcid = none)
       ∧ ∀ (i : Nat) (g : Seg) (e : QElem) (es : List QElem), q.segs[i]? = some g → g.elems = e :: es →
         ((g.pcid = some pcid ∧ ∀ k x, k < i → q.segs[k]? = some x → x.pcid ≠ some pcid ∨ x.elems = [])
           ∨ ((∀ x ∈ q.segs, x.pcid = some pcid → x.elems = []) ∧ ∀ (k : Nat) (x : Seg), q.segs[k]? = some x →
             x.elems.length < g.elems.length ∨ (x.elems.length = g.elems.length ∧ i ≤ k))) →
         ∃ x t, peekElem s jid pl n pcid = some x ∧ popElem s jid pl n pcid = some (x, t)
           ∧ x.num = e.num ∧ (g.pcid = none → x.bytes = e.bytes)
           ∧ (∀ p, g.pcid = some p →
             x.bytes = (List.range (2 ^ q.esz)).map (fun k => mapGet 0 (place p g 0 + k) s.ls))
           ∧ theQueue t jid pl n = some { q with
               segs := q.segs.set i { g with elems := es, head := (g.head + 1) % q.segn } }
           ∧ t.ls = s.ls ∧ t.hbm = s.hbm)
  ∧ (∀ (s : State) (f : Frond) (h : Hints), AtIssue s f h → acquiring (aside s) f.uid = false →
       (∀ (d a b : Opnd) (disp : BitVec 32) (y : Word) (n : Nat) (q : Queue), predOk f d → srcVal s f b = some y →
         portQueueOf (aside s) f a.toNat = some (n, q) →
         let m := 2 ^ q.esz
         let ea := addressOf y disp
         let at_ := f.pcid * 2 ^ 20 + ea
         let reach : Prop := ea + m ≤ 0x60000 ∧ ea % 8 = 0
         let landed := localPending (aside s) f.uid f.pcid = false ∧ arrived (aside s) f.uid s.fresh (.ls at_) m = true
         let answers (t : State) (b : Bool) : Answer := completesWith s f (putPred f d b) t h
         (objOk a 0x9C 0x9F →
           (0x60000 < ea + m → exec (.qpush h d a b disp) s = traps s f causeXLATE ea)
           ∧ (ea + m ≤ 0x60000 → ea % 8 ≠ 0 → exec (.qpush h d a b disp) s = traps s f causeALIGN ea)
           ∧ (reach → ¬ landed → exec (.qpush h d a b disp) s = waits s f)
           ∧ (reach → landed → q.closed = true → exec (.qpush h d a b disp) s = answers (aside s) false)
           ∧ (reach → landed → q.closed = false →
             (released (aside s) f.uid onCORE scopeP = false → exec (.qpush h d a b disp) s = waits s f)
             ∧ (released (aside s) f.uid onCORE scopeP = true →
               let bytes := (List.range m).map (fun i => mapGet 0 (at_ + i) s.ls)
               (∀ t, pushElem (aside s) f.jid f.pl n bytes = some t → exec (.qpush h d a b disp) s = answers t true)
               ∧ (pushElem (aside s) f.jid f.pl n bytes = none →
                 exec (.qpush h d a b disp) s = parks s f 2 (q.va % 2 ^ 48) 0))))
         ∧ (objOk a 0x98 0x9B → reach → landed → (∀ bytes, f.feed ≠ some (n, bytes)) →
           let put (t : State) (e : QElem) : State := writeHome t (.ls at_) m (bytesNat e.bytes)
           (∀ e t, popElem (aside s) f.jid f.pl n f.pcid = some (e, t) →
             exec (.qpop h d a b disp) s = answers (put (wakeIfDone t f.jid f.pl n) e) true)
           ∧ (popElem (aside s) f.jid f.pl n f.pcid = none →
             (q.closed = true → exec (.qpop h d a b disp) s = answers (aside s) false)
             ∧ (q.closed = false → exec (.qpop h d a b disp) s = parks s f 3 (q.va % 2 ^ 48) 0))
           ∧ (∀ e, peekElem (aside s) f.jid f.pl n f.pcid = some e →
             exec (.qpeek h d a b disp) s = answers (put (aside s) e) true)
           ∧ (peekElem (aside s) f.jid f.pl n f.pcid = none →
             exec (.qpeek h d a b disp) s = answers (aside s) false))
         ∧ (objOk a 0x98 0x9B → reach → landed → ∀ bytes, f.feed = some (n, bytes) →
           let t := writeHome (aside s) (.ls at_) m (bytesNat bytes)
           exec (.qpop h d a b disp) s = completesWith s f (putPred { f with feed := none } d true) t h
           ∧ exec (.qpeek h d a b disp) s = answers t true))
       ∧ ∀ (a : Opnd) (n : Nat) (q : Queue), portQueueOf (aside s) f a.toNat = some (n, q) →
         (objOk a 0x9C 0x9F →
           (released (aside s) f.uid onCORE scopeP = false → exec (.qclose h a) s = waits s f)
           ∧ (released (aside s) f.uid onCORE scopeP = true →
             let t := settleJob (closeQueue { aside s with issuing := some f } f.jid f.pl n) f.jid
             t.issuing = some f → exec (.qclose h a) s = completesWith s f f { t with issuing := none } h))
         ∧ ∀ d : Opnd, objOk a 0x98 0x9F → resOk f d = true → f.outs.length < 8 → exec (.qstat h d a) s
           = flies s f h false (startOf s f)
               { path := pathCORE, op := .qstat f.pl n, dest := destOf d, elems := [] })

/-- R151 and R361 to R364: `chbind` with key 0 unbinds a port and closes its peer; with another key it makes the port
binding under a key that no other port holds, joins it to the port that does, or raises CHANNEL; `chstat` and `bch`
read a port and change nothing, and a D of `chstat` that is no register or `zero` raises OPERAND (R368). R365 and R366: a `semw` that finds its semaphore's list empty and its count
sufficient takes n and completes; any other joins the back of the list and parks with reason 8; a `sems` adds n, up
to 2^32 − 1, after its release; a name outside the job's run, or of a cluster in which the job holds no core, raises
OPERAND. -/
def Obligations.ChannelWords : Prop :=
  (∀ (s : State) (f : Frond) (h : Hints) (o : Opnd), AtIssue s f h → objOk o 0x90 0x97 →
     let n := o.toNat - 0x90
     let c := chanOf f n
     let g := rootedAs f
     (acquiring (aside s) f.uid = false →
       (∀ d : Opnd, resOk f d = true → exec (.chstat h d o) s = completes s f (putDst f d (BitVec.ofNat 64
         (c.state.code + c.recv.length * 2 ^ 4 + c.send.length * 2 ^ 8
           + if (c.recv.head?.map (fun x => x.wide)) = some true then 2 ^ 12 else 0))) h)
       ∧ (∀ d : Opnd, objOk d 0x90 0x9F ∨ objOk d 0xD1 0xDE →
         exec (.chstat h d o) s = traps s f causeOPERAND (operandInfo 1 0 d.toNat))
       ∧ (∀ a : Opnd, srcVal s f a = some 0 → (∀ x ∈ s.fronds, x.uid ≠ f.uid) →
         (c.state ≠ .bound → exec (.chbind h o a) s = completesWith s f (setChan g n Chan.unboundPort)
           { aside s with
             directory := s.directory.filter (fun e => !(e.uid == f.uid && e.port == n))
             orphans := s.orphans.filter (fun e => !(e.1 == f.uid && e.2.1 == n)) } h)
         ∧ ∀ u p, c.state = .bound → c.peer = some (u, p) → u ≠ f.uid →
           ∃ t, exec (.chbind h o a) s = completesWith s f (setChan g n Chan.unboundPort) t h
             ∧ ∀ x, findFrond t u = some x → p < x.chans.length → (chanOf x p).state = .closed)
       ∧ ∀ (a : Opnd) (k : Word), srcVal s f a = some k → k ≠ 0 → (∀ x ∈ s.fronds, x.uid ≠ f.uid) →
         let key := k.toNat
         let die := key % 9
         let paired : Prop := ∃ x ∈ f :: s.fronds, x.jid = f.jid ∧ ∃ p ∈ x.chans, p.state = .bound ∧ p.key = key
         let entry : Option DirEntry :=
           s.directory.find? (fun e => e.die == die && e.jid == f.jid && e.key == key)
         let full : Prop := 1024 ≤ (s.directory.filter (fun e => e.die == die)).length
         let refused (reason : Nat) : Answer := traps s f causeCHANNEL (reason * 2 ^ 12 + o.toNat)
         let bound (u p : Nat) : Chan := { state := .bound, key := key, peer := some (u, p), send := [], recv := [] }
         ((c.state = .bound ∨ c.state = .binding) → exec (.chbind h o a) s = refused 2)
         ∧ (c.state ≠ .bound → c.state ≠ .binding →
           (paired → exec (.chbind h o a) s = refused 1)
           ∧ (¬ paired → entry = none → full → exec (.chbind h o a) s = refused 5)
           ∧ (¬ paired → entry = none → ¬ full → exec (.chbind h o a) s
             = completesWith s f (setChan g n { state := .binding, key := key, peer := none, send := [], recv := [] })
                 { aside s with directory := s.directory ++
                     [{ die := die, jid := f.jid, key := key, uid := f.uid, port := n }] } h)
           ∧ (¬ paired → ∀ e, entry = some e →
             let taken : State := { aside s with directory := s.directory.filter (fun x => x != e) }
             let joins (x : Frond) : Frond := setChan x e.port
               { chanOf x e.port with state := .bound, key := key, peer := some (f.uid, n) }
             (e.uid ≠ f.uid → exec (.chbind h o a) s = completesWith s f (setChan g n (bound e.uid e.port))
               { taken with fronds := updFirst (fun x => x.uid == e.uid) joins s.fronds } h)
             ∧ (e.uid = f.uid → exec (.chbind h o a) s
               = completesWith s f (setChan (joins g) n (bound f.uid e.port)) taken h))))
     ∧ ∀ (neg : Bool) (disp : BitVec 32),
       (c.state = .unbound → exec (.bch h o neg disp) s = traps s f causeCHANNEL o.toNat)
       ∧ (c.state ≠ .unbound →
         ((c.recv = [] ↔ neg = true) → exec (.bch h o neg disp) s
           = transfers s f f h ((f.pc + 12 * disp.toInt : Int) % 2 ^ 56).toNat)
         ∧ (¬ (c.recv = [] ↔ neg = true) → exec (.bch h o neg disp) s = completes s f f h)))
  ∧ (∀ (s : State) (f : Frond) (h : Hints) (scope : BitVec 3) (a b : Opnd) (x y : Word),
       AtIssue s f h → acquiring (aside s) f.uid = false → srcVal s f a = some x →
       srcVal s f b = some y →
       let index := x.toNat % 256
       let cluster := x.toNat / 2 ^ 12 % 16 * 16 + x.toNat / 2 ^ 8 % 16
       let n := y.toNat % 2 ^ 32
       let held := holdsCluster (aside s) cluster f.jid
       let named (r : SemRun) : Prop := x.toNat < 2 ^ 16 ∧ index < r.size ∧ held = true
       let put (g : SemRun → SemRun) : State :=
         { aside s with sems := updFirst (fun r => r.cluster == cluster && r.jid == f.jid) g s.sems }
       ((2 ^ 16 ≤ x.toNat ∨ held = false ∨ findRun s cluster f.jid = none ∨ ∃ r, findRun s cluster f.jid = some r ∧ r.size ≤ index) →
         exec (.semw h scope a b) s = traps s f causeOPERAND (operandInfo 5 1 a.toNat)
         ∧ (released (aside s) f.uid onCORE scope.toNat = true →
           exec (.sems h scope a b) s = traps s f causeOPERAND (operandInfo 5 1 a.toNat)))
       ∧ (released (aside s) f.uid onCORE scope.toNat = false → exec (.sems h scope a b) s = waits s f)
       ∧ ∀ r, findRun s cluster f.jid = some r → named r →
         let count := r.counts.getD index 0
         let alone : Prop := ∀ w ∈ r.waiters, w.index ≠ index
         (alone → n ≤ count → exec (.semw h scope a b) s
           = completesWith s f f (put (fun r => { r with counts := r.counts.set index (count - n) })) h)
         ∧ (¬ (alone ∧ n ≤ count) → exec (.semw h scope a b) s
           = let t := put (fun r => { r with waiters := r.waiters ++
               [{ index := index, uid := f.uid, n := n, hints := h }] })
             let q := parkFrond (notOwed t f) f 8 x.toNat 0
             .next (refreshSpent { q.1 with issuing := some q.2 } q.2.pcid))
         ∧ (released (aside s) f.uid onCORE scope.toNat = true →
           (n = 0 → exec (.sems h scope a b) s = completes s f f h)
           ∧ (n ≠ 0 → alone → exec (.sems h scope a b) s = completesWith s f f
             (put (fun r => { r with counts := r.counts.modify index (fun c => min (c + n) (2 ^ 32 - 1)) })) h)
           ∧ (n ≠ 0 → ∃ t, exec (.sems h scope a b) s = completesWith s f f t h)))

/-! ## Spawning, joining, ending -/

/-- R73, R74, R78, R156 to R158: `fork` writes its spore at BOT of its core's deque, or parks with DEQFULL; `join`
starts its decrement and holds its frond, as a word with SW = 1 (R372), and a counter on a WALK page is its frond's most
recent WALK access (R98); `exit` waits for outstanding results, takes a pending STOREERR, and else,
with no live view, ends its frond. -/
def Obligations.SpawnWords : Prop :=
  ∀ (s : State) (f : Frond) (h : Hints), AtIssue s f h →
    (∀ (d a b : Opnd) (disp : BitVec 32) (x y z : Word), srcVal s f a = some x →
      srcVal s f b = some y → srcVal s f d = some z →
      let k := getCore (aside s) f.pcid
      let cap := k.dequeLen / 32
      let count := (k.bot + 2 ^ 16 - k.top) % 2 ^ 16
      let at_ := f.pcid * 2 ^ 20 + k.dequeOff + 32 * (k.bot % cap)
      (f.urgent = true → exec (.fork h d a b disp) s = traps s f causeOPERAND (operandInfo 4 0xA 0))
      ∧ (f.urgent = false → cap ≤ count → exec (.fork h d a b disp) s = parks s f 7 f.pcid 0)
      ∧ (f.urgent = false → count < cap → ∃ t, exec (.fork h d a b disp) s = completesWith s f f t h
        ∧ (mapWf 0 s.ls → readNat t.ls at_ 32
          = ((f.pc + 12 * disp.toInt : Int) % 2 ^ 56).toNat + 2 ^ 62 + x.toNat * 2 ^ 64 + y.toNat * 2 ^ 128
            + z.toNat * 2 ^ 192)
        ∧ (∀ i, i < at_ ∨ at_ + 32 ≤ i → mapGet 0 i t.ls = mapGet 0 i s.ls)
        ∧ t.hbm = s.hbm ∧ t.fronds = s.fronds ∧ t.jobs = s.jobs
        ∧ (getCore t f.pcid).bot = (k.bot + 1) % 2 ^ 16 ∧ (getCore t f.pcid).top = k.top
        ∧ (getCore t f.pcid).tag = if k.top = k.bot then (k.tag + 1) % 2 ^ 32 else k.tag))
    ∧ (∀ (a : Opnd) (l : Bool) (x : Word) (e : Elem) (path : Nat), srcVal s f a = some x →
      let c := startOf s f
      let m : Ctx := { c with f := { f with
        errWait := false
        lastWalk := if walkBlocks [e] = [] then f.lastWalk
          else (walkBlocks [e]).getLast?.bind (walkCarrel (aside s) f.pcid f.jid) } }
      Gives (atomicSite l x.toNat 8) c (e, path) c → Gives (waitClock [e]) m () m →
      exec (.join h a l) s = flies s f h true m { path := path, op := .join, elems := [e] })
    ∧ let g : Frond := { f with wait := .exiting, since := s.clk }
      let u : State := refreshSpent { issued s f with issuing := some g } f.pcid
      (f.outs ≠ [] → exec (.exit h) s = latches f { f with wait := .exiting } (aside s))
      ∧ (f.outs = [] → f.hnd = false → (∀ x ∈ s.fronds, x.uid ≠ f.uid) → ∀ e es, f.storeErrs = e :: es →
        let r := takeCause u { g with storeErrs := es, wait := .run } causeSTOREERR e f.pc
          (wordOf s f)
        exec (.exit h) s = .next { r.1 with issuing := some r.2 })
      ∧ (f.outs = [] → (f.hnd = true ∨ f.storeErrs = []) → (∀ w, w < 4 → viewOf f w = none) →
        exec (.exit h) s = .next (settleJob (endFrond u g true) f.jid))

/-! ## Traps and the system -/

/-- R115, R369, R371, R374 and R377: what taking a cause does. A handler cause with HND 0 and a nonzero TRAPH saves the
PC, the cause and its information and enters the handler (bits 55:2 of TRAPH, by log entry 88); FEATURE goes to control firmware; any other halts the
frond, with a message to its supervisor, and with HND 1 the three trap registers keep their values. R389 and R390:
`trap` raises USER with its code and the PC of the next word, 0 after PC = 2^56 − 12 (log entry 97, DESIGN CHOICE); `rfe` returns from a handler, or raises OPERAND
outside one and ALIGN on a misaligned `epc`. -/
def Obligations.TrapAndReturn : Prop :=
  (∀ (s : State) (f : Frond) (code info epc word : Nat),
     let saved : Frond := { f with epc := BitVec.ofNat 64 epc, ecause := BitVec.ofNat 64 code
                                   einfo := BitVec.ofNat 64 info }
     let halted (g : Frond) : Frond :=
       { g with pc := epc, wait := .halted, halt := some { cause := code, info := info, pc := epc, word := word } }
     let message : State := sendMessage s f (messageBits f 0 code info epc word f.hnd)
     let toHandler : Prop := code ≠ 0x01 ∧ code ≠ 0x04 ∧ code ≠ 0x0F
     (f.hnd = false → toHandler → traphOf s f ≠ 0 → takeCause s f code info epc word
       = (s, { saved with hnd := true, entryDepth := f.loops.length, pc := traphOf s f % 2 ^ 56 / 4 * 4
                          wait := .run, notBefore := s.clk + 1 }))
     ∧ (f.hnd = false → (code = 0x01 ∨ code = 0x0F ∨ (toHandler ∧ traphOf s f = 0)) →
       takeCause s f code info epc word = (message, halted saved))
     ∧ (f.hnd = true → takeCause s f code info epc word = (message, halted f))
     ∧ (f.hnd = false → takeCause s f 0x04 info epc word
       = (pendFirmware s (dieOf f.pcid) 1, { f with wait := .feature info }))
     ∧ message.ls = s.ls ∧ message.hbm = s.hbm ∧ message.fronds = s.fronds ∧ message.cores = s.cores)
  ∧ (∀ (s : State) (f : Frond) (h : Hints), AtIssue s f h →
       (∀ code : BitVec 32,
         let g : Frond := { switchMark h (lastUse h { f with errWait := false }) with pc := nextPc f }
         let r := takeCause (issued s f) g causeUSER code.toNat (nextPc f) (wordOf s f)
         exec (.trap h code) s = .next (refreshSpent { r.1 with issuing := some r.2 } r.2.pcid))
       ∧ (f.hnd = false → exec (.rfe h) s = traps s f causeOPERAND (operandInfo 4 0xA 0))
       ∧ (f.hnd = true → f.epc.toNat % 4 ≠ 0 → exec (.rfe h) s = traps s f causeALIGN f.epc.toNat)
       ∧ (f.hnd = true → f.epc.toNat % 4 = 0 → exec (.rfe h) s
         = transfers s f { f with hnd := false, loops := f.loops.take f.entryDepth } h (f.epc.toNat % 2 ^ 56)))

/-- R391 to R396: `sys` leaves its frond Blocked for the answer of control firmware; `seed` sets the random stream;
`feat` writes the feature bits; `idle` takes the pending events of its die at once, or blocks its frond; the privileged
words raise PRIV on a compute core. -/
def Obligations.SystemWords : Prop :=
  ∀ (s : State) (f : Frond) (h : Hints), AtIssue s f h →
    (∀ (d a : Opnd) (svc : BitVec 12) (x : Word), resOk f d = true → srcVal s f a = some x →
      exec (.sys h d a svc) s = latches f { f with wait := .sys svc.toNat x (destOf d) h } (aside s))
    ∧ (∀ (a : Opnd) (x : Word), srcVal s f a = some x →
      exec (.seed h a) s = completes s f { f with sseed := x } h)
    ∧ (∀ d : Opnd, resOk f d = true → ∃ x : Word, exec (.feat h d) s = completes s f (putDst f d x) h
      ∧ (let lost := (getCore (aside s) f.pcid).lost
        let tile := tileOf f.pcid
        (x.getLsbD 0 = true ↔ engineOn s tile = true ∧ isCore f.pcid = true ∧ lost.getLsbD 0 = false
          ∧ (f.urgent = true ∨ (getEngine (aside s) tile).owner = some f.jid))
        ∧ (∀ i, 1 ≤ i → i < 4 → x.getLsbD i = !lost.getLsbD i) ∧ ∀ i, 4 ≤ i → x.getLsbD i = false))
    ∧ (∀ (d b : Opnd) (y : Word), resOk f d = true → srcVal s f b = some y →
      let die := dieOf f.pcid
      let m := s.mgmt.events.getD die 0
      (f.control = true → m ≠ 0 → exec (.idle h d b) s = completesWith s f (putDst f d (m.setWidth 64))
        { aside s with mgmt := { s.mgmt with events := s.mgmt.events.set die 0 } } h)
      ∧ (f.control = true → m = 0 → exec (.idle h d b) s = latches f
        { f with wait := .idle (if y = 0 then none else some (s.clk + y.toNat)) (destOf d) h } (aside s)))
    ∧ (f.control = false →
      (∀ d b : Opnd, exec (.idle h d b) s = traps s f causePRIV 0)
      ∧ (∀ (d a : Opnd) (idx : BitVec 8), exec (.cwget h d a idx) s = traps s f causePRIV 0)
      ∧ ∀ (a b : Opnd) (idx : BitVec 8), exec (.cwset h a b idx) s = traps s f causePRIV 0)

/-- R394: `cwget` and `cwset` on a control core read and write the control words of a live job, and the budget words of
the core's own die, at the nearer fuse bound; a value out of range and a job that is not live raise OPERAND. R395:
`exrd` reads and `exwr` writes an item of a Halted frond's window, and `exres` resumes or ends it; a frond that is
not Halted, or that the issuer may not name, raises OPERAND, as do an item that may not be written, a register
beyond the target's count and a misaligned PC. -/
def Obligations.ControlWords : Prop :=
  (∀ (s : State) (f : Frond) (h : Hints) (a : Opnd) (x : Word), AtIssue s f h →
     f.control = true → srcVal s f a = some x →
     let t := aside s
     let die := dieOf f.pcid
     let answers (d : Opnd) (v : Nat) : Answer := completes s f (putDst f d (BitVec.ofNat 64 v)) h
     (∀ (d b : Opnd) (y : Word) (i : Nat), i < 22 → resOk f d = true → srcVal s f b = some y →
       exec (.cwget h d a (BitVec.ofNat 8 (0x10 + i))) s = answers d (budgetWord t die i)
       ∧ ∃ u, exec (.cwset h a b (BitVec.ofNat 8 (0x10 + i))) s = completesWith s f f u h
         ∧ budgetWord u die i = max (fuseBounds.getD (i / 2) (0, 0)).1 (min y.toNat (fuseBounds.getD (i / 2) (0, 0)).2)
         ∧ (∀ n k, (n, k) ≠ (die, i) → budgetWord u n k = budgetWord t n k)
         ∧ u.jobs = s.jobs ∧ u.ls = s.ls ∧ u.hbm = s.hbm ∧ u.fronds = s.fronds)
     ∧ ((∀ j, findJob s x.toNat = some j → j.live = false) → ∀ idx : BitVec 8, dieWord idx.toNat = false →
       (∀ d, resOk f d = true → exec (.cwget h d a idx) s = traps s f causeOPERAND (operandInfo 5 1 a.toNat))
       ∧ ∀ b y, srcVal s f b = some y →
         exec (.cwset h a b idx) s = traps s f causeOPERAND (operandInfo 5 1 a.toNat))
     ∧ ∀ j, findJob s x.toNat = some j → j.live = true →
       (∀ d : Opnd, resOk f d = true →
         exec (.cwget h d a 0x00) s = answers d j.quantum
         ∧ exec (.cwget h d a 0x01) s = answers d j.ferl
         ∧ exec (.cwget h d a 0x02) s = answers d j.fet
         ∧ exec (.cwget h d a 0x03) s = answers d j.hangk
         ∧ exec (.cwget h d a 0x30) s = answers d 0
         ∧ (j.phase = .running → exec (.cwget h d a 0x40) s = answers d 0 ∧ exec (.cwget h d a 0x41) s = answers d 0)
         ∧ ∀ image, (j.phase = .suspending image → exec (.cwget h d a 0x40) s = answers d 1)
           ∧ (j.phase = .suspended image → exec (.cwget h d a 0x40) s = answers d 2)
           ∧ (j.phase = .resuming image → exec (.cwget h d a 0x41) s = answers d 3))
       ∧ ∀ (b : Opnd) (y : Word), srcVal s f b = some y →
         let v := y.toNat
         let sets (g : Job → Job) : Answer := completesWith s f f
           { t with jobs := updFirst (fun k => k.jid == j.jid) g s.jobs } h
         let refused (idx : BitVec 8) : Prop :=
           exec (.cwset h a b idx) s = traps s f causeOPERAND (operandInfo 5 2 b.toNat)
         (if 1 ≤ v ∧ v ≤ 4800000 then exec (.cwset h a b 0x00) s = sets (fun k => { k with quantum := v })
           else refused 0x00)
         ∧ (if 1 ≤ v ∧ v ≤ 65535 then exec (.cwset h a b 0x01) s = sets (fun k => { k with ferl := v })
           else refused 0x01)
         ∧ (if 2 ^ 10 ≤ v ∧ v ≤ 2 ^ 32 then exec (.cwset h a b 0x02) s = sets (fun k => { k with fet := v })
           else refused 0x02)
         ∧ (if 16 ≤ v ∧ v ≤ 30 then exec (.cwset h a b 0x03) s = sets (fun k => { k with hangk := v })
           else refused 0x03)
         ∧ (if v < 2 ^ 13 ∧ isCore v = true then exec (.cwset h a b 0x30) s
             = completesWith s f f { t with swaps := s.swaps ++ [{ pcid := v, jid := j.jid }] } h
           else refused 0x30)
         ∧ (let image : Prop := v < 2 ^ 52 ∧ v % 4096 = 0 ∧ paExists v = true
           (¬ image → refused 0x40 ∧ refused 0x41)
           ∧ (image →
             (if j.phase = .running ∧ j.urgent = false then
               exec (.cwset h a b 0x40) s = sets (fun k => { k with phase := .suspending v })
               else exec (.cwset h a b 0x40) s = completes s f f h)
             ∧ (∀ old, j.phase = .suspended old →
               exec (.cwset h a b 0x41) s = sets (fun k => { k with phase := .resuming v }))
             ∧ ((∀ old, j.phase ≠ .suspended old) → exec (.cwset h a b 0x41) s = completes s f f h))))
  ∧ (∀ (s : State) (f : Frond) (h : Hints) (a : Opnd) (x : Word), AtIssue s f h →
       srcVal s f a = some x →
       let jid := x.toNat / 2 ^ 48
       let named : Option Frond :=
         s.fronds.find? (fun y => y.jid == jid && y.fid == x.toNat % 2 ^ 48 && y.wait == .halted)
       let allowed (y : Frond) : Prop := f.control = true ∨ (jid = f.jid ∧ ∃ g, stageOf (aside s) y = some g ∧ g.supv ≠ 0)
       let bad : Answer := traps s f causeOPERAND (operandInfo 5 1 a.toNat)
       ((∀ y, named = some y → ¬ allowed y) →
         (∀ (d : Opnd) (idx : BitVec 8), resOk f d = true → f.outs.length < 8 → exec (.exrd h d a idx) s = bad)
         ∧ (∀ (b : Opnd) (z : Word) (idx : BitVec 8), srcVal s f b = some z → exec (.exwr h a b idx) s = bad)
         ∧ ((∀ y ∈ s.fronds, markedEnd y = false) → ∀ fin, exec (.exres h a fin) s = bad))
       ∧ ∀ y, named = some y → allowed y →
         (y.outs ≠ [] →
           (∀ (d : Opnd) (idx : BitVec 8), resOk f d = true → f.outs.length < 8 → exec (.exrd h d a idx) s = waits s f)
           ∧ ∀ (b : Opnd) (z : Word) (idx : BitVec 8), srcVal s f b = some z → exec (.exwr h a b idx) s = waits s f)
         ∧ (y.outs = [] →
           (∀ (d : Opnd) (idx : BitVec 8), resOk f d = true → f.outs.length < 8 →
             (idx.toNat < 0x80 → y.regs ≤ idx.toNat →
               exec (.exrd h d a idx) s = traps s f causeOPERAND (operandInfo 2 0xA idx.toNat))
             ∧ ((idx.toNat < 0x80 → idx.toNat < y.regs) → exec (.exrd h d a idx) s = flies s f h false (startOf s f)
               { path := pathCORE, op := .value (windowItem y idx.toNat).toNat, dest := destOf d, elems := [] }))
           ∧ (∀ (b : Opnd) (z : Word) (idx : BitVec 8), srcVal s f b = some z →
             (0x86 < idx.toNat → exec (.exwr h a b idx) s = traps s f causeOPERAND (operandInfo 4 0xA idx.toNat))
             ∧ (idx.toNat < 0x80 → y.regs ≤ idx.toNat →
               exec (.exwr h a b idx) s = traps s f causeOPERAND (operandInfo 2 0xA idx.toNat))
             ∧ (idx = 0x80 → z.toNat % 4 ≠ 0 →
               exec (.exwr h a b idx) s = traps s f causeOPERAND (operandInfo 5 2 b.toNat))
             ∧ (idx.toNat ≤ 0x86 → (idx.toNat < 0x80 → idx.toNat < y.regs) → (idx = 0x80 → z.toNat % 4 = 0) →
               exec (.exwr h a b idx) s = completesWith s f f (updFrond (aside s) y.uid
                 (fun g => setWindowItem g idx.toNat z)) h
               ∧ ((idx.toNat < 0x80 ∧ idx.toNat < y.g.length) ∨ (0x80 < idx.toNat ∧ idx.toNat ≤ 0x83) ∨ idx = 0x86 →
                 windowItem (setWindowItem y idx.toNat z) idx.toNat = z)))
           ∧ ((∀ g ∈ s.fronds, markedEnd g = false) →
             exec (.exres h a false) s = completesWith s f f (updFrond (aside s) y.uid (fun g =>
               { g with wait := .run, halt := none, notBefore := s.clk + 16 })) h
             ∧ ((∀ g ∈ s.fronds, g.uid = y.uid → g = y) → y.halt.isSome = true → ∀ t,
               completesWith s f f (updFrond (aside s) y.uid (fun g => { g with wait := .exiting })) h = .next t →
               exec (.exres h a true) s = .next (endDomain t { y with wait := .exiting } 0)))))

/-! ## Guards, admission, operands -/

/-- R98: a word whose guard is false retires. Nothing happens but its hints, the rooting of a word of group 0xA, and
the HAZ of an outstanding guard predicate. R99, R101, R110 and R112: admission. A source or destination that a
scalar position does not admit raises OPERAND with its reason and field, D before A; a unit that the core lacks
raises FEATURE before that. -/
def Obligations.GuardsAndAdmission : Prop :=
  (∀ (s : State) (f : Frond) (i : Instr) (h : Hints) (engine : Bool), hintsIn i = some (h, engine) →
     s.issuing = some f → f.pred h.gq.toNat = h.gn → f.held = [] → f.heldH = [] →
     f.wait = .run → (∀ x ∈ s.fronds, markedEnd x = false) →
     exec i s = completes s f (raiseFlags (if engine then rootedAs f else f)
       (if outPred f h.gq.toNat then flagHAZ else 0)) h)
  ∧ (∀ (s : State) (f : Frond) (h : Hints), AtIssue s f h →
       let v (o : Opnd) : Nat := o.toNat
       let unassigned (o : Opnd) : Prop := (0xA4 ≤ v o ∧ v o ≤ 0xAF) ∨ (0xCC ≤ v o ∧ v o ≤ 0xCF) ∨ (0xDF ≤ v o ∧ v o ≤ 0xFF)
       let misplaced (o : Opnd) : Prop :=
         (0x80 ≤ v o ∧ v o ≤ 0x8F) ∨ (0xA0 ≤ v o ∧ v o ≤ 0xA3) ∨ (0xB0 ≤ v o ∧ v o ≤ 0xCB)
       let noQueue (o : Opnd) : Prop := ∀ n q, portQueueOf (aside s) f (v o) = some (n, q) → q.esz ≠ 3
       let source (o : Opnd) (r : Nat) : Prop :=
         (r = 0 ∧ unassigned o) ∨ (r = 1 ∧ misplaced o) ∨ (r = 2 ∧ v o < 0x80 ∧ f.regs ≤ v o)
           ∨ (r = 3 ∧ 0x98 ≤ v o ∧ v o ≤ 0x9B ∧ noQueue o) ∨ (r = 4 ∧ 0x9C ≤ v o ∧ v o ≤ 0x9F)
       let target (o : Opnd) (r : Nat) : Prop :=
         (r = 0 ∧ unassigned o) ∨ (r = 1 ∧ misplaced o) ∨ (r = 2 ∧ v o < 0x80 ∧ f.regs ≤ v o)
           ∨ (r = 3 ∧ 0x9C ≤ v o ∧ v o ≤ 0x9F ∧ noQueue o)
           ∨ (r = 4 ∧ ((0x98 ≤ v o ∧ v o ≤ 0x9B) ∨ (0xD1 ≤ v o ∧ v o ≤ 0xD8) ∨ v o = 0xDD ∨ v o = 0xDE ∨ 0x100 ≤ v o))
       (∀ (w : Bool) (d a : Opnd) (r : Nat), target d r →
         exec (.mov h w d a) s = traps s f causeOPERAND (operandInfo r 0 (v d)))
       ∧ (∀ (w : Bool) (d a : Opnd) (r : Nat), (∀ n, ¬ target d n) → source a r →
         exec (.mov h w d a) s = traps s f causeOPERAND (operandInfo r 1 (v a)))
       ∧ (∀ (w : Bool) (d a b : Opnd) (r : Nat), (∀ n, ¬ target d n) → (∀ n, ¬ source a n) → source b r →
         exec (.add h w d a (.fld b)) s = traps s f causeOPERAND (operandInfo r 2 (v b)))
       ∧ (let feature (n : Nat) : Bool := (featBits (aside s) f.pcid f.jid f.urgent).toNat.testBit n
         (feature 1 = false → ∀ (d a : Opnd) (b : SrcB),
           exec (.vadd h d a b) s = traps s f causeFEATURE 1 ∧ exec (.vfadd h 0 d a b) s = traps s f causeFEATURE 1)
         ∧ (feature 0 = false → ∀ (d a : Opnd) (tg : TileGuard),
           exec (.mzero h d tg) s = traps s f causeFEATURE 0 ∧ exec (.mclrs h a) s = traps s f causeFEATURE 0)
         ∧ (feature 3 = false → ∀ (rout : BitVec 4) (w u : Bool) (d a b c : Opnd),
           exec (.ship h rout w u d a b c) s = traps s f causeFEATURE 3)))

/-- R68, R110, R111, R124, R127 to R129 and R452: what reading and writing an operand does in each of its forms, in a scalar
position and, where `wide`, in a vector position. An outstanding register reads as it stands and sets HAZ; a channel or queue
port acts once, on 8 bytes or on 64, and a source port that has acted holds what it took while the word has not issued. -/
def Obligations.ScalarOperands : Prop :=
  ∀ (s : State) (f : Frond) (fl : BitVec 7) (pos : Nat) (o : Opnd),
    let c : Ctx := { f := f, s := s, flags := fl }
    let v := o.toNat
    let with_ (g : Frond) : Ctx := { c with f := g }
    let chan := chanOf f (v - 0x90)
    let lanes (x : Nat → BitVec 32) : List Nat := (List.range 16).map (fun l => (x l).toNat)
    let special (n : Nat) (x : Word) : Prop := v = n → Gives (readG pos o) c x c
    (v < 0x80 →
      Gives (readG pos o) c (f.reg v) { c with flags := if outReg f v then fl ||| flagHAZ else fl }
      ∧ ∀ x, Gives (writeG o x) c () { with_ (f.setReg v x) with flags := if outReg f v then fl ||| flagHAZ else fl })
    ∧ (0x80 ≤ v → v < 0x90 →
      let n := v - 0x80
      let flags := if outVec f n then fl ||| flagHAZ else fl
      Gives (readV pos o) c (lanes (fun l => (f.reg (8 * n + l / 2)).extractLsb' (32 * (l % 2)) 32)) { c with flags := flags }
      ∧ ∀ x : Nat → BitVec 32, ∃ g, Gives (writeV o (lanes x)) c () { with_ { f with g := g } with flags := flags }
        ∧ g.length = f.g.length
        ∧ ∀ i, i < g.length → g[i]? = if i / 8 = n then some (x (2 * (i % 8) + 1) ++ x (2 * (i % 8)))  else f.g[i]?)
    ∧ (v = 0xD0 → Gives (readG pos o) c 0 c ∧ Gives (readV pos o) c (lanes (fun _ => 0)) c
      ∧ (∀ x, Gives (writeG o x) c () c) ∧ ∀ x, Gives (writeV o (lanes x)) c () c)
    ∧ (0x100 ≤ v → Gives (readG pos o) c ((o.setWidth 8).signExtend 64) c
      ∧ Gives (readV pos o) c (lanes (fun _ => (o.setWidth 8).signExtend 32)) c)
    ∧ special 0xD1 (BitVec.ofNat 64 f.fid)
    ∧ (∀ j i, findJob s f.jid = some j → j.cores[i]? = some f.pcid → (∀ k, k < i → j.cores[k]? ≠ some f.pcid) →
      special 0xD2 (BitVec.ofNat 64 i))
    ∧ special 0xD3 (BitVec.ofNat 64 f.pcid) ∧ special 0xD4 (BitVec.ofNat 64 f.stage) ∧ special 0xD5 f.ix
    ∧ (∀ g, stageOf s f = some g → special 0xD6 (if g.fed.isSome then 0 else BitVec.ofNat 64 (g.n0 * g.n1 * g.n2)))
    ∧ special 0xD7 (BitVec.ofNat 64 s.clk) ∧ special 0xD8 (BitVec.ofNat 64 f.jid)
    ∧ special 0xD9 f.epc ∧ special 0xDA f.ecause ∧ special 0xDB f.einfo
    ∧ (f.outs.length < 16 → f.loops.length < 8 →
      special 0xDC ((BitVec.ofNat 3 f.loops.length ++ BitVec.ofNat 4 f.outs.length ++ BitVec.ofBool f.hnd
        ++ BitVec.ofBool f.urgent ++ BitVec.ofBool f.rooted ++ (0 : BitVec 2) ++ f.flags).setWidth 64))
    ∧ (f.urgent = false → special 0xDD (BitVec.ofNat 64 (getCore s f.pcid).args))
    ∧ (∀ u, f.urgent = true → (getCore s f.pcid).urgent = some u → special 0xDD (BitVec.ofNat 64 u.args))
    ∧ special 0xDE f.sseed
    ∧ (v = 0xD9 → ∀ x, Gives (writeG o x) c () (with_ { f with epc := x }))
    ∧ (v = 0xDA → ∀ x, Gives (writeG o x) c () (with_ { f with ecause := x }))
    ∧ (v = 0xDB → ∀ x, Gives (writeG o x) c () (with_ { f with einfo := x }))
    ∧ (v = 0xDC → ∀ x, Gives (writeG o x) c () (with_ { f with flags := f.flags &&& ~~~x.setWidth 7 }))
    ∧ ∀ wide : Bool,
      let reads (x : Nat) (c' : Ctx) : Prop :=
        if wide then Gives (readVBits pos o) c x c' else Gives (readG pos o) c (BitVec.ofNat 64 x) c'
      let halts (e : Stop) : Prop := if wide then Stops (readVBits pos o) c e c else Stops (readG pos o) c e c
      let write (x : BitVec 512) : M Unit :=
        if wide then writeV o (lanes (fun l => x.extractLsb' (32 * l) 32)) else writeG o (x.setWidth 64)
      let sent (x : BitVec 512) : Nat := if wide then x.toNat else (x.setWidth 64).toNat
      let refuses (m : M Unit) (reason : Nat) : Prop := Stops m c (.trap causeCHANNEL (reason * 2 ^ 12 + v)) c
      (0x90 ≤ v → v ≤ 0x97 →
        (∀ x, heldOf f pos = some x → reads x c)
        ∧ (heldOf f pos = none →
          (∀ x rest, chan.state ≠ .unbound → chan.recv = x :: rest → x.wide = wide →
            reads x.bits (with_ (holdOperand (setChan f (v - 0x90) { chan with recv := rest }) pos x.bits)))
          ∧ (chan.recv = [] → (chan.state = .binding ∨ chan.state = .bound) → halts (.gate (.chan (v - 0x90))))
          ∧ (chan.state = .unbound → halts (.trap causeCHANNEL v))
          ∧ (chan.recv = [] → chan.state = .closed → halts (.trap causeCHANNEL (3 * 2 ^ 12 + v)))
          ∧ (∀ x rest, chan.state ≠ .unbound → chan.recv = x :: rest → x.wide ≠ wide →
            halts (.trap causeCHANNEL (4 * 2 ^ 12 + v))))
        ∧ ∀ x : BitVec 512,
          (chan.state = .unbound → refuses (write x) 0) ∧ (chan.state = .closed → refuses (write x) 3)
          ∧ ((chan.state = .binding ∨ chan.state = .bound) →
            (chan.send.length < 8 → Gives (write x) c ()
              (with_ (setChan f (v - 0x90) { chan with send := chan.send ++ [{ wide := wide, bits := sent x }] })))
            ∧ (8 ≤ chan.send.length → Stops (write x) c .stall c)))
      ∧ (0x98 ≤ v → v ≤ 0x9B → ∀ n q, portQueueOf s f v = some (n, q) →
        (∀ x, heldOf f pos = some x → reads x c)
        ∧ (heldOf f pos = none →
          (∀ bytes, f.feed = some (n, bytes) →
            reads (bytesNat bytes) (with_ (holdOperand { f with feed := none } pos (bytesNat bytes))))
          ∧ ((∀ bytes, f.feed ≠ some (n, bytes)) →
            (∀ e t, popElem s f.jid f.pl n f.pcid = some (e, t) →
              reads (bytesNat e.bytes)
                { c with f := holdOperand f pos (bytesNat e.bytes), s := wakeIfDone t f.jid f.pl n })
            ∧ (popElem s f.jid f.pl n f.pcid = none →
              (q.closed = true → halts (.trap causeQCLOSED v))
              ∧ (q.closed = false → halts (.park 3 (q.va % 2 ^ 48) 0))))))
      ∧ (0x9C ≤ v → v ≤ 0x9F → ∀ n q, portQueueOf s f v = some (n, q) → ∀ x : BitVec 512,
        (q.closed = true → Stops (write x) c (.trap causeQCLOSED v) c)
        ∧ (q.closed = false →
          (released s f.uid onCORE scopeP = false → Stops (write x) c .stall c)
          ∧ (released s f.uid onCORE scopeP = true →
            let push := pushElem s f.jid f.pl n (natBytes (if wide then 64 else 8) (sent x))
            (∀ t, push = some t → Gives (write x) c () { c with s := t })
            ∧ (push = none → Stops (write x) c (.park 2 (q.va % 2 ^ 48) 0) c))))

/-- R111, R138 and R452: the two-source integer words, and `mov`, over operands of every form. Sources are read in the
order A then B and the destination is written after them, whatever each of them does, and the held operands of the word
are used up. `Obligations.ScalarOperands` says what the operands do. -/
def Obligations.WordsOverAnyOperands : Prop :=
  ∀ (s : State) (f : Frond) (h : Hints) (w : Bool) (d a : Opnd) (va : Word) (c1 : Ctx),
    AtIssue s f h → fieldReason (aside s) f { pos := 0, kind := .gw, value := d } = none →
    fieldReason (aside s) f { pos := 1, kind := .g, value := a } = none → Gives (readG 1 a) (startOf s f) va c1 →
    let n := if w then 32 else 64
    let x : BitVec n := va.setWidth n
    let answers (i : Instr) (c2 : Ctx) (r : BitVec n) : Prop :=
      ∀ c3, Gives (writeG d (r.signExtend 64)) c2 () c3 →
        exec i s = completesWith s f (raiseFlags (useHeld f.hnd c3.f) c3.flags) c3.s h
    answers (.mov h w d a) c1 x
    ∧ ∀ (b : Opnd) (vb : Word) (c2 : Ctx), fieldReason (aside s) f { pos := 2, kind := .g, value := b } = none →
      Gives (readG 2 b) c1 vb c2 →
      let y : BitVec n := vb.setWidth n
      let o : SrcB := .fld b
      answers (.add h w d a o) c2 (x + y)
      ∧ answers (.sub h w d a o) c2 (x - y)
      ∧ answers (.mul h w d a o) c2 (x * y)
      ∧ answers (.mulh h w d a o) c2 ((x.signExtend (2 * n) * y.signExtend (2 * n)).extractLsb' n n)
      ∧ answers (.mulhn h w d a o) c2 ((x.setWidth (2 * n) * y.setWidth (2 * n)).extractLsb' n n)
      ∧ answers (.and h w d a o) c2 (x &&& y)
      ∧ answers (.or h w d a o) c2 (x ||| y)
      ∧ answers (.xor h w d a o) c2 (x ^^^ y)
      ∧ answers (.andn h w d a o) c2 (x &&& ~~~y)
      ∧ answers (.orn h w d a o) c2 (x ||| ~~~y)
      ∧ answers (.shl h w d a o) c2 (x <<< (y.toNat % n))
      ∧ answers (.shr h w d a o) c2 (x >>> (y.toNat % n))
      ∧ answers (.sar h w d a o) c2 (x.sshiftRight (y.toNat % n))
      ∧ answers (.rol h w d a o) c2 (x.rotateLeft (y.toNat % n))
      ∧ answers (.min h w d a o) c2 (if x.sle y then x else y)
      ∧ answers (.max h w d a o) c2 (if x.sle y then y else x)
      ∧ answers (.minn h w d a o) c2 (if x.ule y then x else y)
      ∧ answers (.maxn h w d a o) c2 (if x.ule y then y else x)

/-! ## The machine as a whole -/

/-- R138, R141, R145 and R150, as a frame: when a word of registers alone completes, no register but its destination
changes, no predicate but its own, no flag but DZ of a division, no other special register, no view, no channel, no loop
level, and nothing beside the frond: no byte of memory, no other frond, no job, no engine, no flight. -/
def Obligations.RegisterWordFrame : Prop :=
  ∀ (s : State) (f : Frond) (h : Hints) (w : Bool) (d a : Opnd) (b : SrcB) (x y : Word) (i : Instr),
    AtIssue s f h → endsPass f = false → srcVal s f a = some x → srcValB s f b = some y →
    (∀ g ∈ s.fronds, g.uid ≠ f.uid) →
    let two : List Instr := [.add h w d a b, .sub h w d a b, .mul h w d a b, .mulh h w d a b, .mulhn h w d a b,
      .and h w d a b, .or h w d a b, .xor h w d a b, .andn h w d a b, .orn h w d a b, .shl h w d a b, .shr h w d a b,
      .sar h w d a b, .rol h w d a b, .min h w d a b, .max h w d a b, .minn h w d a b, .maxn h w d a b, .mov h w d a,
      .sext h 0 d a, .zext h 0 d a, .clz h w d a, .ctz h w d a, .popc h w d a, .brev h w d a, .bswap h w d a]
    let divides : List Instr := [.div h w d a b, .divn h w d a b, .rem h w d a b, .remn h w d a b]
    let predicates : List Instr := [.cmp h d a b 3 0 0, .tst h d a b false 0]
    (((i ∈ two ∨ i ∈ divides) ∧ ∃ n, operandOf d = .reg n ∧ n < f.regs ∧ outReg f n = false)
      ∨ (i ∈ predicates ∧ predOk f d)) →
    ∃ (t : State) (g : Frond), exec i s = .next t ∧ t.issuing = some g
      ∧ (∀ m, d.toNat ≠ m → g.reg m = f.reg m) ∧ (i ∈ predicates → g.g = f.g)
      ∧ (i ∉ predicates → g.preds = f.preds) ∧ (∀ m, m ≠ d.toNat - 0xB0 → g.pred m = f.pred m)
      ∧ (i ∉ divides → g.flags = f.flags) ∧ (g.flags ||| flagDZ) = (f.flags ||| flagDZ)
      ∧ g.pc = nextPc f ∧ g.loops = f.loops ∧ g.hnd = f.hnd ∧ g.rooted = f.rooted ∧ g.epc = f.epc
      ∧ g.ecause = f.ecause ∧ g.einfo = f.einfo ∧ g.sseed = f.sseed ∧ g.ix = f.ix ∧ g.views = f.views
      ∧ g.outs = f.outs ∧ g.chans = f.chans ∧ g.wait = f.wait ∧ g.uid = f.uid
      ∧ (∀ k, mapGet 0 k t.ls = mapGet 0 k s.ls) ∧ (∀ k, mapGet 0 k t.hbm = mapGet 0 k s.hbm)
      ∧ (∀ k, mapGet 0 k t.host = mapGet 0 k s.host) ∧ t.empties = s.empties ∧ t.fmtMap = s.fmtMap
      ∧ t.fronds = s.fronds ∧ t.jobs = s.jobs ∧ t.engines = s.engines ∧ t.flights = s.flights ∧ t.copies = s.copies
      ∧ t.catalogue = s.catalogue ∧ t.sems = s.sems ∧ t.clk = s.clk ∧ t.mgmt = s.mgmt ∧ t.aqis = s.aqis

/-- R47, R74, R284, R437 and R439: what reset leaves, as far as the spec gives it. The part is bringing up and dark to
no one, no job, frond or access exists, `clk` and the last job id are 0, every interface is disabled with empty queues
and tables, every core of no job has an empty deque, every engine has zero accumulators, counters and masks, and no
local-store word carries a code or an empty sync bit. -/
def Obligations.ResetState : Prop :=
  let s := State.reset
  s.clk = 0 ∧ s.jobs = [] ∧ s.fronds = [] ∧ s.issuing = none ∧ s.flights = [] ∧ s.copies = [] ∧ s.lastJid = 0
  ∧ s.catalogue = [] ∧ s.directory = [] ∧ s.sems = [] ∧ s.poison = [] ∧ s.thresholds = List.replicate 24 0
  ∧ s.clocks = List.replicate 9 (List.replicate 9 0)
  ∧ s.mgmt.state = .bringingUp ∧ s.mgmt.fail = 0 ∧ s.mgmt.fwok = false ∧ s.mgmt.busy = false ∧ s.mgmt.done = false
  ∧ s.mgmt.pkgnum = 0 ∧ s.mgmt.evHead = 0 ∧ s.mgmt.evTail = 0
  ∧ s.aqis.length = 8
  ∧ (∀ a ∈ s.aqis, a.en = false ∧ a.ordinary = [] ∧ a.ahead = [] ∧ a.accepted = 0 ∧ a.retried = 0 ∧ a.refused = 0
    ∧ (∀ e ∈ a.pasids, e.valid = false) ∧ ∀ r ∈ a.remap, r.1 = false)
  ∧ (∀ p, (getCore s p).top = 0 ∧ (getCore s p).bot = 0 ∧ (getCore s p).tag = 0 ∧ (getCore s p).bind = none)
  ∧ (∀ t u i j n, accGet ((getEngine s t).set u) n i j = 0)
  ∧ (∀ t u, ((getEngine s t).set u).masks = List.replicate 8 0
    ∧ ((getEngine s t).set u).ctr = List.replicate 4 (0, 0, 0) ∧ (getEngine s t).queue = [])
  ∧ (∀ a, regionCode s a = 0 ∧ syncFull s a = true)
  ∧ Memory.wf s

/-- R92, R98, R99, R115 and R116: a step at which a frond has its issue chance, no pending cause, and its word present,
runs the instruction that the word decodes to, on the machine with that frond at issue; the frond then goes back to the
others. `takeChance` marks the chance as used, and a precise cause of another word is gone (R370). Everything else that a step adds around `exec` is this. When no frond has
a chance left and one event is the only turn that may be taken, a step is that event, on its subject. -/
def Obligations.StepRunsWord : Prop :=
  (∀ (s : State) (f : Frond) (w : Nat) (i : Instr), nextIssue s = some f → nextCause s f = none →
    f.pc + 12 ≤ 2 ^ 56 → absentLine s f = none → fetchedWord s f = some w → decodeNat w = .ok i →
    step s = mapNext settleIssue (exec i (takeChance s (dropCause f))))
  ∧ ∀ (s : State) (o : Occur), nextIssue s = none → turns s = [.event o] →
    step s = mapNext (fun t => { t with subject := .none }) (exec o.ev { s with subject := o.subject })

/-- R102, R105, R106, R114 and R144: words written out from the encoding tables decode to the instructions that they
stand for, and the words of R114's reasons are no instructions. -/
def Obligations.WordsDecode : Prop :=
  let none_ : Hints := { gq := 0, gn := false, lu := false, sw := false, nm := false }
  decodeNat 0x8000_2000_1000_0000_0000_0028 = .ok (.li none_ 1 40)
  ∧ decodeNat 0x0200_0000_3008_0800_0000_0000 = .ok (.add { none_ with gq := 1 } false 3 1 (.fld 2))
  ∧ decodeNat 0x2200_0020_3008_0800_0000_0000 = .ok (.sub { none_ with gq := 1, gn := true } false 3 1 (.fld 2))
  ∧ decodeNat 0x0000_00A0_4028_1801_0000_0000 = .ok (.div none_ true 4 5 (.fld 6))
  ∧ decodeNat 0x0400_6000_0000_0000_FFFF_FFFD = .ok (.br { none_ with gq := 2 } 0xFFFFFFFD)
  ∧ decodeNat 0x0001_A000_0000_0000_0000_0007 = .ok (.trap none_ 7)
  ∧ decodeNat 0x0001_A040_0000_0000_0000_0000 = .ok (.rfe none_)
  ∧ decodeNat 0 = .error 0x03
  ∧ decodeNat 0xC000_0000_0000_0000_0000_0000 = .error 0x01
  ∧ decodeNat 0x0002_0000_0000_0000_0000_0000 = .error 0x02
  ∧ decodeNat 0x0000_2000_0000_0000_0000_0000 = .error 0x05

/-- R102 to R114: the encoder and the decoder agree on every well-formed word: its encoding decodes to it, with every
operand, or, for a row of the vector half of a P-form word, to the row of its scalar half that has the same word.
R114: no word has two readings: a word that decodes is well-formed and is the encoding of what it decodes to. -/
def Obligations.WordsRoundTrip : Prop :=
  (∀ (i : Instr) (h : Hints) (engine : Bool), hintsIn i = some (h, engine) → wellFormed i = true →
     ∃ x, encodeNat i = some x ∧ x < 2 ^ 96 ∧ decodeNat x = .ok i.canon)
  ∧ (∀ (x : Nat) (i : Instr), x < 2 ^ 96 → decodeNat x = .ok i → wellFormed i = true ∧ encodeNat i = some x)

/-- R179, R184, R225, R342 and R447, as an invariant: every step keeps the canonical form of memory, in which local
stores, HBM and host memory, sync bits, format codes and uncorrectable marks are one list for each content. -/
def Obligations.MemoryCanonicalKept : Prop :=
  ∀ s t : State, Memory.wf s → step s = .next t → Memory.wf t

/-! ## Events: accesses and answers -/

/-- R227, R248, R251, R301, R319, R326, R350 and R450: an element of a store or of a read-modify-write that may be performed is
performed at its home, and with an element of a `vst` the others of its aligned piece of 8 bytes: its bytes take the value, or its
code in the format of its place, and no other byte of memory changes. Where its leaf has CNT = 1 its page counts its granules. A
store bound for another die is applied there once the clock that it carries is met, and the clock of that die counts it. -/
def Obligations.StoresPerformed : Prop :=
  (∀ (s : State) (g : Flight) (k : Nat) (e : Elem),
    s.subject = .element g.id k → findFlight s g.id = some g → g.elems[k]? = some e → g.piece = false →
    e.performed = false → 0 < e.size → (e.cnt = none ∨ Silent s) → markedIn s (resolve s e.place) e.size = false → Memory.wf s →
    mayPerformAll s g [k] = true → Undisturbed s (resolve s e.place) e.size →
    let done (t : State) (v w : Nat) : Prop := Wrote s t (resolve s e.place) e.size v
      ∧ (findFlight t g.id).map (fun x => x.elems) = some (g.elems.set k { e with val := w, performed := true })
      ∧ ∀ pa pg, resolve s e.place = .hbm pa → mapGet 0 pg t.counters =
          if e.cnt.isSome ∧ pkgOf pa = s.mgmt.pkgnum ∧ pg = pa / 65536 then
            Nat.min 0xFFFF (mapGet 0 pg s.counters + ((pa + e.size - 1) / 64 - pa / 64 + 1))
          else mapGet 0 pg s.counters
    (g.op = .store →
      (crossDie s g e = none → ∃ t, exec .storePerformed s = .next t ∧ done t (storedOf s g e) e.val)
      ∧ ∀ d, crossDie s g e = some d → clockReady s (dieOf g.pcid) e.clock d = true →
        ∃ t, exec .crossDieStoreApply s = .next t ∧ done t (storedOf s g e) e.val
          ∧ t.clocks = (noteApplied s d (dieOf g.pcid)).clocks)
    ∧ ∀ (rout b c m v r : Nat) (u sx : Bool), g.op = .rmw rout u b c sx → rout < 8 →
      readPlace s (resolve s e.place) e.size = some m →
      routineStep (s.routines.getD []) rout u (8 * e.size) m b c = some (some v, r) →
      ∃ t, exec .storePerformed s = .next t ∧ done t v r)
  ∧ ∀ (s : State) (g : Flight) (k : Nat) (e : Elem),
    s.subject = .element g.id k → findFlight s g.id = some g → g.elems[k]? = some e → g.op = .store → g.piece = true →
    let goes (x : Elem) : Bool := x.va / 8 == e.va / 8
    let group := g.elems.filter goes
    (∀ x ∈ group, x.performed = false ∧ 0 < x.size ∧ (x.cnt = none ∨ Silent s) ∧ (∀ a b c d, x.place ≠ .walk a b c d)
      ∧ markedIn s (resolve s x.place) x.size = false ∧ Undisturbed s (resolve s x.place) x.size) → Memory.wf s →
    mayPerformAll s g (pieceOf g k) = true →
    let after (t : State) : Prop := WroteAll s t (group.map (fun x => (resolve s x.place, x.size, storedOf s g x)))
      ∧ (findFlight t g.id).map (fun x => x.elems)
        = some (g.elems.map (fun x => if goes x then { x with performed := true } else x))
    (crossDie s g e = none → ∃ t, exec .storePerformed s = .next t ∧ after t)
    ∧ ∀ d, crossDie s g e = some d → clockReady s (dieOf g.pcid) e.clock d = true →
      ∃ t, exec .crossDieStoreApply s = .next t ∧ after t

/-- R125, R157, R233, R249, R254 and R450: the answer of an access lands, and a frond in hold storage has its record
laid anew. An acknowledgement removes its store, and that of a `bar` comes after those of the fronds that reached its
word before (R367); a result is
written to its destination and stops being outstanding, or leaves a cause pending; a word that waited for it goes on, or
has the cause pending; the last arriver of a `join` goes on and any other ends. An integer load extends its element.
R42, R260 and R333 to R336: the descriptor of a `wbind` is checked, and leaves OPERAND, ALIGN or XLATE pending at its frond,
which stays rooted (log entries 92 and 106, DESIGN CHOICE); with an empty footprint the view is live at once; else it registers in
the catalogue of each home of its footprint in turn, and is live after the last, unless it meets a view of another frond there
that it may not share with, or finds a catalogue full, where its frond parks and what it has registered stays. Two views that
share a byte may meet. -/
def Obligations.AnswersLand : Prop :=
  (∀ (s : State) (g : Flight) (due : Nat),
    s.subject = .object g.id → findFlight s g.id = some g → g.done = some due → due ≤ s.clk →
    let value := resultOf (gone s g) g
    let lands_ (t : State) : Prop := exec .resultLanding s = .next (sentOn t g.id)
    ((g.op = .store ∨ (∃ b, g.op = .scadd b) ∨ ((∃ o b, g.op = .sync o b) ∧ g.dest = .none)) →
      barLater s g = false →
      (g.blocks = none → exec .storeAck s = .next (gone s g))
      ∧ ∀ h, g.blocks = some h → exec .storeAck s = .next (resumeWord (gone s g) g.uid h))
    ∧ (lands g = true → landsLater s g = false → bindLater s g = false →
      (g.blocks = none → g.failed = none →
        lands_ (relay (updFrond (gone s g) g.uid (fun f => resultLanded s.clk g.id (writeDest f g.dest value))) g.uid))
      ∧ (∀ c, g.blocks = none → g.failed = some c →
        lands_ (relay (updFrond (gone s g) g.uid (fun f => resultLanded s.clk g.id { f with late := f.late ++ [c] })) g.uid))
      ∧ ∀ h, g.blocks = some h →
        (∀ c, g.failed = some c → c.code ≠ causeDATAFAULT →
          lands_ (awakened (gone s g) g.uid (fun f => pendCause f c)))
        ∧ (∀ c, g.failed = some c → c.code = causeDATAFAULT →
          lands_ (awakened (gone s g) g.uid (fun f => pendCause f { c with info := c.info % 2 ^ 56 })))
        ∧ (g.failed = none → (∀ w, g.op ≠ .bind w) → g.op ≠ .join →
          lands_ (resumeWord (updFrond (gone s g) g.uid (heldResult g.dest value)) g.uid h))
        ∧ (∀ e es, g.failed = none → g.op = .join → g.elems = e :: es →
          (e.val = 1 → lands_ (updFrond (resumeWord (gone s g) g.uid h) g.uid (fun f => { f with
            errWait := (findFrond (gone s g) g.uid).elim false (fun x => x.errWait) })))
          ∧ (e.val ≠ 1 → lands_ (exitGo (updFrond (gone s g) g.uid (fun f =>
            useHeld f.hnd { f with wait := .joined, since := s.clk })) g.uid))))
    ∧ ∀ mty e es, g.op = .load mty false → g.elems = e :: es → mty < 8 → e.val < 2 ^ (8 * 2 ^ (mty % 4)) →
      BitVec.ofNat 64 value
        = if mty ≤ 3 then (BitVec.ofNat (8 * 2 ^ mty) e.val).signExtend 64 else BitVec.ofNat 64 e.val)
  ∧ (∀ (s : State) (g : Flight) (due w : Nat) (h : Hints) (e : Elem),
    s.subject = .object g.id → findFlight s g.id = some g → g.done = some due → due ≤ s.clk → g.op = .bind w →
    landsLater s g = false → bindLater s g = false → g.blocks = some h → g.failed = none → g.elems = [e] →
    let lands_ (t : State) : Prop := exec .resultLanding s = .next (sentOn t g.id)
    let leaves (code info : Nat) : Prop :=
      lands_ (awakened (gone s g) g.uid (fun f => pendCause f { code := code, info := info }))
    let d := BitVec.ofNat 512 e.val
    let at_ (lo width : Nat) : Nat := (d.extractLsb' lo width).toNat
    let rank := at_ 80 8
    let esz := at_ 64 8
    let ext (k : Nat) : Nat := at_ (128 + 32 * k) 32
    let str (k : Nat) : Int := (d.extractLsb' (256 + 32 * k) 32).toInt
    let dims := List.range rank
    let low : Int := at_ 0 56 + esz * (dims.map (fun k => Min.min 0 (((ext k : Int) - 1) * str k))).sum
    let high : Int := at_ 0 56 + esz * (dims.map (fun k => Max.max 0 (((ext k : Int) - 1) * str k))).sum + esz - 1
    let bad : Prop := rank < 1 ∨ 4 < rank ∨ esz ∉ [1, 2, 4, 8] ∨ 6 ≤ at_ 89 3
      ∨ at_ 56 8 ≠ 0 ∨ at_ 76 4 ≠ 0 ∨ at_ 92 36 ≠ 0 ∨ (∃ k, rank ≤ k ∧ k < 4 ∧ (ext k ≠ 0 ∨ str k ≠ 0))
      ∨ ∃ k, k < rank ∧ ext k ≠ 0 ∧ ext k ≤ at_ (384 + 32 * k) 32
    let empty : Prop := ∃ k, k < rank ∧ ext k = 0
    (bad → leaves causeOPERAND (operandInfo 5 0xE 0))
    ∧ (¬ bad → at_ 0 56 % esz ≠ 0 → leaves causeALIGN (at_ 0 56))
    ∧ (¬ bad → at_ 0 56 % esz = 0 →
      (empty → lands_ (resumeWord (updFrond (gone s g) g.uid (fun f => setView f w (some d))) g.uid h))
      ∧ (¬ empty → (2 : Int) ^ 56 ≤ high → leaves causeXLATE (high % 2 ^ 64).toNat)
      ∧ (¬ empty → high < 2 ^ 56 → low < 0 → leaves causeXLATE (low % 2 ^ 64).toNat)
      ∧ ∀ f, findFrond (gone s g) g.uid = some f → ¬ empty → high < 2 ^ 56 → 0 ≤ low →
        let step := if rank = 1 ∧ 2 ≤ ext 0 then (str 0).natAbs * esz else 0
        let foot : Foot := { lo := low.toNat, hi := high.toNat, step := step
                             off := if step = 0 then 0 else low.toNat % step, esz := esz }
        let granules := high.toNat / 2 ^ 30 - low.toNat / 2 ^ 30 + 1
        let homes := (List.range (Nat.min 9 granules)).map (fun i => (low.toNat / 2 ^ 30 + i) % 9)
        let entry (die : Nat) : CatEntry :=
          { die := die, jid := f.jid, uid := f.uid, fid := f.fid, w := w, foot := foot, write := d.getLsbD 88, scope := at_ 89 3 }
        let holds (die : Nat) (x : CatEntry) : Bool := x.die == die && x.jid == f.jid && x.uid != f.uid
          && (d.getLsbD 88 || x.write) && mayMeet x.foot foot
        let full (die : Nat) : Prop := 4096 ≤ (s.catalogue.filter (fun x => x.die == die)).length
        let free (die : Nat) : Prop := (∀ x ∈ s.catalogue, holds die x = false) ∧ ¬ full die
        let parks (done rest : List Nat) (reason obj : Nat) : Prop :=
          lands_ (refreshSpent (updFrond { gone s g with
              catalogue := s.catalogue ++ done.map entry
              binds := s.binds ++ [{ uid := g.uid, w := w, desc := d, dies := rest, at_ := s.clk, hints := h }] } g.uid
            (fun _ => bindParked s.clk f (reason, obj))) f.pcid)
        ((∀ die ∈ homes, free die) →
          let live := setView f w (some d)
          let c := complete { gone s g with catalogue := s.catalogue ++ homes.map entry }
            (useHeld f.hnd { live with wait := .run, notBefore := s.clk + 1 }) h none ((fetchedWord s f).getD 0)
          lands_ (refreshSpent (updFrond c.1 g.uid (fun _ => c.2)) f.pcid))
        ∧ ∀ done die rest, homes = done ++ die :: rest → (∀ x ∈ done, free x) →
          (∀ x, s.catalogue.find? (holds die) = some x → parks done (die :: rest) 4 (x.fid % 2 ^ 48))
          ∧ ((∀ x ∈ s.catalogue, holds die x = false) → full die → parks done (die :: rest) 5 die)))
  ∧ ∀ (v w : BitVec 512) (i k : Nat → Nat) (a b : Nat), viewCheck v = none → viewCheck w = none →
    let at_ (v : BitVec 512) (i : Nat → Nat) : Int :=
      (viewBase v : Int) + viewEsz v * ((List.range (viewRank v)).map (fun n => i n * viewStr v n)).sum
    (∀ n, n < viewRank v → i n < viewExt v n) → (∀ n, n < viewRank w → k n < viewExt w n) → a < viewEsz v → b < viewEsz w →
    at_ v i + a = at_ w k + b → mayMeet (footOf v) (footOf w) = true

/-- R119, R121, R160, R346, R348, R362, R391 and R396: waits end. A sleep ends with its count; the answer of a service, and
an event that `idle` waits for, complete their word; a refused operation goes to its port again, once the line
of its word has landed and no urgent request is ready there (R225, R243); a waiting one that
passes its timeout leaves FELIMIT pending at its word; a flit moves from the head of one queue to the end of the other,
and wakes its receiver. -/
def Obligations.WaitsEnd : Prop :=
  (∀ (s : State) (f : Frond), s.subject = .frond f.uid → findFrond s f.uid = some f →
    (∀ t, f.wait = .sleep t → t ≤ s.clk → exec .sleepEnd s = .next (awakened s f.uid id))
    ∧ (∀ svc a d h, f.wait = .sys svc a d h → mayRun s f = true →
      exec .sysAnswer s = .next (resumeWord (updFrond s f.uid (heldResult d (serviceAnswer s f svc a))) f.uid h)
      ∧ serviceAnswer s f 0 a = a.toNat ∧ (6 ≤ svc → serviceAnswer s f svc a = 2 ^ 64 - 1)
      ∧ ∀ j, findJob s f.jid = some j → serviceAnswer s f 1 a = j.clamp.toNat
        ∧ serviceAnswer s f 2 a = j.cores.length ∧ serviceAnswer s f 3 a = j.snapshot.length)
    ∧ (∀ until_ d h, f.wait = .idle until_ d h →
      let m : BitVec 6 := pendingEvents s (dieOf f.pcid) ||| (if until_.any (fun t => t ≤ s.clk) then 0x20 else 0)
      m ≠ 0 → exec .idleWake s
        = .next (resumeWord (updFrond (clearEvents s (dieOf f.pcid)) f.uid (heldResult d m.toNat)) f.uid h))
    ∧ ∀ at_ n g op b a, f.wait = .resend at_ n → at_ ≤ s.clk → findFlight s n = some g → syncOf g = some (op, b, a) →
      mayRun s f = true → isFrozen s f = false → arrived s f.uid n (.ls a) 8 = true →
      (f.urgent = true ∨ urgentWaits s (.ls a) = false) →
      exec .syncResend s = .next (syncArrive (updFrond s f.uid (fun x => { x with wait := .port n })) g op b a))
  ∧ (∀ (s : State) (g : Flight) (op : SyncOp) (b a t : Nat) (j : Job), s.subject = .object g.id →
    findFlight s g.id = some g → syncOf g = some (op, b, a) → limited op = true → g.first = some t →
    findJob s g.jid = some j → (∀ e ∈ g.elems, e.performed = false) → t + g.frozen + j.fet ≤ s.clk →
    exec .felimitTimeout s
      = .next (syncTrap s g.id g.uid { code := causeFELIMIT, info := 2 ^ 63 + windowBase + a }))
  ∧ ∀ (s : State) (f u : Frond) (n p : Nat) (x : Flit) (xs : List Flit), s.subject = .port f.uid n →
    findFrond s f.uid = some f → findFrond s u.uid = some u → u.uid ≠ f.uid → f.chans.length = 8 → u.chans.length = 8 →
    n < 8 → p < 8 → (∀ o ∈ s.orphans, o.1 ≠ f.uid) → (chanOf f n).state = .bound →
    (chanOf f n).peer = some (u.uid, p) → (chanOf u p).send = x :: xs → (chanOf f n).recv.length < 8 →
    ∃ t g v, exec .channelFlitDelivery s = .next t ∧ findFrond t f.uid = some g ∧ findFrond t u.uid = some v
      ∧ chanOf g n = { chanOf f n with recv := (chanOf f n).recv ++ [x] }
      ∧ chanOf v p = { chanOf u p with send := xs } ∧ g.wait = if f.wait = .chan n then .run else f.wait

/-! ## Events: code, pages, blocks, bulk movement -/

/-- R92 to R94, R222 and R223: an instruction-cache fill keeps its line, the pieces that it has read before as they stood
then and the others as they stand in memory, and lets the fronds that wait for it go on; a page walk that finds a leaf
stores its translation and releases the fronds parked on the page, in parking order, and a walk starts for those whose
page the leaf leaves out; one that finds a fault is relayed to the host. -/
def Obligations.CodeAndPagesArrive : Prop :=
  (∀ (s : State) (tile jid line : Nat) (x : IFill), s.subject = .iline tile jid line →
    s.ifills.find? (fun y => y.tile == tile && y.jid == jid && y.line == line) = some x → x.due ≤ s.clk →
    ∃ t, exec .icacheFill s = .next t ∧ x ∉ t.ifills ∧ t.ls = s.ls ∧ t.hbm = s.hbm ∧ t.host = s.host
      ∧ ∀ bytes, readCode s x.got (tileDie tile) jid line = some (.ok bytes) →
        { tile := tile, jid := jid, line := line, bytes := bytes } ∈ t.ilines
        ∧ ∀ f ∈ s.fronds, f.jid = jid → tileOf f.pcid = tile → f.wait = .icache →
          ∃ g ∈ t.fronds, g.uid = f.uid ∧ g.wait = .run)
  ∧ ∀ (s : State) (id : Nat) (w : Walk), s.subject = .object id → s.walks.find? (fun x => x.id == id) = some w →
    let ended : State := { s with walks := s.walks.filter (fun x => x.id != id) }
    (findJob s w.jid = none → exec .pageWalkDone s = .next ended)
    ∧ ∀ j, findJob s w.jid = some j → w.fault = none → w.due ≤ s.clk →
      (∀ l, translatePasid s j.space w.va w.write = .ok l →
        let t := transOf w.die w.jid w.va l
        (w.fill = none → exec .pageWalkDone s
          = .next (walkRest ((pageWaiters s w t.size).foldl (fun s f => releaseFrond s f.uid) (addTrans ended t)) w))
        ∧ (∀ p, w.fill = some p → exec .pageWalkDone s = .next (fillReady (addTrans ended t) p t))
        ∧ t ∈ (addTrans ended t).tstore)
      ∧ ∀ kind, translatePasid s j.space w.va w.write = .error kind →
        let faulted := updFirst (fun x => x.id == id) (fun (x : Walk) => { x with fault := some kind }) s.walks
        exec .pageWalkDone s = .next (relayFault { s with walks := faulted } w kind)

/-- R236 to R241: the arbiter of a core gives the block of the queue that it prefers a carrel that may be taken; a line
of the block arrives as it stands in memory, or fails; the last one makes the block resident and releases its waiters,
each with a claim on the carrel; a failed fill leaves the carrel empty, and a cause pending at each waiter. -/
def Obligations.BlocksFill : Prop :=
  ∀ (s : State) (pcid : Nat),
    let c := getCore s pcid
    (∀ q, s.subject = .core pcid → c.fill = none → pickQueue s c = some q → availableCarrels s c ≠ [] →
      c.pickFrom ≤ s.clk →
      ∃ t k, exec .fillPick s = .next t ∧ k ∈ availableCarrels s c
        ∧ (getCore t pcid).fill.map (fun x => (x.jid, x.block, x.carrel)) = some (q.jid, q.block, k)
        ∧ ((getCore t pcid).carrels[k]?).map (fun x => (x.state, x.jid, x.block)) = some (.filling, q.jid, q.block))
    ∧ (∀ x k l, s.subject = .line pcid l → c.fill = some x → c.carrels[x.carrel]? = some k → l ∈ x.lines →
      x.failed = none → lineTime s x k.pa ≤ s.clk →
      arrivedAt s (pcid * 2 ^ 20 + carrelOff x.carrel + 128 * l) 128 = false →
      let pa := k.pa + 128 * l
      let home : Place := .ls (pcid * 2 ^ 20 + carrelOff x.carrel + 128 * l)
      (poisoned s pa = false → poisoned s (pa + 64) = false → Undisturbed s home 128 → Memory.wf s →
        ∃ t, exec .lineArrival s = .next t ∧ Wrote s t home 128 (readNat s.hbm pa 128)
          ∧ (getCore t pcid).fill.map (fun y => y.lines) = some (x.lines.filter (fun i => i != l)))
      ∧ (poisoned s pa = true ∨ poisoned s (pa + 64) = true →
        ∃ t, exec .lineArrival s = .next t ∧ t.ls = s.ls
          ∧ (getCore t pcid).fill.map (fun y => y.failed)
            = some (some (x.block * blockSize + 128 * l + (if poisoned s pa then 0 else 64)))))
    ∧ (∀ x k, s.subject = .core pcid → c.fill = some x → c.carrels[x.carrel]? = some k → x.ready = true →
      x.lines = [] → x.failed = none → x.due ≤ s.clk →
      ∃ t, exec .fillLanding s = .next t ∧ (getCore t pcid).fill = none
        ∧ ((getCore t pcid).carrels[x.carrel]?).map (fun y => y.state) = some .resident
        ∧ ∀ q ∈ c.holds, q.jid = x.jid → q.block = x.block → ∀ w ∈ q.waiters, w.proxy = none →
          ∀ f, findFrond s w.uid = some f → ∃ g, findFrond t w.uid = some g ∧ g.wait = .run ∧ x.carrel ∈ g.claims)
    ∧ ∀ x va, s.subject = .core pcid → c.fill = some x → x.carrel < c.carrels.length → x.failed = some va →
      ∃ t, exec .fillFailure s = .next t ∧ (getCore t pcid).fill = none
        ∧ ((getCore t pcid).carrels[x.carrel]?).map (fun y => y.state) = some .empty
        ∧ ∀ q ∈ c.holds, q.jid = x.jid → q.block = x.block → ∀ w ∈ q.waiters, w.proxy = none →
          ∀ f, findFrond s w.uid = some f →
          ∃ g, findFrond t w.uid = some g ∧ g.wait = .run ∧ wordCause g = some { code := causeDATAFAULT, info := va }

/-- R32, R90 and R268 to R275: the bulk movements. Byte i of row r of plane p of a copy lies p × STR2 + r × STR1 + i into its
region. Every aligned piece of the source may be read before it is written (R321; log entry 89). A copy out of local store writes
its bytes to its region and nothing else, at its end or one aligned piece of 8 bytes at a time before it (R319). The lines of a
copy in land one by one, each with the bytes of the region that belong in it and no other; those of a granule that cannot be
read stay as they were, and the copy keeps the first of them for its STOREERR (R270). A `cpyq` and a source push their next
element; a merge gives its participants back to their words; a sink writes its oldest element. -/
def Obligations.BulkMoves : Prop :=
  (∀ (c : Copy) (p r i : Nat), p < c.e2 → r < c.e1 → i < c.ext0 →
    copyOff c ((p * c.e1 + r) * c.ext0 + i) = p * c.str2 + r * c.str1 + i)
  ∧ (∀ (s : State) (c : Copy) (k : Nat), s.copies.find? (fun x => x.id == c.id) = some c → c.due ≤ s.clk →
    copyNowhere c = false → givesWay s c.uid (.ls c.ls) = false →
    let ts := (List.range (copyBytes c)).filter (fun t => copyPiece c t == k && copyUndone c t && !hasGot c.got t)
    ts ≠ [] → fetchHeld s c ts = false → (∀ t ∈ ts, (sourceByte s c t).isSome = true) →
    ∃ u c', fetchPiece s c.id k = some u ∧ u.ls = s.ls ∧ u.hbm = s.hbm ∧ u.host = s.host
      ∧ u.copies.find? (fun x => x.id == c.id) = some c' ∧ ∀ t ∈ ts, gotByte c'.got t = sourceByte s c t)
  ∧ (∀ (s : State) (c : Copy), s.subject = .object c.id → s.copies.find? (fun k => k.id == c.id) = some c →
    c.due ≤ s.clk → c.lines = [] →
    let ended : State := { s with copies := s.copies.filter (fun k => k.id != c.id) }
    (c.out = false → c.bar = none → c.failed = none → exec .copyComplete s = .next ended)
    ∧ (c.out = false → barrierReady s c = true → exec .copyComplete s = .next (endCopy s c))
    ∧ (c.out = true → copyBytes c ≠ 0 → barrierReady s c = true → outReady s c = true → copyNowhere c = false →
      failedGranules s c = [] → mapWf 0 s.hbm → Silent s →
      ∃ u, exec .copyComplete s = .next (endCopy u c) ∧ CopiedOut s u c (bytesLeft c) ∧ u.copies = s.copies)
    ∧ ∀ k, k ∈ copyLeft c → pieceReady s c k = true → copyNowhere c = false →
      (∀ t ∈ pieceBytes c k, poisoned s (c.pa + copyOff c t) = false) → mapWf 0 s.hbm →
      ∃ u, movePiece s c.id k = some u ∧ CopiedOut s u c (pieceBytes c k)
        ∧ (u.copies.find? (fun x => x.id == c.id)).map (fun x => x.moved) = some (setAdd k c.moved))
  ∧ (∀ (s : State) (c : Copy) (line : Nat), s.subject = .element c.id line → c.out = false →
    s.copies.find? (fun k => k.id == c.id) = some c → line ∈ c.lines → c.due ≤ s.clk → copyNowhere c = false →
    lineHeld s c line = false → mapWf 0 s.ls → Silent s → Undisturbed s (.ls (128 * line)) 128 →
    let first := (copyPart c line).1
    let region (t : Nat) := c.pa + copyOff c t
    let lost (t : Nat) : Bool := (gotByte c.got t).isNone && poisoned s (region t)
    ∃ t, exec .lineArrival s = .next t ∧ t.hbm = s.hbm
      ∧ (∀ a, mapGet 0 a t.ls =
          if first ≤ a ∧ a < first + (copyPart c line).2 ∧ lost (a - c.ls) = false then
            (gotByte c.got (a - c.ls)).getD (mapGet 0 (region (a - c.ls)) s.hbm)
          else mapGet 0 a s.ls)
      ∧ (t.copies.find? (fun k => k.id == c.id)).map (fun k => (k.lines, k.failed))
        = some (c.lines.filter (fun x => x != line),
            c.failed.or (((lineBytes c line).find? lost).map (fun t => (c.va + copyOff c t) / 64 * 64 % 2 ^ 56))))
  ∧ (∀ (s : State) (c : CopyQ) (q : Queue), s.subject = .object c.id →
    s.copyqs.find? (fun k => k.id == c.id) = some c → theQueue s c.jid c.pl c.q = some q → c.due ≤ s.clk →
    let n := 2 ^ q.esz
    c.pos + n ≤ c.e2 * c.e1 * c.ext0 → paExists (copyqPa c c.pos) = true →
    copyqHeld s c n = false → ringReached s q = false → ∀ j, findJob s c.jid = some j →
    let r := copyqRead s c n
    let byte (i : Nat) : Byte := (gotByte c.got (c.pos + i)).getD
      (if poisoned s (copyqPa c (c.pos + i)) then Config.unreadByte (s.choices + i)
       else mapGet 0 (c.pa + shapeOff c.ext0 c.e1 c.str1 c.str2 (c.pos + i)) s.hbm)
    let push := pushElem s c.jid c.pl c.q ((List.range n).map byte)
    (q.closed = true → exec .cpyqPush s = .next (copyqTaken (addErrors s c.jid j.live.toNat) r n))
    ∧ (∀ t, q.closed = false → push = some t → exec .cpyqPush s = .next (copyqTaken t r n))
    ∧ (q.closed = false → push = none → j.live = false → exec .cpyqPush s = .next (copyqTaken s r n)))
  ∧ (∀ (s : State) (p : Phase), s.subject = .object p.id → s.phases.find? (fun x => x.id == p.id) = some p →
    mergeReady s p = true →
    let left : State := { noteProgress s p.jid with phases := s.phases.filter (fun x => x.id != p.id) }
    exec .reductionMergeDone s
      = .next (p.waiters.foldl (fun s w => resumeWord s w.1 w.2) ((mergeLeft p).foldl (mergeElem p) left)))
  ∧ ∀ (s : State) (j : Job) (pl qn : Nat) (q : Queue), s.subject = .queue j.jid pl qn → findJob s j.jid = some j →
    theQueue s j.jid pl qn = some q →
    (∀ p l t, q.prod = 0xF → q.closed = false → j.phase = .running →
      streamPlace s j (q.sva + q.streamed) false = some (p, l) → landedAll s p (2 ^ q.esz) = true →
      streamServed s j p = true → ringReached s q = false →
      pushElem { s with choices := s.choices + 2 ^ q.esz } j.jid pl qn (streamBytes s p (2 ^ q.esz)) = some t →
      let moved := updJob (countStream t p l (2 ^ q.esz)) j.jid (fun j => j.updQueue pl qn (fun q =>
        { q with streamed := q.streamed + 2 ^ q.esz }))
      exec .streamSourcePush s = .next (if q.slen ≤ q.streamed + 2 ^ q.esz then
        settleJob (closeQueue moved j.jid pl qn) j.jid else moved))
    ∧ ∀ seg e es, q.cons = 0xF → streamRuns j = true → q.segs = [seg] → seg.elems = e :: es →
      let taken (t : State) : State :=
        ((popElem t j.jid pl qn 0).map (fun r => settleJob r.2 j.jid)).getD t
      (q.slen ≤ q.streamed → exec .streamSinkWrite s = .next (taken (addErrors s j.jid 1)))
      ∧ ∀ u, q.streamed < q.slen → sinkWrite s j q e.bytes = some u →
        exec .streamSinkWrite s = .next (taken (updJob (noteProgress u j.jid) j.jid (fun j => j.updQueue pl qn (fun q =>
          { q with streamed := q.streamed + e.bytes.length }))))

/-! ## Events: engines -/

/-- R283, R290, R302 and R449: at the check point of an engine word its frond goes on, and the word is due after 32
cycles a group, 16 for a sparse one, or 128 for a load; a failed operand, a bad sparse line or an accumulator that does
not fit its lines takes the word out of the engine, with the cause pending at its frond, which stays rooted (log entry 92,
DESIGN CHOICE). -/
def Obligations.EngineCheckPoints : Prop :=
  ∀ (s : State) (tile : Nat) (w : EngWord), s.subject = .engineWord tile w.id → findWord s tile w.id = some w →
    w.checked = false →
    let leaves (c : Cause) : Answer := .next (awakened (delFlight (dropWord s tile w.id) w.id) w.uid
      (fun f => pendCause f c))
    let passes (n : Nat) : Answer := .next (resumeWord (updWord s tile w.id (fun x =>
      { x with checked := true, due := s.clk + n })) w.uid w.hints)
    let point : Answer := exec .matrixCheckPoint s
    (∀ g, findFlight s w.id = some g → (∀ e ∈ g.elems, e.performed = true) →
      (∀ d sparse ta tb ng kg width na nb, w.op = .mma d sparse ta tb ng kg width na nb →
        (∀ c, g.failed = some c → point = leaves { c with info := c.info % 2 ^ 56 })
        ∧ (g.failed = none → sparse = false → point = passes (32 * ng))
        ∧ (g.failed = none → sparse = true →
          let bad := sparseFault width (((g.elems.take na).map (fun e => e.val)).take (ng * groupSteps width / 2)) 0
          (bad = none → point = passes (16 * ng)) ∧ ∀ c, bad = some c → point = leaves c))
      ∧ ∀ d ty, w.op = .load d ty →
        (∀ c, g.failed = some c → point = leaves { c with info := c.info % 2 ^ 56 })
        ∧ (g.failed = none → point = passes 128))
    ∧ ∀ a rnd ty code r room, w.op = .sst a rnd ty code r room → w.due ≤ s.clk →
      (∀ x ∈ earlierWords s tile w.id, x.op.acts a = false) →
      let set := (getEngine s tile).set w.urgent
      let t := sparseStores s tile w a rnd ty code r room
      (∀ c, packFault w set a rnd ty code r = some c → point = leaves c)
      ∧ (packFault w set a rnd ty code r = none →
        (r + room ≤ 63 → point = .next (awakened t w.uid (fun f =>
          pendCause f { code := causeOVERRUN, info := r + room })))
        ∧ (64 ≤ r + room → point = .next (resumeWord t w.uid w.hints)))

/-- R284, R293, R298 to R306: the word at the head of an engine's queue, checked and due, has its effect and leaves. It
gives every element of its accumulator a value and changes no element of another; `mma`, `mmas` and `madd` count on INF
and on NAN, up to 2^21 − 1, the elements that they turn infinite and NaN, and `mzero` and `mld` leave the counters; `mclrs` clears one accumulator's
counters alone; `mstat` makes its result of them; a storing word leaves once its stores are performed. -/
def Obligations.EngineWordsComplete : Prop :=
  ∀ (s : State) (tile : Nat) (w : EngWord) (ws : List EngWord), s.subject = .engine tile w.urgent →
    (getEngine s tile).queue = w :: ws → w.checked = true → w.due ≤ s.clk →
    mapWf 0 ((getEngine s tile).set w.urgent).acc →
    let old := (getEngine s tile).set w.urgent
    let after (p : State → EngSet → Prop) : Prop := ∃ t, exec .matrixWordComplete s = .next t
      ∧ (getEngine t tile).queue = ws ∧ (getEngine t tile).set (!w.urgent) = (getEngine s tile).set (!w.urgent)
      ∧ ((getEngine t tile).set w.urgent).masks = old.masks ∧ p t ((getEngine t tile).set w.urgent)
    let fills (d : Nat) (counts : EngSet → Prop) (val : Nat → Nat → Nat) : Prop := after (fun _ new => counts new
      ∧ ∀ n i j, n < 4 → i < 128 → j < 128 → accGet new n i j = if n = d then val i j % 2 ^ 32 else accGet old n i j)
    let unchanged (new : EngSet) : Prop := new.ctr = old.ctr
    let turned (d : Nat) (new : EngSet) : Prop :=
      let cap (n : Nat) : Nat := Nat.min n (2 ^ 21 - 1)
      let turns (p : Machine.Num → Bool) : Nat := ((List.range 16384).filter (fun q =>
        p (f32 (accGet new d (q / 128) (q % 128))) && !p (f32 (accGet old d (q / 128) (q % 128))))).length
      new.ctr = old.ctr.modify d (fun c => (cap c.1, cap (c.2.1 + turns Machine.Num.isInf), cap (c.2.2 + turns Machine.Num.isNan)))
    (∀ d, w.op = .zero d → d < 4 → fills d unchanged (fun _ _ => 0))
    ∧ (∀ d a kg, w.op = .add d a kg → d < 4 →
      fills d (turned d) (fun i j => accAdd (nanPayload w.cid kg) (accGet old d i j) (some (f32 (accGet old a i j)))))
    ∧ (∀ d ty g, w.op = .load d ty → d < 4 → findFlight s w.id = some g → fills d unchanged (loadedAcc w ty g))
    ∧ (∀ d sparse ta tb ng kg width na nb g, w.op = .mma d sparse ta tb ng kg width na nb → d < 4 →
      findFlight s w.id = some g →
      let lines := g.elems.map (fun e => e.val)
      let steps := groupSteps width
      let an := dataLines width (ng * steps) sparse
      let bn := dataLines width (ng * steps) false
      let x := tileValue ta width w.fa sparse ((lines.take na).take an) ((lines.take na).drop an)
      let y := tileValue tb width w.fb false ((lines.drop na).take bn) ((lines.drop na).drop bn)
      fills d (turned d) (fun i j => addGroups w.cid kg steps (fun k => (x k i, y k j)) ng 0 (accGet old d i j)))
    ∧ (∀ a, w.op = .clear a → after (fun _ new => new.acc = old.acc ∧ new.ctr = old.ctr.set a (0, 0, 0)))
    ∧ (∀ a g, w.op = .stat a → findFlight s w.id = some g → after (fun t new => new = old ∧
      let c := old.ctr.getD a (0, 0, 0)
      findFlight t w.id = some { g with op := .value (c.2.2 + c.2.1 * 2 ^ 21 + c.1 * 2 ^ 42), done := some (s.clk + 16) }))
    ∧ ((w.op.stores = true) → w.stored = true → storesDone s w.id = true → after (fun t new => new = old ∧ t.hbm = s.hbm))

/-! ## Events: fronds and cores -/

/-- R15, R33, R34, R75 to R80, R121 and R123: fronds come to slots. The head of a ready list takes a free slot and window
and may issue 16 cycles later; a core starts the entry at the bottom of its deque, a spawn whole and a range by its first
item, or the next item of its urgent context; a thief reads a victim's words, and its compare-and-swap takes the top entry,
or the upper half of a range, only while those words have not changed and after the owner's own take of the same cycle
(R81), and the reply brings it to the thief's BOT; after a pass without success it rests. A frond is placed in a later
cycle than that in which it joined its list. What a start leaves unfilled of the registers and the predicates is 0 (log entry 7,
DESIGN CHOICE). -/
def Obligations.FrondsStart : Prop :=
  ∀ (s : State) (pcid : Nat),
    let c := getCore s pcid
    (∀ urgent f fs n base j, s.subject = .bank pcid urgent → readyList s pcid urgent = f :: fs →
      freePlace s pcid urgent f.regs = some (n, base) → findJob s f.jid = some j → j.phase = .running →
      mayPlace s pcid urgent = true → f.notBefore ≤ s.clk →
      exec .readyListPlace s = .next (updCore (updFrond s f.uid (fun f =>
        { f with loc := .slot n, base := base, notBefore := firstIssue s pcid urgent })) pcid
          (fun c => { c with placedAt := some s.clk })))
    ∧ (∀ b j g n base, s.subject = .bank pcid false → c.bind = some b → findJob s b.jid = some j →
      j.stage? b.pl b.stage = some g → j.phase = .running → freePlace s pcid false g.regs = some (n, base) →
      mayPlace s pcid false = true → readyList s pcid false = [] → movedOn c = false → dequeNonempty c = true →
      c.swapAt ≠ some s.clk →
      let x := sporeAt s c (bottomIndex c)
      let starts (pc : Nat) (ix : Word) (regs : List Word) (bot : Nat) : Prop :=
        ∃ t f old, exec .frondStart s = .next t ∧ t.fronds = old ++ [f] ∧ old.length = s.fronds.length ∧ f.jid = b.jid
          ∧ f.stage = g.snum ∧ f.pcid = pcid ∧ f.loc = .slot n ∧ f.base = base ∧ f.pc = pc ∧ f.ix = ix ∧ f.regs = g.regs
          ∧ f.g = regs ++ List.replicate (g.regs - regs.length) 0 ∧ f.preds = 0 ∧ f.flags = 0 ∧ f.wait = .run
          ∧ f.notBefore = s.clk + 16 ∧ (f.rooted = true ↔ 16 < g.regs) ∧ (getCore t pcid).bot = bot
      takeable s x = true →
      (x.kind = 1 → starts x.pc x.info.ix [BitVec.ofNat 64 x.a0, BitVec.ofNat 64 x.a1, BitVec.ofNat 64 x.joinva]
        (bottomIndex c))
      ∧ (x.kind ≠ 1 → x.a1 ≤ x.a0 + 1 → starts x.pc (BitVec.ofNat 64 x.a0) [BitVec.ofNat 64 x.a0] (bottomIndex c))
      ∧ (x.kind ≠ 1 → x.a0 + 1 < x.a1 → starts x.pc (BitVec.ofNat 64 x.a0) [BitVec.ofNat 64 x.a0] c.bot))
    ∧ (∀ u j g n base, s.subject = .bank pcid true → c.urgent = some u → findJob s u.jid = some j →
      j.stage? u.pl u.stage = some g → j.phase = .running → freePlace s pcid true g.regs = some (n, base) →
      mayPlace s pcid true = true → u.lo < u.hi →
      ∃ t f, exec .frondStart s = .next t ∧ t.fronds = s.fronds ++ [f] ∧ f.urgent = true ∧ f.rooted = true ∧ f.loc = .slot n
        ∧ f.pc = g.entry % 2 ^ 56 ∧ f.ix = BitVec.ofNat 64 u.lo ∧ (getCore t pcid).urgent = some { u with lo := u.lo + 1 })
    ∧ (∀ b level v left, s.subject = .core pcid → maySteal s pcid = some b → nextVictim s c b = some (level, v, left) →
      stealDue c.steal ≤ s.clk → v ≠ pcid →
      let k := getCore s v
      let hop := (distCore pcid v).half
      ∃ t, exec .stealRead s = .next t
        ∧ (dequeNonempty k = true → k.bind = some b → takeable s (sporeAt s k k.top) = true →
          (getCore t pcid).steal = .swapping level left v k.tag k.top (s.clk + 2 * hop))
        ∧ (dequeNonempty k = false → (getCore t pcid).steal = .trying level left (s.clk + hop)
          ∨ (getCore t pcid).steal = .resting (s.clk + 1024)))
    ∧ (∀ level left v tag top due, s.subject = .core pcid → c.steal = .swapping level left v tag top due → due ≤ s.clk →
      dequeCount c < dequeCap c → startMain s v = none →
      let k := getCore s v
      let takes (t : State) (bits : Nat) (ix : Word) : Answer :=
        .next (updCore t pcid (fun c => { c with steal := .carrying bits ix (s.clk + (distCore pcid v).half) }))
      let same := dequeNonempty k ∧ k.bind = c.bind ∧ k.tag = tag ∧ k.top = top
      let x := sporeAt s k top
      (same → x.kind ≠ 1 → x.a0 + 1 < x.a1 →
        let mid := x.a0 + (x.a1 - x.a0) / 2
        exec .stealCas s = takes (setCore { s with ls := writeNat s.ls (dequeAddr k top + 16) 8 mid }
          { k with tag := (k.tag + 1) % 2 ^ 32, swapAt := some s.clk }) (sporeBits 2 x.pc mid x.a1 x.joinva) x.info.ix)
      ∧ (same → x.kind = 1 ∨ x.a1 ≤ x.a0 + 1 →
        exec .stealCas s = takes (wakeForks (setCore s (dropMeta { k with
          tag := (k.tag + 1) % 2 ^ 32, swapAt := some s.clk, top := (k.top + 1) % 2 ^ 16 } top)) v)
          (sporeBits x.kind x.pc x.a0 x.a1 x.joinva) x.info.ix)
      ∧ (¬ same → exec .stealCas s = .next (afterVictim s pcid level left (s.clk + (distCore pcid v).half))))
    ∧ (∀ bits ix due, c.steal = .carrying bits ix due → due ≤ s.clk → dequeCount c < dequeCap c →
      stolenLands s pcid = some (pushSpore (endPass s pcid) pcid bits ix [] 0))
    ∧ ∀ t, s.subject = .core pcid → c.steal = .resting t → t ≤ s.clk →
      exec .stealPassRetry s = .next (updCore s pcid (fun c => { c with steal := .idle }))

/-- R82 to R87: the balancer. An interval ends when it is due and decides its moves from the scores of that moment; a
move that takes effect stops the segment on its core from accepting; a draining core passes its entries on from
TOP; a drained core is bound to its new stage, with the new argument copy and segments. R231, R232 and R377: a
frond leaves for the home of a block when its stores are acknowledged and its replies have forwarding entries, 200
cycles on one die and 400 between dies; it arrives with a claim on the block's carrel, as a waiter of the block, or
on the ready list; a word without its feature sends a mobile frond without held operands to a core that has it, and
ends the fault domain of any other. -/
def Obligations.CoresAndFrondsMove : Prop :=
  (∀ (s : State),
     (∀ (jid pl : Nat) (j : Job) (p : Pipe), s.subject = .pipe jid pl → findJob s jid = some j →
       j.pipes[pl]? = some p → nextInterval p ≤ s.clk → j.cores ≠ [] → j.phase = .running →
       let t := updJob s jid (fun j => j.updPipe pl (fun p => { p with intervals := p.intervals + 1 }))
       exec .balancerInterval s = .next (if j.urgent then t else
         decideMoves j pl p (p.stages.foldl (fun m g => mapPut 0 g.snum (score t j pl p g) m) [])
           (j.cores.length + p.stages.length) [] [] t))
     ∧ ∀ (pcid : Nat), s.subject = .core pcid →
       let c := getCore s pcid
       (∀ m b, c.move = some m → c.bind = some b → m.began = false → m.at_ ≤ s.clk →
         ∃ t, exec .balancerMove s = .next t ∧ (getCore t pcid).move = some { m with began := true }
           ∧ t.fronds = s.fronds ∧ ∀ j, findJob t b.jid = some j → ∀ p, j.pipes[b.pl]? = some p → ∀ q ∈ p.queues,
             endNames q.cons b.stage = true → ∀ g ∈ q.segs, g.pcid = some pcid → g.accepting = false)
       ∧ (∀ b p, c.bind = some b → transferTo s b = some p → movedOn c = true → dequeNonempty c = true →
         dequeCount (getCore s p) < dequeCap (getCore s p) →
         let x := sporeAt s c c.top
         exec .dequeTransfer s = .next (pushSpore (wakeForks (setCore s { dropMeta c c.top with
           top := (c.top + 1) % 2 ^ 16, tag := (c.tag + 1) % 2 ^ 32 }) pcid) p
           (sporeBits x.kind x.pc x.a0 x.a1 x.joinva) x.info.ix x.info.deps x.info.from_))
       ∧ ∀ m b j p g, c.move = some m → c.bind = some b → findJob s b.jid = some j → j.pipes[b.pl]? = some p →
         j.stage? b.pl m.stage = some g → j.phase = .running → drainedCore s c b p = true →
         let e := areaEnds j p g
         reachesUrgent c e.1 e.2 = false →
         let at_ := pcid * 2 ^ 20 + argsOff j
         (g.args = [] ∨ arrivedAt s at_ g.args.length = false) →
         let t := writeBytes (setBind (setCore s { c with
           move := none, steal := .idle, lowEnd := e.1, segOff := e.2 }) pcid (some { b with stage := m.stage })) at_ g.args
         let u := if g.args = [] then t else lsWritten t at_ g.args.length
         exec .coreRebind s = .next (settleJob (moveSegments u j b pcid m.stage) j.jid))
  ∧ (∀ (s : State) (f : Frond), s.subject = .frond f.uid → findFrond s f.uid = some f →
       let c := getCore s f.pcid
       let arrives (home : Nat) : Nat := s.clk + if dieOf home = dieOf f.pcid then 200 else 400
       let leaves (i : Instr) (home : Nat) (block : Option Nat) : Prop := exec i s
         = .next (refreshSpent (updFrond (updCore s f.pcid (fun c => { c with fwd := c.fwd ++ f.outs.map (fun o => o.id) }))
           f.uid (fun g => { g with loc := .transit (arrives home) block, pcid := home, claims := [], lastWalk := none }))
           f.pcid)
       (∀ block j home, f.wait = .migrate block → findJob s f.jid = some j → homeCore j block = some home →
         hasStores s f.uid = false → isFrozen s f = false → mayRun s f = true → c.fwd.length < 32 → c.fwd.length + f.outs.length ≤ 32 →
         leaves .migrate home (some block))
       ∧ (∀ t, f.loc = .transit t none → t ≤ s.clk → exec .migrationArrival s = .next (toReady s f.uid))
       ∧ (∀ t block, f.loc = .transit t (some block) → t ≤ s.clk →
         goneNow s f.jid block = false →
         (∀ k, findCarrel c .resident f.jid block = some k → exec .migrationArrival s = .next (touchCarrel (toReady
           (updFrond s f.uid (fun f => { f with claims := [k], lastWalk := some k })) f.uid) f.pcid k))
         ∧ (findCarrel c .resident f.jid block = none →
           (holdsUsed s f.pcid < c.holdLen / 256 → noHoldEntry s f block = false →
             let g : Frond := { f with loc := .hold, wait := .park 0 block 0, since := s.clk, seq := s.fresh
                                       record := freeRecord s f.pcid }
             exec .migrationArrival s = .next (layRecord
               (placeHold (updFrond { s with fresh := s.fresh + 1 } f.uid (fun _ => g)) g block) g))
           ∧ (c.holdLen / 256 ≤ holdsUsed s f.pcid ∨ noHoldEntry s f block = true → exec .migrationArrival s
             = .next (updFrond (toReady s f.uid) f.uid (fun f => { f with reached := some block })))))
       ∧ ∀ bit, f.wait = .feature bit → mayRun s f = true →
         (∀ home cs, f.rooted = false → heldCount f = 0 → featureCores s f bit = home :: cs → hasStores s f.uid = false →
           isFrozen s f = false → c.fwd.length < 32 → c.fwd.length + f.outs.length ≤ 32 → leaves .featureMigrate home none)
         ∧ (f.rooted = true ∨ heldCount f ≠ 0 ∨ featureCores s f bit = [] →
           exec .featureMigrate s = .next (endDomain (sendMessage s f
             (messageBits f 2 causeFEATURE bit f.pc ((fetchedWord s f).getD 0) f.hnd)) f 1)))

/-- R370 to R376 and R378: the cause that is next at a frond is taken before its word: into its handler, with the trap
registers, HND and the entry depth set, or as a halt with a message. Late causes come first, in landing order, then a
STOREERR at a word with SW = 1 or another that R372 names, among them the first word after a Waiting state in which it was
recorded, to which the handler returns; then the precise cause that is pending at the word itself, and
an unlisted encoding last. Firmware ends the fault domain of a halted frond that has no other supervisor. A message is
written to its empty slot, which becomes full. -/
def Obligations.CausesTaken : Prop :=
  (∀ (s : State) (f : Frond), s.subject = .frond f.uid → findFrond s f.uid = some f →
    (∀ c g, f.wait = .run → nextCause s f = some (c, g) →
      (handlerCause c.code = true → f.hnd = false → traphOf s f ≠ 0 →
        exec .handlerEntry s = .next (updFrond (notOwed s f) f.uid (fun _ => { g with
          epc := BitVec.ofNat 64 f.pc, ecause := BitVec.ofNat 64 c.code, einfo := BitVec.ofNat 64 c.info, hnd := true
          entryDepth := f.loops.length, pc := traphOf s f % 2 ^ 56 / 4 * 4, wait := .run, notBefore := s.clk + 1 })))
      ∧ (f.hnd = true ∨ (c.code ≠ causeFEATURE ∧ (handlerCause c.code = false ∨ traphOf s f = 0)) →
        ∃ t h, exec .frondhalt s = .next t ∧ findFrond t f.uid = some h ∧ h.wait = .halted ∧ h.pc = f.pc
          ∧ h.halt = some { cause := c.code, info := c.info, pc := f.pc, word := (fetchedWord s f).getD 0 }
          ∧ (f.hnd = true → h.epc = f.epc ∧ h.ecause = f.ecause ∧ h.einfo = f.einfo)
          ∧ (f.hnd = false → h.epc = BitVec.ofNat 64 f.pc ∧ h.ecause = BitVec.ofNat 64 c.code)))
    ∧ (let back := if f.hnd = false ∧ f.errWait = true then some f.pc else f.errBack
      (∀ c cs, f.late = c :: cs → nextCause s f = some (c, { f with late := cs, errBack := back }))
      ∧ ∀ e es, f.late = [] → f.storeErrs = e :: es → f.hnd = false →
        ((∃ w, fetchedWord s f = some w ∧ eligibleWord w = true) ∨ f.errWait = true ∨ f.errBack = some f.pc) →
        nextCause s f
          = some ({ code := causeSTOREERR, info := e }, { f with storeErrs := es, errWait := false, errBack := back }))
    ∧ (∀ c, f.late = [] → f.storeErrs = [] → wordCause f = some c → nextCause s f = some (c, dropCause f))
    ∧ (∀ c, wordCause (pendCause f c) = some c)
    ∧ (∀ w : Nat, w.testBit 88 = true → eligibleWord w = true)
    ∧ (∀ w r, f.late = [] → f.storeErrs = [] → wordCause f = none → fetchedWord s f = some w → decodeNat w = .error r →
      nextCause s f = some ({ code := causeILLEGAL, info := r }, f))
    ∧ (f.wait = .halted → mayRun s f = true → slotOf s f = none → exec .faultDomainEnd s = .next (endDomain s f 0)))
  ∧ ∀ (s : State) (j : Job) (k p o : Nat) (m : Msg), s.subject = .element j.jid k → findJob s j.jid = some j →
    (∀ n, j.phase ≠ .suspended n ∧ j.phase ≠ .resuming n) → j.msgs[k]? = some m → (∀ x ∈ j.msgs.take k, x.slot ≠ m.slot) →
    (windowOk s j.jid m.slot = none → ∃ t, exec .supervisorMessage s = .next t ∧ t.ls = s.ls)
    ∧ (windowOk s j.jid m.slot = some (p, o) → o % 8 = 0 → syncFull s (p * 2 ^ 20 + o) = false →
      slotTakes s (p * 2 ^ 20 + o) = true →
      Undisturbed s (.ls (p * 2 ^ 20 + o)) 64 → Memory.wf s →
      ∃ t, exec .supervisorMessage s = .next t ∧ syncFull t (p * 2 ^ 20 + o) = true
        ∧ Wrote s t (.ls (p * 2 ^ 20 + o)) 64 (m.bits.toNat + 2 ^ 32 * deliveredTo j m.slot))

/-- R131, R133, R380 and R381: an urgent context takes its core: the main bank is Frozen and the fronds of the shadow bank
may issue 32 cycles later; the core swaps back when no frond of it is left, and a context whose stage has not
completed may ask again; at the end of its quantum the job retires with status QUANTUM and every core of it swaps back. -/
def Obligations.UrgentSwaps : Prop :=
  ∀ (s : State) (pcid : Nat) (u : Urgent), (getCore s pcid).urgent = some u →
    (s.subject = .swap pcid u.jid → s.swaps.any (fun x => x.pcid == pcid && x.jid == u.jid) = true → u.t = none →
      (∀ b, (getCore s pcid).swapBack = some b → b + 48 ≤ s.clk) →
      ∃ t, exec .swapRequest s = .next t ∧ (getCore t pcid).frozen = some s.clk
        ∧ (getCore t pcid).urgent = some { u with t := some s.clk }
        ∧ t.fronds = s.fronds.map (fun f =>
          if f.pcid = pcid ∧ f.loc ≠ .ready ∧ f.urgent then { f with notBefore := Nat.max f.notBefore (s.clk + 32) } else f))
    ∧ (s.subject = .core pcid → urgentLeft s pcid = false →
      (urgentOver s u = true → ∃ t, exec .swapBack s = .next t ∧ (getCore t pcid).urgent = none
        ∧ (getCore t pcid).swapBack = if u.t.isSome then some s.clk else (getCore s pcid).swapBack)
      ∧ (urgentOver s u = false → u.t.isSome = true → ∃ t, exec .swapBack s = .next t
        ∧ (getCore t pcid).urgent = some { u with t := none } ∧ (getCore t pcid).swapBack = some s.clk))
    ∧ ∀ e, s.subject = .core pcid → quantumEnd s u = some e → e ≤ s.clk → urgentLeft s pcid = true →
      ∃ t, exec .urgentQuantumEnd s = .next t ∧ (getCore t pcid).urgent = none
        ∧ ∀ j, findJob s u.jid = some j → j.live = true →
          (findJob t u.jid).map (fun j => j.phase) = some (.retiring (some 0x0E))

/-! ## Events: jobs and packets -/

/-- R51, R57 to R66, R404 and R405: the packet whose turn it is at an interface. An INTAKE with a fault, a refused START, LAYOUT,
FORMAT or CANCEL finishes with its status; an INTAKE without one makes its job, which waits for its cores when GO is set;
a START makes an open job wait; a LAYOUT and a FORMAT write their entries; a CANCEL drops an open job or ends a live one. A
completion record is written in four pieces, that of byte 0 last and with it the interrupt, and the next packet of its interface
waits for it (log entry 48). -/
def Obligations.PacketsTakeEffect : Prop :=
  (∀ (s : State) (n : Nat), s.subject = .aqi n → recordOwed s n = true →
    ∀ i ∈ [Instr.intake, .start, .layout, .format, .cancel], exec i s = .refused .notEnabled)
  ∧ (∀ (s : State) (x : Space) (cra vec : Nat) (irq packet : Bool) (r : Record) (l : Leaf), cra ≠ 0 → cra < 2 ^ 56 →
    translatePasid s x cra true = .ok l →
    let pa := l.pa + cra % l.size
    (writeRecord s x cra irq vec packet r).records = s.records ++ [{
      place := if l.host then .host pa else .hbm pa, bits := recordBits r, left := [1, 2, 3], va := cra, aqi := x.aqi
      pasid := x.pasid, vec := if irq then some vec else none, tag := r.tag, jid := r.jid, packet := packet }])
  ∧ (∀ (s : State) (w : RecWrite) (ws : List RecWrite), s.records = w :: ws → (∀ a b c d, w.place ≠ .walk a b c d) →
    Memory.wf s →
    let wrote (t : State) (k : Nat) : Prop :=
      if markedIn s (placePlus w.place (8 * k)) 8 = true then t.hbm = s.hbm ∧ t.host = s.host ∧ t.ls = s.ls
      else Wrote s t (placePlus w.place (8 * k)) 8 (w.bits / 2 ^ (64 * k) % 2 ^ 64)
    (∀ k ∈ w.left, ∃ t, recordPiece s k = some t ∧ wrote t k
      ∧ t.records = { w with left := w.left.filter (fun i => i != k) } :: ws)
    ∧ (w.left ≠ [] → 0 ∉ w.left → recordPiece s 0 = none)
    ∧ (w.left = [] → ∃ t, wrote t 0 ∧ t.records = ws
      ∧ (w.vec = none → recordPiece s 0 = some t)
      ∧ ∀ v, w.vec = some v → recordPiece s 0 = some (raiseIrq t w.aqi w.pasid v w.tag w.jid)))
  ∧ ∀ (s : State) (n : Nat) (a : Aqi) (p : Packet), s.subject = .aqi n → s.aqis[n]? = some a → nextPacket a = some p →
    s.mgmt.state = .operational → recordOwed s n = false →
    let finishes (t : State) (status count : Nat) : Answer := .next (finishPacket t n p status p.jid count)
    (p.op = 1 →
      (∀ u st, intakeJob s n p = (u, .error st) → exec .intake s = .next (finishPacket u n p st 0 0))
      ∧ ∀ u j, intakeJob s n p = (u, .ok j) →
        let t (j : Job) : State :=
          writeJid { u with jobs := u.jobs ++ [j], lastJid := j.jid } (p.space n) (bytesAt p.bytes 16 8) j.jid
        (p.go = false → exec .intake s = .next (finishPacket (t j) n p 0x00 j.jid 0 j.clamp))
        ∧ (p.go = true → exec .intake s = .next (holdPacket (t { j with phase := .waiting }) n p j.jid)))
    ∧ (p.op < 1 ∨ 5 < p.op → exec .intake s = finishes s 0x01 0)
    ∧ (p.op = 2 →
      (∀ st, startStatus s n p = some st → exec .start s = finishes s st 0)
      ∧ (startStatus s n p = none → ∃ t, exec .start s = .next t
        ∧ (∀ j, findJob s p.jid = some j → (findJob t p.jid).map (fun k => (k.phase, k.cra, k.tag, k.accepted, k.order, k.cpent))
          = some (.waiting, p.cra, p.tag, p.at_, p.order, p.pent))))
    ∧ (p.op = 3 →
      let hfirst := bytesAt p.bytes 18 2
      let hcount := bytesAt p.bytes 20 4
      let src := bytesAt p.bytes 24 8
      let ok := headerOk p [0] false = true ∧ 1 ≤ hcount ∧ hcount ≤ 65536 ∧ src % 64 = 0 ∧ zeroBytes p.bytes 32 64 = true
      (¬ ok → exec .layout s = finishes s 0x01 0)
      ∧ (ok → a.priv = false → exec .layout s = finishes s 0x02 0)
      ∧ (ok → a.priv = true → liveJob s p.jid = none → exec .layout s = finishes s 0x09 0)
      ∧ ∀ j, ok → a.priv = true → liveJob s p.jid = some j →
        (j.layn < hfirst + hcount → exec .layout s = finishes s 0x01 0)
        ∧ (hfirst + hcount ≤ j.layn →
          let r := layRecords (p.space n) p.jid src hfirst hcount 0 s
          exec .layout s = finishes r.1 r.2.2 r.2.1))
    ∧ (p.op = 4 →
      let first := bytesAt p.bytes 18 1
      let count := bytesAt p.bytes 19 1
      let es := (List.range count).map (fun i => bytesAt p.bytes (24 + 4 * i) 4)
      headerOk p [0] false = true → 1 ≤ first → 1 ≤ count → count ≤ 10 → first + count ≤ 16 →
      zeroBytes p.bytes 20 24 = true → zeroBytes p.bytes (24 + 4 * count) 64 = true →
      (a.priv = false → exec .format s = finishes s 0x02 0)
      ∧ (a.priv = true → liveJob s p.jid = none → exec .format s = finishes s 0x09 0)
      ∧ (a.priv = true → (liveJob s p.jid).isSome = true →
        ((∃ e ∈ es, formatBad e = true) → exec .format s = finishes s 0x04 0)
        ∧ ((∀ e ∈ es, formatBad e = false) → exec .format s = finishes (updJob s p.jid (fun j => { j with
          fmts := es.zipIdx.foldl (fun t e => t.set (first + e.2) (BitVec.ofNat 32 e.1)) j.fmts })) 0x00 count)))
    ∧ (p.op = 5 → headerOk p [0x200] false = true → zeroBytes p.bytes 18 64 = true →
      (liveJob s p.jid = none → exec .cancel s = finishes s 0x09 0)
      ∧ ∀ j, liveJob s p.jid = some j →
        (a.priv = false → (j.aqi ≠ n ∨ j.pasid ≠ p.pasid) → exec .cancel s = finishes s 0x09 0)
        ∧ (a.priv = true ∨ (j.aqi = n ∧ j.pasid = p.pasid) →
          (j.phase = .open_ → exec .cancel s = finishes { s with jobs := s.jobs.filter (fun k => k.jid != j.jid) } 0x00 0)
          ∧ (j.phase ≠ .open_ → exec .cancel s = .next (holdPacket (beginRetire s j.jid (some 0x0B)) n p j.jid))))

/-- R67, R383 to R387, R401 and R448: the life of a job. Placement binds the cores that firmware has chosen, and an urgent
one puts contexts on shadow banks, and it takes the units that it finds failed; a drained job is suspended and its cores
are free; it resumes from the image at its address, which stays, on the cores that the image names, as it stands or, from
an earlier image, as it stood when that was written; the job of a failed package comes with its image, to resume from it (R446,
log entry 68); a hang sends its message, or retires the job; a quiet job that retires leaves the machine. -/
def Obligations.JobsLive : Prop :=
  (∀ (s : State) (jid : Nat) (cores : List (List (List Nat))) (j : Job), s.subject = .placement jid cores →
    findJob s jid = some j → j.phase = .waiting → s.mgmt.state = .operational →
    let b := placedBudget s j
    let plan := planOf b cores
    let t := updJob s jid (fun _ => placedJob s plan b)
    let placed (t : State) : Answer :=
      .next (settleJob (completeEmpty (beginPlacement t jid (planCores plan)) b) jid)
    planFits plan = true → (∀ k ∈ s.jobs, placedBefore k b = false) →
    (j.urgent = false → planFree s b plan = true →
      exec .placement s = placed (plan.foldl (fun s x => placeSpores x.2.2.1 x.2.2.2 s)
        (plan.foldl (fun s x => x.2.2.2.foldl (bindCore b x.1 x.2.1 x.2.2.1) s) t)))
    ∧ (j.urgent = true → urgentFree s b plan = true →
      exec .urgentPlacement s = placed (plan.foldl (fun s x =>
        (sortBy (fun a b => decide (a ≤ b)) x.2.2.2).zipIdx.foldl (placeUrgent b x.1 x.2.1 x.2.2.1 x.2.2.2.length) s) t)))
  ∧ (∀ (s : State) (pcid : Nat) (lost : BitVec 4), s.subject = .units pcid lost → s.mgmt.state = .operational →
    isCore pcid = true → ∃ t, exec .placement s = .next t ∧ t.ls = s.ls ∧ t.fronds = s.fronds ∧ t.jobs = s.jobs
      ∧ ((∃ c ∈ s.cores, c.pcid = pcid) → ∀ i, (getCore t pcid).lost.getLsbD i
        = ((getCore s pcid).lost.getLsbD i || (i != 0 && lost.getLsbD i))))
  ∧ (∀ (s : State) (j : Job), s.subject = .job j.jid → findJob s j.jid = some j →
    (∀ st, j.phase = .retiring st → jobQuiet s j = true → exec .jobRetirement s = .next (retireJob s j st))
    ∧ (hangDue s j = true →
      let x := snapshotOf s j.jid
      (supervisorSlot s j.jid j.supv = none → ∃ t, exec .hang s = .next t
        ∧ (findJob t j.jid).map (fun k => k.phase) = some (.retiring (some 0x0D)))
      ∧ ∀ slot, supervisorSlot s j.jid j.supv = some slot → ∃ t, exec .hang s = .next t
        ∧ (findJob t j.jid).map (fun k => (k.snapshot, k.hangSent, k.msgs)) = some (x.1, true, j.msgs ++
          [{ slot := slot, pcid := (slot - windowBase) / 2 ^ 20, bits := hangBits j.jid x.1.length x.2 }]))
    ∧ (∀ addr, j.phase = .suspending addr → drained s j = true →
      ∃ t, exec .gangSuspend s = .next t ∧ (findJob t j.jid).map (fun k => k.phase) = some (.suspended addr)
        ∧ (∀ f ∈ t.fronds, f.jid = j.jid → ∃ n, f.loc = .image n) ∧ (∀ p ∈ j.cores, (getCore t p).bind = none)
        ∧ (∀ x ∈ t.tstore, x.jid ≠ j.jid) ∧ ∀ x ∈ t.ilines, x.jid ≠ j.jid)
    ∧ ∀ addr img, j.phase = .resuming addr → imageAt s j.jid addr = some img →
      let base := if isLatest s img then s else rollBack s img
      (∀ old, isLatest s img = false → img.job = some old → old.jid = j.jid →
        findJob base j.jid = some { old with phase := .resuming addr })
      ∧ ∀ k, findJob base j.jid = some k →
        let new := imageCores base addr k.cores.length
        tableReads base addr k.cores.length = true → coresFree base k img new = true →
        (restoreRuns k.cores new img.sems base).isSome = true →
        ∃ t, exec .gangResume s = .next (settleJob t j.jid) ∧ t.images = s.images
          ∧ (findJob t j.jid).map (fun x => (x.phase, x.cores)) = some (.running, new)
          ∧ t.fronds = base.fronds.map (restoreFrond k.cores new j.jid s.clk (fun id =>
            base.flights.any (fun g => g.id == id && (g.jid != j.jid || staysQueued base img.cores g)))))
  ∧ ∀ (s : State) (img : Image) (j : Job), s.subject = .spare img → mayTakeOver s img = true → img.job = some j →
    ∃ t, exec .gangResume s = .next t ∧ findJob t img.jid = some { j with phase := .resuming img.addr }
      ∧ imageAt t img.jid img.addr = some img ∧ t.ls = s.ls ∧ t.hbm = s.hbm

/-! ## Events: the host and the part -/

/-- R46 to R55 and R341: what the host does. A request at an enabled interface with a PASID of its table is accepted, told
to retry, answered with the status block, or refused; a posted write is recorded; registers take what is written; a
revocation ends what the PASID holds; and device memory is read and written within a granule. -/
def Obligations.HostRequests : Prop :=
  ∀ (s : State), s.mgmt.dark = false →
    (∀ block off, s.subject = .registerRead block off →
      exec .notifyDmwr s = .next { s with reply := .completion (natBytes 8 (readRegister s block off)) })
    ∧ (∀ n off len read pasid data a, s.subject = .notify n off len read pasid data → s.aqis[n]? = some a → a.n = n →
      let bump (t : State) (g : Aqi → Aqi) : State := { t with aqis := t.aqis.modify n g }
      (a.en = false → exec .notifyDmwr s = .next (bump { s with reply := .unsupported }
        (fun a => { a with refused := (a.refused + 1) % 2 ^ 32 })))
      ∧ ∀ x e, a.en = true → pasid = some x → pasidEntry a x = some e →
        let p : Packet := { bytes := data, off := off, pasid := x, at_ := s.clk, order := s.fresh, pent := e, job := none }
        (read = false → len = 64 → data.length = 64 → off = 0 →
          (a.ordinary.length < 32 → exec .notifyDmwr s = .next (bump { s with reply := .accepted, fresh := s.fresh + 1 }
            (fun a => { a with accepted := (a.accepted + 1) % 2 ^ 32, ordinary := a.ordinary ++ [p] })))
          ∧ (32 ≤ a.ordinary.length → exec .notifyDmwr s = .next (bump { s with reply := .retry }
            (fun a => { a with retried := (a.retried + 1) % 2 ^ 32 }))))
        ∧ (read = false → len = 64 → data.length = 64 → off = 0x200 ∨ (off = 0x100 ∧ a.urg = true) →
          a.ahead.length < 4 → exec .notifyDmwr s = .next (bump { s with reply := .accepted, fresh := s.fresh + 1 }
            (fun a => { a with accepted := (a.accepted + 1) % 2 ^ 32, ahead := a.ahead ++ [p] })))
        ∧ (read = true → off = 0x40 → 1 ≤ len → len ≤ 64 →
          exec .notifyDmwr s = .next { s with reply := .completion ((statusBlock s a).take len) }))
    ∧ (∀ n off pasid a, s.subject = .posted n off pasid → s.aqis[n]? = some a →
      exec .notifyPostedWrite s = .next (errorRecord { s with reply := .none } 0x01 n (pasid.getD 0) off 0))
    ∧ (∀ n off v a, s.subject = .pasidWrite n off v → s.aqis[n]? = some a → (revokes a off v.toNat).isSome = true →
      exec .pasidRevocation s = .next (writePasid s a off v.toNat))
    ∧ (∀ block off v, s.subject = .register block off v →
      (block = .mgmt → exec .registerWrite s = .next (writeMgmtReg s off v))
      ∧ (block = .msix → exec .registerWrite s = .next (writeMsix s off v))
      ∧ (block = .config → exec .registerWrite s = .next (writeConfig s off v))
      ∧ ∀ n a, block = .aqi n → s.aqis[n]? = some a → exec .registerWrite s = .next (writeAqiReg s a off v))
    ∧ (∀ write addr len data, s.subject = .hostAccess write addr len data → inHdm s addr = false →
      1 ≤ len → addr / 64 = (addr + len - 1) / 64 →
      (write = false → exec .hostCxlMemAccess s
        = .next { s with hostRead := natBytes len (readNat s.host addr len) })
      ∧ (write = true → data.length = len → exec .hostCxlMemAccess s
        = .next { s with host := writeNat s.host addr len (bytesNat data) }))
    ∧ ∀ write addr len data, s.subject = .hostAccess write addr len data → s.mgmt.state = .operational →
      inHdm s addr = true → 1 ≤ len → addr / 64 = (addr + len - 1) / 64 →
      let pa := hdmPa s addr
      (write = false → poisoned s pa = false →
        exec .hostCxlMemAccess s = .next { s with hostRead := natBytes len (readNat s.hbm pa len) })
      ∧ (write = true → data.length = len → poisoned s pa = false → mapWf 0 s.hbm →
        ∃ t, exec .hostCxlMemAccess s = .next t ∧ Wrote s t (.hbm pa) len (bytesNat data))

/-- R436 to R445: the part. Power-good clears the machine and brings it up as far as its checks allow; an alarm is
recorded, and with the fuse set erases the keys and enters the safe state; a stack's refresh is taken over; a
replay of a flit changes nothing but the count of those that failed, and after 8 of them the port goes down; an
uncorrectable error is found in a granule of memory, or of a local store (log entry 105); and pacing holds above 3,200 W. R223, R224, R227, R438 and R440 to R447:
the mailbox. In the safe state every code but three gets status 2, and elsewhere a command whose bytes 1 to 3 are not
zero gets 1; the routine table comes with the image; any other has its effect and
makes its response; the response then stands in the block, with its event. -/
def Obligations.PartAndMailbox : Prop :=
  (∀ (s : State),
     (∀ b, s.subject = .bringUp b → bringUpOk b = true → ∃ t, exec .powerGood s = .next t ∧ t.jobs = [] ∧ t.fronds = []
       ∧ t.clk = 0 ∧ t.ls = [] ∧ (b.portsDown = [] → t.hbm = [])
       ∧ (t.mgmt.step = if !b.fuseOk then 0 else if !b.linkOk then 1 else if !b.bistOk then 2 else if !b.stacksOk then 3
           else if !b.dieLinksOk then 4 else t.mgmt.step)
       ∧ (b.fuseOk = true → b.linkOk = true → b.bistOk = true → b.stacksOk = true → b.dieLinksOk = true →
         b.enginesFailed = [] → s.fusedOff = [] → t.mgmt.step = 6 ∧ t.mgmt.state = .bringingUp))
     ∧ (s.mgmt.dark = false →
       (∀ n, s.subject = .watts n → n < 65536 →
         exec .powerPacing s = .next { s with mgmt := { s.mgmt with pwr := n }, pacing := decide (3200 < n) })
       ∧ (∀ n, s.subject = .detector n → n < 3 → ∃ t, exec .securityAlarm s = .next t ∧ t.mgmt.alarm = true
         ∧ (Config.eraseFuse = true → t.mgmt.erased = true ∧ t.mgmt.state = .safe))
       ∧ (∀ n, s.subject = .stack n → n < 24 → n ∉ s.refresh → exec .refreshTakeover s
         = .next (postEvent { s with mgmt := { s.mgmt with refseq := true }, refresh := setAdd n s.refresh } 3 n 0))
       ∧ (∀ pa, s.subject = .granule pa → localPa s pa = true →
         exec .poison s = .next { s with poison := setAdd (pa / 64) s.poison })
       ∧ (∀ a, s.subject = .lsGranule a → isCore (a / 2 ^ 20) = true → a % 2 ^ 20 < 0x60000 →
         exec .poison s = .next { s with lsPoison := setAdd (a / 64) s.lsPoison })
       ∧ (∀ die port failed, s.subject = .replay die port failed → die < 9 → port < 16 → (die, port) ∉ s.portsDown →
         failedReplays s die port < 8 → exec .narelFlitReplay s = .next { s with
           replays := mapPut 0 (16 * die + port) (if failed then failedReplays s die port + 1 else 0) s.replays })
       ∧ ∀ die port, s.subject = .narel die port → die < 9 → port < 16 → (die, port) ∉ s.portsDown →
         failedReplays s die port = 8 → exec .narelPortDown s
           = .next (postEvent { s with replays := mapPut 0 (16 * die + port) 0 s.replays
                                       portsDown := s.portsDown ++ [(die, port)] } 5 (die + 2 ^ 8 * port) 0)))
  ∧ (∀ (s : State), s.mgmt.dark = false → s.mgmt.busy = true → s.mgmt.answer = none →
       let code := cmdCode s
       let x := cmdOp s 0
       let y := cmdOp s 1
       let ev : List (Nat × Instr) := [(1, .status), (2, .loadfw), (3, .attest), (4, .setpkg), (5, .inval), (6, .xlans),
         (7, .poison), (8, .setthr), (9, .clrcnt)]
       (s.mgmt.state = .safe → code = 0 ∨ 3 < code → earlyStatus s = some 2)
       ∧ (s.mgmt.state ≠ .safe ∨ (1 ≤ code ∧ code ≤ 3) →
         earlyStatus s = if zeroBytes s.mgmt.cmd 1 4 then none else some 1)
       ∧ (∀ c i st, (c, i) ∈ ev → code = c → (c = 7 → ∀ a, s.subject ≠ .granule a ∧ s.subject ≠ .lsGranule a) → earlyStatus s = some st →
         exec i s = .next (respond s st []))
       ∧ (earlyStatus s = none →
         (code = 1 → exec .status s = .next (respond s 0 (natBytes 8 (mstat s.mgmt))))
         ∧ (code = 2 →
           (s.mgmt.erased = true ∨ s.mgmt.step < 6 → exec .loadfw s = .next (respond s 3 []))
           ∧ (s.mgmt.erased = false → 6 ≤ s.mgmt.step → (∃ j ∈ s.jobs, j.live = true) →
             exec .loadfw s = .next (respond s 2 []))
           ∧ (s.mgmt.erased = false → 6 ≤ s.mgmt.step → (∀ j ∈ s.jobs, j.live = false) →
             (∀ bs, readHostBytes s x y = some bs → imageOk bs = true → ∃ t, exec .loadfw s = .next t
               ∧ t.mgmt.state = .operational ∧ t.mgmt.fwok = true ∧ t.mgmt.fail = 0 ∧ t.mgmt.step = 7
               ∧ t.mgmt.image = sha3 bs
               ∧ t.routines = some ((bs.drop 64).take (bytesAt bs 8 8)))
             ∧ ((∀ bs, readHostBytes s x y = some bs → imageOk bs = false) → ∃ t, exec .loadfw s = .next t
               ∧ t.mgmt.state = .safe ∧ t.mgmt.fwok = false ∧ t.mgmt.fail = 7 ∧ ∀ a ∈ t.aqis, a.en = false)))
         ∧ (code = 3 → (s.mgmt.erased = true → exec .attest s = .next (respond s 3 []))
           ∧ (s.mgmt.erased = false → ∃ t, exec .attest s = .next t ∧ t.mgmt.state = s.mgmt.state))
         ∧ (code = 4 → (s.mgmt.placedAny = true → exec .setpkg s = .next (respond s 2 []))
           ∧ (s.mgmt.placedAny = false → 2047 < x → exec .setpkg s = .next (respond s 1 []))
           ∧ (s.mgmt.placedAny = false → x ≤ 2047 → ∃ t, exec .setpkg s = .next t ∧ t.mgmt.pkgnum = x))
         ∧ (code = 5 → s.mgmt.inval = none →
           ((liveJob s x = none ∨ 2 ^ 56 ≤ y) → exec .inval s = .next (respond s 1 []))
           ∧ ((liveJob s x).isSome = true → y < 2 ^ 56 → ∃ t, exec .inval s = .next t ∧ t.mgmt.inval.isSome = true
             ∧ ∀ e ∈ t.tstore, ¬ (e.jid = x ∧ e.va ≤ y ∧ y < e.va + e.size)))
         ∧ (code = 6 → cmdOp s 2 ≤ 1 →
           (faultedWalks s x y = [] → exec .xlans s = .next (respond s 3 []))
           ∧ (faultedWalks s x y ≠ [] → exec .xlans s
             = .next (respond ((faultedWalks s x y).foldl (if cmdOp s 2 = 0 then retryWalk else abortWalk) s) 0 [])))
         ∧ (code = 7 → localPa s x = true → (∀ a, s.subject ≠ .granule a ∧ s.subject ≠ .lsGranule a) →
           ∃ t, exec .poison s = .next t ∧ poisoned t x = true ∧ t.hbm = s.hbm)
         ∧ (code = 8 → x < 24 → y < 65536 → ∃ t, exec .setthr s = .next t ∧ t.thresholds = s.thresholds.set x y)
         ∧ (code = 9 → localPa s x = true → mapWf 0 s.counters →
           ∃ t, exec .clrcnt s = .next t ∧ mapGet 0 (x / 65536) t.counters = 0 ∧ x / 65536 ∉ t.reported))
       ∧ (∀ r, ∃ t, exec .mailboxDone { s with mgmt := { s.mgmt with answer := some r } } = .next t
         ∧ t.mgmt.rsp = r ∧ t.mgmt.busy = false ∧ t.mgmt.done = true)
       ∧ (9 < code ∨ code = 0 → ∃ t, exec .mailboxDone s = .next t ∧ t.mgmt.rsp.take 4
         = [if s.mgmt.state = .safe then 2 else 1, 0, 0, 0]))

/-- R46 to R65, R67, R133, R223 to R227, R341, R380 to R387, R401 and R436 to R448: where an event of the host, of the part,
of the mailbox, of a packet, of a job or of a swap completes with its own effect. Each clause asks only for the subject of
the event and for what the rules ask of the state: a part that is not dark, a command in performance, a packet whose turn
it is and that passes its checks while the record of the packet before it is not on its way (log entry 48), cores that suit a job, a job that is drained or quiet. An event of the part
happens in every state that is not dark (log entry 53); resumes and images are log entries 18 and 35. -/
def Obligations.EventsComplete : Prop :=
  ∀ (s : State),
    (∀ b, s.subject = .bringUp b → bringUpOk b = true → exec .powerGood s = .next (bringUp s b))
    ∧ (s.mgmt.dark = false →
      (∀ n, s.subject = .watts n → n < 65536 → ∃ t, exec .powerPacing s = .next t ∧ t.mgmt.pwr = n)
      ∧ (∀ n, s.subject = .detector n → n < 3 → ∃ t, exec .securityAlarm s = .next t ∧ t.mgmt.alarm = true)
      ∧ (∀ n, s.subject = .stack n → n < 24 → n ∉ s.refresh →
        ∃ t, exec .refreshTakeover s = .next t ∧ t.mgmt.refseq = true)
      ∧ (∀ die port, s.subject = .narel die port → die < 9 → port < 16 → (die, port) ∉ s.portsDown →
        failedReplays s die port = 8 → exec .narelPortDown s = .next (portDown (setReplays s die port 0) die port))
      ∧ (∀ die port failed, s.subject = .replay die port failed → die < 9 → port < 16 → (die, port) ∉ s.portsDown →
        failedReplays s die port < 8 → exec .narelFlitReplay s
          = .next (setReplays s die port (if failed then failedReplays s die port + 1 else 0)))
      ∧ (∀ n off len read pasid data a, s.subject = .notify n off len read pasid data → s.aqis[n]? = some a →
        exec .notifyDmwr s = .next (answerNotify s a off len read pasid data))
      ∧ (∀ n off pasid a, s.subject = .posted n off pasid → s.aqis[n]? = some a →
        exec .notifyPostedWrite s = .next (errorRecord { s with reply := .none } 0x01 n (pasid.getD 0) off 0))
      ∧ (∀ n off v a, s.subject = .pasidWrite n off v → s.aqis[n]? = some a → (revokes a off v.toNat).isSome = true →
        exec .pasidRevocation s = .next (writePasid s a off v.toNat))
      ∧ (∀ off v, s.subject = .register .mgmt off v → exec .registerWrite s = .next (writeMgmtReg s off v))
      ∧ (∀ n off v a, s.subject = .register (.aqi n) off v → s.aqis[n]? = some a →
        exec .registerWrite s = .next (writeAqiReg s a off v))
      ∧ (s.mgmt.busy = true → s.mgmt.answer = none → earlyStatus s = none →
        (∀ a, s.subject ≠ .granule a ∧ s.subject ≠ .lsGranule a) →
        let x := cmdOp s 0
        let y := cmdOp s 1
        (cmdCode s = 1 → exec .status s = .next (respond s 0 (natBytes 8 (mstat s.mgmt))))
        ∧ (cmdCode s = 2 → exec .loadfw s = .next (loadFirmware s))
        ∧ (cmdCode s = 3 → exec .attest s = .next (attest s))
        ∧ (cmdCode s = 4 → s.mgmt.placedAny = false → x < 2048 → exec .setpkg s = .next (respond (setPackage s x) 0 []))
        ∧ (cmdCode s = 5 → s.mgmt.inval = none → (liveJob s x).isSome = true → y < 2 ^ 56 →
          exec .inval s = .next (beginInval s x y))
        ∧ (cmdCode s = 6 → faultedWalks s x y ≠ [] →
          (cmdOp s 2 = 0 → exec .xlans s = .next (respond ((faultedWalks s x y).foldl retryWalk s) 0 []))
          ∧ (cmdOp s 2 = 1 → exec .xlans s = .next (respond ((faultedWalks s x y).foldl abortWalk s) 0 [])))
        ∧ (cmdCode s = 7 → localPa s x = true →
          exec .poison s = .next (respond { s with poison := setAdd (x / 64) s.poison } 0 []))
        ∧ (cmdCode s = 8 → x < 24 → y < 65536 →
          exec .setthr s = .next (respond (reportPages { s with thresholds := s.thresholds.set x y }) 0 []))
        ∧ (cmdCode s = 9 → localPa s x = true → exec .clrcnt s = .next (respond { s with
          counters := mapPut 0 (x / 65536) 0 s.counters, reported := setDel (x / 65536) s.reported } 0 [])))
      ∧ ∀ rsp, s.mgmt.busy = true → s.mgmt.answer = some rsp → exec .mailboxDone s = .next (finishCommand s rsp))
    ∧ (∀ write addr len data, s.subject = .hostAccess write addr len data → 1 ≤ len →
      addr / 64 = (addr + len - 1) / 64 → (write = true → data.length = len) →
      (inHdm s addr = true → s.mgmt.state = .operational) → ∃ t, exec .hostCxlMemAccess s = .next t)
    ∧ (∀ n a p, s.subject = .aqi n → s.aqis[n]? = some a → nextPacket a = some p → s.mgmt.state = .operational →
      recordOwed s n = false →
      (∀ u j, p.op = 1 → intakeJob s n p = (u, .ok j) → ∃ t, exec .intake s = .next t ∧ t.lastJid = j.jid)
      ∧ (p.op = 2 → startStatus s n p = none → ∃ t, exec .start s = .next t)
      ∧ (p.op = 3 → ∃ t, exec .layout s = .next t) ∧ (p.op = 4 → ∃ t, exec .format s = .next t)
      ∧ (p.op = 5 → ∃ t, exec .cancel s = .next t))
    ∧ (∀ jid cores j, s.subject = .placement jid cores → findJob s jid = some j → j.phase = .waiting →
      s.mgmt.state = .operational → let b := placedBudget s j
      planFits (planOf b cores) = true → (∀ k ∈ s.jobs, placedBefore k b = false) →
      (j.urgent = false → planFree s b (planOf b cores) = true → ∃ t, exec .placement s = .next t)
      ∧ (j.urgent = true → urgentFree s b (planOf b cores) = true → ∃ t, exec .urgentPlacement s = .next t))
    ∧ (∀ j, s.subject = .job j.jid → findJob s j.jid = some j →
      (∀ st, j.phase = .retiring st → jobQuiet s j = true → exec .jobRetirement s = .next (retireJob s j st))
      ∧ (hangDue s j = true → ∃ t, exec .hang s = .next t)
      ∧ (∀ addr, j.phase = .suspending addr → drained s j = true → ∃ t, exec .gangSuspend s = .next t)
      ∧ ∀ addr base k img, j.phase = .resuming addr → resumeFrom s j.jid addr = some (base, k, img) →
        tableReads base addr k.cores.length = true → coresFree base k img (imageCores base addr k.cores.length) = true →
        (restoreRuns k.cores (imageCores base addr k.cores.length) img.sems base).isSome = true →
        ∃ t, exec .gangResume s = .next t)
    ∧ ∀ pcid u, (getCore s pcid).urgent = some u →
      (s.subject = .swap pcid u.jid → s.swaps.any (fun x => x.pcid == pcid && x.jid == u.jid) = true → u.t = none →
        (∀ b, (getCore s pcid).swapBack = some b → b + 48 ≤ s.clk) →
        ∃ t, exec .swapRequest s = .next t ∧ (getCore t pcid).frozen = some s.clk)
      ∧ (s.subject = .core pcid → urgentLeft s pcid = false → u.t.isSome = true → ∃ t, exec .swapBack s = .next t)
      ∧ ∀ e, s.subject = .core pcid → quantumEnd s u = some e → e ≤ s.clk → urgentLeft s pcid = true →
        ∃ t, exec .urgentQuantumEnd s = .next t
end

