-- ==== Sys2Proof/Laws/Map.lean ====
section
/-! SUPPORT. The laws of sparse maps, rising sets and bytes of memory: what a read gives after a write, and that
every operation keeps the canonical form. -/

namespace Sys2Proof.Machine

section

variable {α : Type} (d : α)

/-- A key below every listed key reads as the default. -/
theorem mapGet_below (k : Nat) (m : SMap α) (h : ∀ e ∈ m, k < e.1) : mapGet d k m = d := by
  induction m with
  | nil => rfl
  | cons e m ih =>
    have h1 := h e (by simp)
    simp only [mapGet, if_neg (Nat.ne_of_gt h1)]
    exact ih (fun x hx => h x (by simp [hx]))

variable [DecidableEq α]

theorem mapGet_cons_self (k : Nat) (v : α) (m : SMap α) (h : ∀ e ∈ m, k < e.1) :
    mapGet d k (mapCons d k v m) = v := by
  unfold mapCons
  split
  · rename_i hv
    rw [mapGet_below d k m h, hv]
  · simp [mapGet]

theorem mapGet_cons_other (j k : Nat) (v : α) (m : SMap α) (h : j ≠ k) :
    mapGet d j (mapCons d k v m) = mapGet d j m := by
  unfold mapCons
  split
  · rfl
  · simp [mapGet, h.symm]

/-- A read after a write of the same key gives the value written. -/
theorem mapGet_put_self (k : Nat) (v : α) (m : SMap α) (h : mapWf d m) : mapGet d k (mapPut d k v m) = v := by
  induction m with
  | nil => exact mapGet_cons_self d k v [] (by simp)
  | cons e m ih =>
    obtain ⟨hp, hd⟩ := h
    rw [List.pairwise_cons] at hp
    unfold mapPut
    split
    · rename_i hk
      refine mapGet_cons_self d k v _ ?_
      intro x hx
      rcases List.mem_cons.mp hx with rfl | hx
      · exact hk
      · exact Nat.lt_trans hk (hp.1 x hx)
    · split
      · rename_i hk
        exact mapGet_cons_self d k v m (fun x hx => hk ▸ hp.1 x hx)
      · rename_i hk
        simp only [mapGet, if_neg (fun hh => hk (Eq.symm hh))]
        exact ih ⟨hp.2, fun x hx => hd x (by simp [hx])⟩

/-- A write leaves every other key alone. -/
theorem mapGet_put_other (j k : Nat) (v : α) (m : SMap α) (h : j ≠ k) :
    mapGet d j (mapPut d k v m) = mapGet d j m := by
  induction m with
  | nil => exact mapGet_cons_other d j k v [] h
  | cons e m ih =>
    unfold mapPut
    split
    · exact mapGet_cons_other d j k v _ h
    · split
      · rename_i hk
        rw [mapGet_cons_other d j k v m h]
        simp [mapGet, ← hk, h.symm]
      · simp [mapGet, ih]

theorem mapPut_mem (k : Nat) (v : α) (m : SMap α) : ∀ x ∈ mapPut d k v m, x = (k, v) ∨ x ∈ m := by
  induction m with
  | nil => intro x hx; unfold mapPut mapCons at hx; split at hx <;> simp_all
  | cons e m ih =>
    intro x hx
    unfold mapPut at hx
    split at hx
    · unfold mapCons at hx; split at hx <;> simp_all
    · split at hx
      · unfold mapCons at hx
        split at hx
        · exact .inr (by simp [hx])
        · rcases List.mem_cons.mp hx with rfl | hx
          · exact .inl rfl
          · exact .inr (by simp [hx])
      · rcases List.mem_cons.mp hx with rfl | hx
        · simp
        · rcases ih x hx with h | h <;> simp [h]

theorem mapCons_wf (k : Nat) (v : α) (m : SMap α) (h : mapWf d m) (hk : ∀ e ∈ m, k < e.1) :
    mapWf d (mapCons d k v m) := by
  unfold mapCons
  split
  · exact h
  · rename_i hv
    refine ⟨List.pairwise_cons.mpr ⟨fun x hx => hk x hx, h.1⟩, ?_⟩
    intro x hx
    rcases List.mem_cons.mp hx with rfl | hx
    · exact hv
    · exact h.2 x hx

/-- A write keeps the canonical form. -/
theorem mapPut_wf (k : Nat) (v : α) (m : SMap α) (h : mapWf d m) : mapWf d (mapPut d k v m) := by
  induction m with
  | nil => exact mapCons_wf d k v [] h (by simp)
  | cons e m ih =>
    have hp := List.pairwise_cons.mp h.1
    have hm : mapWf d m := ⟨hp.2, fun x hx => h.2 x (by simp [hx])⟩
    unfold mapPut
    split
    · rename_i hk
      refine mapCons_wf d k v _ h ?_
      intro x hx
      rcases List.mem_cons.mp hx with rfl | hx
      · exact hk
      · exact Nat.lt_trans hk (hp.1 x hx)
    · split
      · rename_i hk
        exact mapCons_wf d k v m hm (fun x hx => hk ▸ hp.1 x hx)
      · rename_i hk1 hk2
        have hi := ih hm
        refine ⟨List.pairwise_cons.mpr ⟨?_, hi.1⟩, ?_⟩
        · intro x hx
          rcases mapPut_mem d k v m x hx with rfl | hx
          · exact Nat.lt_of_le_of_ne (Nat.le_of_not_lt hk1) (Ne.symm hk2)
          · exact hp.1 x hx
        · intro x hx
          rcases List.mem_cons.mp hx with rfl | hx
          · exact h.2 _ (by simp)
          · exact hi.2 x hx

omit [DecidableEq α] in
theorem mapWf_filter (p : Nat × α → Bool) (m : SMap α) (h : mapWf d m) : mapWf d (m.filter p) :=
  ⟨h.1.filter p, fun x hx => h.2 x ((List.mem_filter.mp hx).1)⟩

end

/-! ## Rising sets -/

theorem setAdd_mem (k : Nat) (m : List Nat) : ∀ x, x ∈ setAdd k m ↔ x = k ∨ x ∈ m := by
  induction m with
  | nil => intro x; simp [setAdd]
  | cons e m ih =>
    intro x
    unfold setAdd
    split
    · simp
    · split
      · rename_i h; subst h; simp
      · simp only [List.mem_cons, ih]; exact or_left_comm

/-- Adding to a set keeps it rising. -/
theorem setAdd_wf (k : Nat) (m : List Nat) (h : setWf m) : setWf (setAdd k m) := by
  induction m with
  | nil => simp [setAdd, setWf]
  | cons e m ih =>
    have hp := List.pairwise_cons.mp h
    unfold setAdd
    split
    · rename_i hk
      refine List.pairwise_cons.mpr ⟨?_, h⟩
      intro x hx
      rcases List.mem_cons.mp hx with rfl | hx
      · exact hk
      · exact Nat.lt_trans hk (hp.1 x hx)
    · split
      · exact h
      · rename_i h1 h2
        refine List.pairwise_cons.mpr ⟨?_, ih hp.2⟩
        intro x hx
        rcases (setAdd_mem k m x).mp hx with rfl | hx
        · omega
        · exact hp.1 x hx

theorem setDel_mem (k : Nat) (m : List Nat) (x : Nat) : x ∈ setDel k m ↔ x ∈ m ∧ x ≠ k := by
  simp [setDel]

/-- Taking out of a set keeps it rising. -/
theorem setDel_wf (k : Nat) (m : List Nat) (h : setWf m) : setWf (setDel k m) := h.filter _

theorem setHas_add_self (k : Nat) (m : List Nat) : setHas k (setAdd k m) = true := by
  simp [setHas, setAdd_mem]

theorem setHas_add_other (j k : Nat) (m : List Nat) (h : j ≠ k) : setHas j (setAdd k m) = setHas j m := by
  simp [setHas, setAdd_mem, h]

theorem setHas_del_self (k : Nat) (m : List Nat) : setHas k (setDel k m) = false := by
  simp [setHas, setDel_mem]

theorem setHas_del_other (j k : Nat) (m : List Nat) (h : j ≠ k) : setHas j (setDel k m) = setHas j m := by
  simp [setHas, setDel_mem, h]

/-! ## Bytes -/

@[simp] theorem readNat_zero (m : SMap Byte) (a : Nat) : readNat m a 0 = 0 := rfl
@[simp] theorem writeNat_zero (m : SMap Byte) (a v : Nat) : writeNat m a 0 v = m := rfl

/-- Writing bytes keeps the canonical form. -/
theorem writeNat_wf (n : Nat) : ∀ (m : SMap Byte) (a v : Nat), mapWf 0 m → mapWf 0 (writeNat m a n v) := by
  induction n with
  | zero => intro m a v h; exact h
  | succ n ih => intro m a v h; exact ih _ _ _ (mapPut_wf 0 a _ m h)

/-- A write of `n` bytes leaves every byte outside them alone. -/
theorem mapGet_write_other (n : Nat) : ∀ (m : SMap Byte) (a v b : Nat), b < a ∨ a + n ≤ b →
    mapGet 0 b (writeNat m a n v) = mapGet 0 b m := by
  induction n with
  | zero => intro m a v b _; rfl
  | succ n ih =>
    intro m a v b h
    unfold writeNat
    rw [ih _ _ _ _ (by omega), mapGet_put_other 0 b a _ m (by omega)]

/-- A read of bytes that a write does not meet gives what it gave before. -/
theorem readNat_write_other (k : Nat) : ∀ (m : SMap Byte) (a n v b : Nat), b + k ≤ a ∨ a + n ≤ b →
    readNat (writeNat m a n v) b k = readNat m b k := by
  induction k with
  | zero => intro m a n v b _; rfl
  | succ k ih =>
    intro m a n v b h
    unfold readNat
    rw [mapGet_write_other n m a v b (by omega), ih _ _ _ _ _ (by omega)]

/-- A read of the bytes just written gives the low bytes of the value. -/
theorem readNat_write_self (n : Nat) : ∀ (m : SMap Byte) (a v : Nat), mapWf 0 m →
    readNat (writeNat m a n v) a n = v % 2 ^ (8 * n) := by
  induction n with
  | zero => intro m a v _; simp [Nat.mod_one]
  | succ n ih =>
    intro m a v h
    have h1 := mapPut_wf 0 a (BitVec.ofNat 8 v) m h
    show (mapGet 0 a (writeNat (mapPut 0 a (BitVec.ofNat 8 v) m) (a + 1) n (v / 256))).toNat
      + 256 * readNat (writeNat (mapPut 0 a (BitVec.ofNat 8 v) m) (a + 1) n (v / 256)) (a + 1) n = _
    rw [mapGet_write_other n _ _ _ a (by omega), mapGet_put_self 0 a _ m h, ih _ _ _ h1, BitVec.toNat_ofNat]
    have e : 2 ^ (8 * (n + 1)) = 2 ^ 8 * 2 ^ (8 * n) := by rw [← Nat.pow_add]; congr 1; omega
    rw [e]
    exact Nat.mod_mul.symm

theorem readNat_lt (n : Nat) : ∀ (m : SMap Byte) (a : Nat), readNat m a n < 2 ^ (8 * n) := by
  induction n with
  | zero => intro m a; simp
  | succ n ih =>
    intro m a
    have h1 := ih m (a + 1)
    have h2 := (mapGet 0 a m).isLt
    have e : 2 ^ (8 * (n + 1)) = 256 * 2 ^ (8 * n) := by
      rw [show 8 * (n + 1) = 8 + 8 * n by omega, Nat.pow_add]
    unfold readNat
    omega

@[simp] theorem natBytes_length (n : Nat) : ∀ v, (natBytes n v).length = n := by
  induction n with
  | zero => intro v; rfl
  | succ n ih => intro v; simp [natBytes, ih]

theorem bytesNat_natBytes (n : Nat) : ∀ v, bytesNat (natBytes n v) = v % 2 ^ (8 * n) := by
  induction n with
  | zero => intro v; simp [natBytes, bytesNat, Nat.mod_one]
  | succ n ih =>
    intro v
    have e : 2 ^ (8 * (n + 1)) = 2 ^ 8 * 2 ^ (8 * n) := by rw [← Nat.pow_add]; congr 1; omega
    simp only [natBytes, bytesNat, ih, BitVec.toNat_ofNat]
    rw [e]
    exact Nat.mod_mul.symm

/-! ## Lists -/

theorem updFirst_length {α : Type} (p : α → Bool) (f : α → α) (l : List α) :
    (updFirst p f l).length = l.length := by
  induction l with
  | nil => rfl
  | cons x xs ih => unfold updFirst; split <;> simp [ih]

theorem insertBy_mem {α : Type} (le : α → α → Bool) (x : α) (l : List α) :
    ∀ y, y ∈ insertBy le x l ↔ y = x ∨ y ∈ l := by
  induction l with
  | nil => intro y; simp [insertBy]
  | cons z zs ih =>
    intro y
    unfold insertBy
    split
    · simp only [List.mem_cons, ih]; exact or_left_comm
    · simp

end Sys2Proof.Machine
end

