-- ==== Sys2Proof/Laws/State.lean ====
section
/-! SUPPORT. The laws of State: what each update of one part leaves of every other part, and what it leaves of its own. -/

namespace Sys2Proof.Machine

/-! ## `setCore` -/

section

variable (s : State) (c : Core)

@[simp] theorem setCore_clk : (setCore s c).clk = s.clk := rfl
@[simp] theorem setCore_choices : (setCore s c).choices = s.choices := rfl
@[simp] theorem setCore_fresh : (setCore s c).fresh = s.fresh := rfl
@[simp] theorem setCore_inputs : (setCore s c).inputs = s.inputs := rfl
@[simp] theorem setCore_subject : (setCore s c).subject = s.subject := rfl
@[simp] theorem setCore_offered : (setCore s c).offered = s.offered := rfl
@[simp] theorem setCore_issuing : (setCore s c).issuing = s.issuing := rfl
@[simp] theorem setCore_mgmt : (setCore s c).mgmt = s.mgmt := rfl
@[simp] theorem setCore_aqis : (setCore s c).aqis = s.aqis := rfl
@[simp] theorem setCore_errDrops : (setCore s c).errDrops = s.errDrops := rfl
@[simp] theorem setCore_msixOn : (setCore s c).msixOn = s.msixOn := rfl
@[simp] theorem setCore_msixHush : (setCore s c).msixHush = s.msixHush := rfl
@[simp] theorem setCore_msix : (setCore s c).msix = s.msix := rfl
@[simp] theorem setCore_messages : (setCore s c).messages = s.messages := rfl
@[simp] theorem setCore_records : (setCore s c).records = s.records := rfl
@[simp] theorem setCore_reply : (setCore s c).reply = s.reply := rfl
@[simp] theorem setCore_hostRead : (setCore s c).hostRead = s.hostRead := rfl
@[simp] theorem setCore_hdmBase : (setCore s c).hdmBase = s.hdmBase := rfl
@[simp] theorem setCore_lsImages : (setCore s c).lsImages = s.lsImages := rfl
@[simp] theorem setCore_lastJid : (setCore s c).lastJid = s.lastJid := rfl
@[simp] theorem setCore_jobs : (setCore s c).jobs = s.jobs := rfl
@[simp] theorem setCore_images : (setCore s c).images = s.images := rfl
@[simp] theorem setCore_swaps : (setCore s c).swaps = s.swaps := rfl
@[simp] theorem setCore_fronds : (setCore s c).fronds = s.fronds := rfl
@[simp] theorem setCore_engines : (setCore s c).engines = s.engines := rfl
@[simp] theorem setCore_fusedOff : (setCore s c).fusedOff = s.fusedOff := rfl
@[simp] theorem setCore_ls : (setCore s c).ls = s.ls := rfl
@[simp] theorem setCore_empties : (setCore s c).empties = s.empties := rfl
@[simp] theorem setCore_lsPoison : (setCore s c).lsPoison = s.lsPoison := rfl
@[simp] theorem setCore_fmtMap : (setCore s c).fmtMap = s.fmtMap := rfl
@[simp] theorem setCore_hbm : (setCore s c).hbm = s.hbm := rfl
@[simp] theorem setCore_host : (setCore s c).host = s.host := rfl
@[simp] theorem setCore_poison : (setCore s c).poison = s.poison := rfl
@[simp] theorem setCore_counters : (setCore s c).counters = s.counters := rfl
@[simp] theorem setCore_reported : (setCore s c).reported = s.reported := rfl
@[simp] theorem setCore_farLeaf : (setCore s c).farLeaf = s.farLeaf := rfl
@[simp] theorem setCore_cntLeaf : (setCore s c).cntLeaf = s.cntLeaf := rfl
@[simp] theorem setCore_thresholds : (setCore s c).thresholds = s.thresholds := rfl
@[simp] theorem setCore_portsDown : (setCore s c).portsDown = s.portsDown := rfl
@[simp] theorem setCore_refresh : (setCore s c).refresh = s.refresh := rfl
@[simp] theorem setCore_budgets : (setCore s c).budgets = s.budgets := rfl
@[simp] theorem setCore_tstore : (setCore s c).tstore = s.tstore := rfl
@[simp] theorem setCore_walks : (setCore s c).walks = s.walks := rfl
@[simp] theorem setCore_ilines : (setCore s c).ilines = s.ilines := rfl
@[simp] theorem setCore_ifills : (setCore s c).ifills = s.ifills := rfl
@[simp] theorem setCore_flights : (setCore s c).flights = s.flights := rfl
@[simp] theorem setCore_copies : (setCore s c).copies = s.copies := rfl
@[simp] theorem setCore_copyqs : (setCore s c).copyqs = s.copyqs := rfl
@[simp] theorem setCore_phases : (setCore s c).phases = s.phases := rfl
@[simp] theorem setCore_catalogue : (setCore s c).catalogue = s.catalogue := rfl
@[simp] theorem setCore_binds : (setCore s c).binds = s.binds := rfl
@[simp] theorem setCore_directory : (setCore s c).directory = s.directory := rfl
@[simp] theorem setCore_arrivals : (setCore s c).arrivals = s.arrivals := rfl
@[simp] theorem setCore_orphans : (setCore s c).orphans = s.orphans := rfl
@[simp] theorem setCore_sems : (setCore s c).sems = s.sems := rfl
@[simp] theorem setCore_clocks : (setCore s c).clocks = s.clocks := rfl
@[simp] theorem setCore_pacing : (setCore s c).pacing = s.pacing := rfl
@[simp] theorem setCore_replays : (setCore s c).replays = s.replays := rfl
@[simp] theorem setCore_routines : (setCore s c).routines = s.routines := rfl

end

/-! ## `updCore` -/

section

variable (s : State) (p : Nat) (g : Core → Core)

@[simp] theorem updCore_clk : (updCore s p g).clk = s.clk := rfl
@[simp] theorem updCore_choices : (updCore s p g).choices = s.choices := rfl
@[simp] theorem updCore_fresh : (updCore s p g).fresh = s.fresh := rfl
@[simp] theorem updCore_inputs : (updCore s p g).inputs = s.inputs := rfl
@[simp] theorem updCore_subject : (updCore s p g).subject = s.subject := rfl
@[simp] theorem updCore_offered : (updCore s p g).offered = s.offered := rfl
@[simp] theorem updCore_issuing : (updCore s p g).issuing = s.issuing := rfl
@[simp] theorem updCore_mgmt : (updCore s p g).mgmt = s.mgmt := rfl
@[simp] theorem updCore_aqis : (updCore s p g).aqis = s.aqis := rfl
@[simp] theorem updCore_errDrops : (updCore s p g).errDrops = s.errDrops := rfl
@[simp] theorem updCore_msixOn : (updCore s p g).msixOn = s.msixOn := rfl
@[simp] theorem updCore_msixHush : (updCore s p g).msixHush = s.msixHush := rfl
@[simp] theorem updCore_msix : (updCore s p g).msix = s.msix := rfl
@[simp] theorem updCore_messages : (updCore s p g).messages = s.messages := rfl
@[simp] theorem updCore_records : (updCore s p g).records = s.records := rfl
@[simp] theorem updCore_reply : (updCore s p g).reply = s.reply := rfl
@[simp] theorem updCore_hostRead : (updCore s p g).hostRead = s.hostRead := rfl
@[simp] theorem updCore_hdmBase : (updCore s p g).hdmBase = s.hdmBase := rfl
@[simp] theorem updCore_lsImages : (updCore s p g).lsImages = s.lsImages := rfl
@[simp] theorem updCore_lastJid : (updCore s p g).lastJid = s.lastJid := rfl
@[simp] theorem updCore_jobs : (updCore s p g).jobs = s.jobs := rfl
@[simp] theorem updCore_images : (updCore s p g).images = s.images := rfl
@[simp] theorem updCore_swaps : (updCore s p g).swaps = s.swaps := rfl
@[simp] theorem updCore_fronds : (updCore s p g).fronds = s.fronds := rfl
@[simp] theorem updCore_engines : (updCore s p g).engines = s.engines := rfl
@[simp] theorem updCore_fusedOff : (updCore s p g).fusedOff = s.fusedOff := rfl
@[simp] theorem updCore_ls : (updCore s p g).ls = s.ls := rfl
@[simp] theorem updCore_empties : (updCore s p g).empties = s.empties := rfl
@[simp] theorem updCore_lsPoison : (updCore s p g).lsPoison = s.lsPoison := rfl
@[simp] theorem updCore_fmtMap : (updCore s p g).fmtMap = s.fmtMap := rfl
@[simp] theorem updCore_hbm : (updCore s p g).hbm = s.hbm := rfl
@[simp] theorem updCore_host : (updCore s p g).host = s.host := rfl
@[simp] theorem updCore_poison : (updCore s p g).poison = s.poison := rfl
@[simp] theorem updCore_counters : (updCore s p g).counters = s.counters := rfl
@[simp] theorem updCore_reported : (updCore s p g).reported = s.reported := rfl
@[simp] theorem updCore_farLeaf : (updCore s p g).farLeaf = s.farLeaf := rfl
@[simp] theorem updCore_cntLeaf : (updCore s p g).cntLeaf = s.cntLeaf := rfl
@[simp] theorem updCore_thresholds : (updCore s p g).thresholds = s.thresholds := rfl
@[simp] theorem updCore_portsDown : (updCore s p g).portsDown = s.portsDown := rfl
@[simp] theorem updCore_refresh : (updCore s p g).refresh = s.refresh := rfl
@[simp] theorem updCore_budgets : (updCore s p g).budgets = s.budgets := rfl
@[simp] theorem updCore_tstore : (updCore s p g).tstore = s.tstore := rfl
@[simp] theorem updCore_walks : (updCore s p g).walks = s.walks := rfl
@[simp] theorem updCore_ilines : (updCore s p g).ilines = s.ilines := rfl
@[simp] theorem updCore_ifills : (updCore s p g).ifills = s.ifills := rfl
@[simp] theorem updCore_flights : (updCore s p g).flights = s.flights := rfl
@[simp] theorem updCore_copies : (updCore s p g).copies = s.copies := rfl
@[simp] theorem updCore_copyqs : (updCore s p g).copyqs = s.copyqs := rfl
@[simp] theorem updCore_phases : (updCore s p g).phases = s.phases := rfl
@[simp] theorem updCore_catalogue : (updCore s p g).catalogue = s.catalogue := rfl
@[simp] theorem updCore_binds : (updCore s p g).binds = s.binds := rfl
@[simp] theorem updCore_directory : (updCore s p g).directory = s.directory := rfl
@[simp] theorem updCore_arrivals : (updCore s p g).arrivals = s.arrivals := rfl
@[simp] theorem updCore_orphans : (updCore s p g).orphans = s.orphans := rfl
@[simp] theorem updCore_sems : (updCore s p g).sems = s.sems := rfl
@[simp] theorem updCore_clocks : (updCore s p g).clocks = s.clocks := rfl
@[simp] theorem updCore_pacing : (updCore s p g).pacing = s.pacing := rfl
@[simp] theorem updCore_replays : (updCore s p g).replays = s.replays := rfl
@[simp] theorem updCore_routines : (updCore s p g).routines = s.routines := rfl

end

/-! ## `updEngine` -/

section

variable (s : State) (t : Nat) (g : Engine → Engine)

@[simp] theorem updEngine_clk : (updEngine s t g).clk = s.clk := rfl
@[simp] theorem updEngine_choices : (updEngine s t g).choices = s.choices := rfl
@[simp] theorem updEngine_fresh : (updEngine s t g).fresh = s.fresh := rfl
@[simp] theorem updEngine_inputs : (updEngine s t g).inputs = s.inputs := rfl
@[simp] theorem updEngine_subject : (updEngine s t g).subject = s.subject := rfl
@[simp] theorem updEngine_offered : (updEngine s t g).offered = s.offered := rfl
@[simp] theorem updEngine_issuing : (updEngine s t g).issuing = s.issuing := rfl
@[simp] theorem updEngine_mgmt : (updEngine s t g).mgmt = s.mgmt := rfl
@[simp] theorem updEngine_aqis : (updEngine s t g).aqis = s.aqis := rfl
@[simp] theorem updEngine_errDrops : (updEngine s t g).errDrops = s.errDrops := rfl
@[simp] theorem updEngine_msixOn : (updEngine s t g).msixOn = s.msixOn := rfl
@[simp] theorem updEngine_msixHush : (updEngine s t g).msixHush = s.msixHush := rfl
@[simp] theorem updEngine_msix : (updEngine s t g).msix = s.msix := rfl
@[simp] theorem updEngine_messages : (updEngine s t g).messages = s.messages := rfl
@[simp] theorem updEngine_records : (updEngine s t g).records = s.records := rfl
@[simp] theorem updEngine_reply : (updEngine s t g).reply = s.reply := rfl
@[simp] theorem updEngine_hostRead : (updEngine s t g).hostRead = s.hostRead := rfl
@[simp] theorem updEngine_hdmBase : (updEngine s t g).hdmBase = s.hdmBase := rfl
@[simp] theorem updEngine_lsImages : (updEngine s t g).lsImages = s.lsImages := rfl
@[simp] theorem updEngine_lastJid : (updEngine s t g).lastJid = s.lastJid := rfl
@[simp] theorem updEngine_jobs : (updEngine s t g).jobs = s.jobs := rfl
@[simp] theorem updEngine_images : (updEngine s t g).images = s.images := rfl
@[simp] theorem updEngine_swaps : (updEngine s t g).swaps = s.swaps := rfl
@[simp] theorem updEngine_fronds : (updEngine s t g).fronds = s.fronds := rfl
@[simp] theorem updEngine_cores : (updEngine s t g).cores = s.cores := rfl
@[simp] theorem updEngine_fusedOff : (updEngine s t g).fusedOff = s.fusedOff := rfl
@[simp] theorem updEngine_ls : (updEngine s t g).ls = s.ls := rfl
@[simp] theorem updEngine_empties : (updEngine s t g).empties = s.empties := rfl
@[simp] theorem updEngine_lsPoison : (updEngine s t g).lsPoison = s.lsPoison := rfl
@[simp] theorem updEngine_fmtMap : (updEngine s t g).fmtMap = s.fmtMap := rfl
@[simp] theorem updEngine_hbm : (updEngine s t g).hbm = s.hbm := rfl
@[simp] theorem updEngine_host : (updEngine s t g).host = s.host := rfl
@[simp] theorem updEngine_poison : (updEngine s t g).poison = s.poison := rfl
@[simp] theorem updEngine_counters : (updEngine s t g).counters = s.counters := rfl
@[simp] theorem updEngine_reported : (updEngine s t g).reported = s.reported := rfl
@[simp] theorem updEngine_farLeaf : (updEngine s t g).farLeaf = s.farLeaf := rfl
@[simp] theorem updEngine_cntLeaf : (updEngine s t g).cntLeaf = s.cntLeaf := rfl
@[simp] theorem updEngine_thresholds : (updEngine s t g).thresholds = s.thresholds := rfl
@[simp] theorem updEngine_portsDown : (updEngine s t g).portsDown = s.portsDown := rfl
@[simp] theorem updEngine_refresh : (updEngine s t g).refresh = s.refresh := rfl
@[simp] theorem updEngine_budgets : (updEngine s t g).budgets = s.budgets := rfl
@[simp] theorem updEngine_tstore : (updEngine s t g).tstore = s.tstore := rfl
@[simp] theorem updEngine_walks : (updEngine s t g).walks = s.walks := rfl
@[simp] theorem updEngine_ilines : (updEngine s t g).ilines = s.ilines := rfl
@[simp] theorem updEngine_ifills : (updEngine s t g).ifills = s.ifills := rfl
@[simp] theorem updEngine_flights : (updEngine s t g).flights = s.flights := rfl
@[simp] theorem updEngine_copies : (updEngine s t g).copies = s.copies := rfl
@[simp] theorem updEngine_copyqs : (updEngine s t g).copyqs = s.copyqs := rfl
@[simp] theorem updEngine_phases : (updEngine s t g).phases = s.phases := rfl
@[simp] theorem updEngine_catalogue : (updEngine s t g).catalogue = s.catalogue := rfl
@[simp] theorem updEngine_binds : (updEngine s t g).binds = s.binds := rfl
@[simp] theorem updEngine_directory : (updEngine s t g).directory = s.directory := rfl
@[simp] theorem updEngine_arrivals : (updEngine s t g).arrivals = s.arrivals := rfl
@[simp] theorem updEngine_orphans : (updEngine s t g).orphans = s.orphans := rfl
@[simp] theorem updEngine_sems : (updEngine s t g).sems = s.sems := rfl
@[simp] theorem updEngine_clocks : (updEngine s t g).clocks = s.clocks := rfl
@[simp] theorem updEngine_pacing : (updEngine s t g).pacing = s.pacing := rfl
@[simp] theorem updEngine_replays : (updEngine s t g).replays = s.replays := rfl
@[simp] theorem updEngine_routines : (updEngine s t g).routines = s.routines := rfl

end

/-! ## `updJob` -/

section

variable (s : State) (j : Nat) (g : Job → Job)

@[simp] theorem updJob_clk : (updJob s j g).clk = s.clk := rfl
@[simp] theorem updJob_choices : (updJob s j g).choices = s.choices := rfl
@[simp] theorem updJob_fresh : (updJob s j g).fresh = s.fresh := rfl
@[simp] theorem updJob_inputs : (updJob s j g).inputs = s.inputs := rfl
@[simp] theorem updJob_subject : (updJob s j g).subject = s.subject := rfl
@[simp] theorem updJob_offered : (updJob s j g).offered = s.offered := rfl
@[simp] theorem updJob_issuing : (updJob s j g).issuing = s.issuing := rfl
@[simp] theorem updJob_mgmt : (updJob s j g).mgmt = s.mgmt := rfl
@[simp] theorem updJob_aqis : (updJob s j g).aqis = s.aqis := rfl
@[simp] theorem updJob_errDrops : (updJob s j g).errDrops = s.errDrops := rfl
@[simp] theorem updJob_msixOn : (updJob s j g).msixOn = s.msixOn := rfl
@[simp] theorem updJob_msixHush : (updJob s j g).msixHush = s.msixHush := rfl
@[simp] theorem updJob_msix : (updJob s j g).msix = s.msix := rfl
@[simp] theorem updJob_messages : (updJob s j g).messages = s.messages := rfl
@[simp] theorem updJob_records : (updJob s j g).records = s.records := rfl
@[simp] theorem updJob_reply : (updJob s j g).reply = s.reply := rfl
@[simp] theorem updJob_hostRead : (updJob s j g).hostRead = s.hostRead := rfl
@[simp] theorem updJob_hdmBase : (updJob s j g).hdmBase = s.hdmBase := rfl
@[simp] theorem updJob_lsImages : (updJob s j g).lsImages = s.lsImages := rfl
@[simp] theorem updJob_lastJid : (updJob s j g).lastJid = s.lastJid := rfl
@[simp] theorem updJob_images : (updJob s j g).images = s.images := rfl
@[simp] theorem updJob_swaps : (updJob s j g).swaps = s.swaps := rfl
@[simp] theorem updJob_fronds : (updJob s j g).fronds = s.fronds := rfl
@[simp] theorem updJob_cores : (updJob s j g).cores = s.cores := rfl
@[simp] theorem updJob_engines : (updJob s j g).engines = s.engines := rfl
@[simp] theorem updJob_fusedOff : (updJob s j g).fusedOff = s.fusedOff := rfl
@[simp] theorem updJob_ls : (updJob s j g).ls = s.ls := rfl
@[simp] theorem updJob_empties : (updJob s j g).empties = s.empties := rfl
@[simp] theorem updJob_lsPoison : (updJob s j g).lsPoison = s.lsPoison := rfl
@[simp] theorem updJob_fmtMap : (updJob s j g).fmtMap = s.fmtMap := rfl
@[simp] theorem updJob_hbm : (updJob s j g).hbm = s.hbm := rfl
@[simp] theorem updJob_host : (updJob s j g).host = s.host := rfl
@[simp] theorem updJob_poison : (updJob s j g).poison = s.poison := rfl
@[simp] theorem updJob_counters : (updJob s j g).counters = s.counters := rfl
@[simp] theorem updJob_reported : (updJob s j g).reported = s.reported := rfl
@[simp] theorem updJob_farLeaf : (updJob s j g).farLeaf = s.farLeaf := rfl
@[simp] theorem updJob_cntLeaf : (updJob s j g).cntLeaf = s.cntLeaf := rfl
@[simp] theorem updJob_thresholds : (updJob s j g).thresholds = s.thresholds := rfl
@[simp] theorem updJob_portsDown : (updJob s j g).portsDown = s.portsDown := rfl
@[simp] theorem updJob_refresh : (updJob s j g).refresh = s.refresh := rfl
@[simp] theorem updJob_budgets : (updJob s j g).budgets = s.budgets := rfl
@[simp] theorem updJob_tstore : (updJob s j g).tstore = s.tstore := rfl
@[simp] theorem updJob_walks : (updJob s j g).walks = s.walks := rfl
@[simp] theorem updJob_ilines : (updJob s j g).ilines = s.ilines := rfl
@[simp] theorem updJob_ifills : (updJob s j g).ifills = s.ifills := rfl
@[simp] theorem updJob_flights : (updJob s j g).flights = s.flights := rfl
@[simp] theorem updJob_copies : (updJob s j g).copies = s.copies := rfl
@[simp] theorem updJob_copyqs : (updJob s j g).copyqs = s.copyqs := rfl
@[simp] theorem updJob_phases : (updJob s j g).phases = s.phases := rfl
@[simp] theorem updJob_catalogue : (updJob s j g).catalogue = s.catalogue := rfl
@[simp] theorem updJob_binds : (updJob s j g).binds = s.binds := rfl
@[simp] theorem updJob_directory : (updJob s j g).directory = s.directory := rfl
@[simp] theorem updJob_arrivals : (updJob s j g).arrivals = s.arrivals := rfl
@[simp] theorem updJob_orphans : (updJob s j g).orphans = s.orphans := rfl
@[simp] theorem updJob_sems : (updJob s j g).sems = s.sems := rfl
@[simp] theorem updJob_clocks : (updJob s j g).clocks = s.clocks := rfl
@[simp] theorem updJob_pacing : (updJob s j g).pacing = s.pacing := rfl
@[simp] theorem updJob_replays : (updJob s j g).replays = s.replays := rfl
@[simp] theorem updJob_routines : (updJob s j g).routines = s.routines := rfl

end

/-! ## `updFrond` -/

section

variable (s : State) (u : Nat) (g : Frond → Frond)

@[simp] theorem updFrond_clk : (updFrond s u g).clk = s.clk := rfl
@[simp] theorem updFrond_choices : (updFrond s u g).choices = s.choices := rfl
@[simp] theorem updFrond_fresh : (updFrond s u g).fresh = s.fresh := rfl
@[simp] theorem updFrond_inputs : (updFrond s u g).inputs = s.inputs := rfl
@[simp] theorem updFrond_subject : (updFrond s u g).subject = s.subject := rfl
@[simp] theorem updFrond_offered : (updFrond s u g).offered = s.offered := rfl
@[simp] theorem updFrond_mgmt : (updFrond s u g).mgmt = s.mgmt := rfl
@[simp] theorem updFrond_aqis : (updFrond s u g).aqis = s.aqis := rfl
@[simp] theorem updFrond_errDrops : (updFrond s u g).errDrops = s.errDrops := rfl
@[simp] theorem updFrond_msixOn : (updFrond s u g).msixOn = s.msixOn := rfl
@[simp] theorem updFrond_msixHush : (updFrond s u g).msixHush = s.msixHush := rfl
@[simp] theorem updFrond_msix : (updFrond s u g).msix = s.msix := rfl
@[simp] theorem updFrond_messages : (updFrond s u g).messages = s.messages := rfl
@[simp] theorem updFrond_records : (updFrond s u g).records = s.records := rfl
@[simp] theorem updFrond_reply : (updFrond s u g).reply = s.reply := rfl
@[simp] theorem updFrond_hostRead : (updFrond s u g).hostRead = s.hostRead := rfl
@[simp] theorem updFrond_hdmBase : (updFrond s u g).hdmBase = s.hdmBase := rfl
@[simp] theorem updFrond_lsImages : (updFrond s u g).lsImages = s.lsImages := rfl
@[simp] theorem updFrond_lastJid : (updFrond s u g).lastJid = s.lastJid := rfl
@[simp] theorem updFrond_jobs : (updFrond s u g).jobs = s.jobs := rfl
@[simp] theorem updFrond_images : (updFrond s u g).images = s.images := rfl
@[simp] theorem updFrond_swaps : (updFrond s u g).swaps = s.swaps := rfl
@[simp] theorem updFrond_cores : (updFrond s u g).cores = s.cores := rfl
@[simp] theorem updFrond_engines : (updFrond s u g).engines = s.engines := rfl
@[simp] theorem updFrond_fusedOff : (updFrond s u g).fusedOff = s.fusedOff := rfl
@[simp] theorem updFrond_ls : (updFrond s u g).ls = s.ls := rfl
@[simp] theorem updFrond_empties : (updFrond s u g).empties = s.empties := rfl
@[simp] theorem updFrond_lsPoison : (updFrond s u g).lsPoison = s.lsPoison := rfl
@[simp] theorem updFrond_fmtMap : (updFrond s u g).fmtMap = s.fmtMap := rfl
@[simp] theorem updFrond_hbm : (updFrond s u g).hbm = s.hbm := rfl
@[simp] theorem updFrond_host : (updFrond s u g).host = s.host := rfl
@[simp] theorem updFrond_poison : (updFrond s u g).poison = s.poison := rfl
@[simp] theorem updFrond_counters : (updFrond s u g).counters = s.counters := rfl
@[simp] theorem updFrond_reported : (updFrond s u g).reported = s.reported := rfl
@[simp] theorem updFrond_farLeaf : (updFrond s u g).farLeaf = s.farLeaf := rfl
@[simp] theorem updFrond_cntLeaf : (updFrond s u g).cntLeaf = s.cntLeaf := rfl
@[simp] theorem updFrond_thresholds : (updFrond s u g).thresholds = s.thresholds := rfl
@[simp] theorem updFrond_portsDown : (updFrond s u g).portsDown = s.portsDown := rfl
@[simp] theorem updFrond_refresh : (updFrond s u g).refresh = s.refresh := rfl
@[simp] theorem updFrond_budgets : (updFrond s u g).budgets = s.budgets := rfl
@[simp] theorem updFrond_tstore : (updFrond s u g).tstore = s.tstore := rfl
@[simp] theorem updFrond_walks : (updFrond s u g).walks = s.walks := rfl
@[simp] theorem updFrond_ilines : (updFrond s u g).ilines = s.ilines := rfl
@[simp] theorem updFrond_ifills : (updFrond s u g).ifills = s.ifills := rfl
@[simp] theorem updFrond_flights : (updFrond s u g).flights = s.flights := rfl
@[simp] theorem updFrond_copies : (updFrond s u g).copies = s.copies := rfl
@[simp] theorem updFrond_copyqs : (updFrond s u g).copyqs = s.copyqs := rfl
@[simp] theorem updFrond_phases : (updFrond s u g).phases = s.phases := rfl
@[simp] theorem updFrond_catalogue : (updFrond s u g).catalogue = s.catalogue := rfl
@[simp] theorem updFrond_binds : (updFrond s u g).binds = s.binds := rfl
@[simp] theorem updFrond_directory : (updFrond s u g).directory = s.directory := rfl
@[simp] theorem updFrond_arrivals : (updFrond s u g).arrivals = s.arrivals := rfl
@[simp] theorem updFrond_orphans : (updFrond s u g).orphans = s.orphans := rfl
@[simp] theorem updFrond_sems : (updFrond s u g).sems = s.sems := rfl
@[simp] theorem updFrond_clocks : (updFrond s u g).clocks = s.clocks := rfl
@[simp] theorem updFrond_pacing : (updFrond s u g).pacing = s.pacing := rfl
@[simp] theorem updFrond_replays : (updFrond s u g).replays = s.replays := rfl
@[simp] theorem updFrond_routines : (updFrond s u g).routines = s.routines := rfl

end

/-! ## `delFrond` -/

section

variable (s : State) (u : Nat)

@[simp] theorem delFrond_clk : (delFrond s u).clk = s.clk := rfl
@[simp] theorem delFrond_choices : (delFrond s u).choices = s.choices := rfl
@[simp] theorem delFrond_fresh : (delFrond s u).fresh = s.fresh := rfl
@[simp] theorem delFrond_inputs : (delFrond s u).inputs = s.inputs := rfl
@[simp] theorem delFrond_subject : (delFrond s u).subject = s.subject := rfl
@[simp] theorem delFrond_offered : (delFrond s u).offered = s.offered := rfl
@[simp] theorem delFrond_mgmt : (delFrond s u).mgmt = s.mgmt := rfl
@[simp] theorem delFrond_aqis : (delFrond s u).aqis = s.aqis := rfl
@[simp] theorem delFrond_errDrops : (delFrond s u).errDrops = s.errDrops := rfl
@[simp] theorem delFrond_msixOn : (delFrond s u).msixOn = s.msixOn := rfl
@[simp] theorem delFrond_msixHush : (delFrond s u).msixHush = s.msixHush := rfl
@[simp] theorem delFrond_msix : (delFrond s u).msix = s.msix := rfl
@[simp] theorem delFrond_messages : (delFrond s u).messages = s.messages := rfl
@[simp] theorem delFrond_records : (delFrond s u).records = s.records := rfl
@[simp] theorem delFrond_reply : (delFrond s u).reply = s.reply := rfl
@[simp] theorem delFrond_hostRead : (delFrond s u).hostRead = s.hostRead := rfl
@[simp] theorem delFrond_hdmBase : (delFrond s u).hdmBase = s.hdmBase := rfl
@[simp] theorem delFrond_lsImages : (delFrond s u).lsImages = s.lsImages := rfl
@[simp] theorem delFrond_lastJid : (delFrond s u).lastJid = s.lastJid := rfl
@[simp] theorem delFrond_jobs : (delFrond s u).jobs = s.jobs := rfl
@[simp] theorem delFrond_images : (delFrond s u).images = s.images := rfl
@[simp] theorem delFrond_swaps : (delFrond s u).swaps = s.swaps := rfl
@[simp] theorem delFrond_cores : (delFrond s u).cores = s.cores := rfl
@[simp] theorem delFrond_engines : (delFrond s u).engines = s.engines := rfl
@[simp] theorem delFrond_fusedOff : (delFrond s u).fusedOff = s.fusedOff := rfl
@[simp] theorem delFrond_ls : (delFrond s u).ls = s.ls := rfl
@[simp] theorem delFrond_empties : (delFrond s u).empties = s.empties := rfl
@[simp] theorem delFrond_lsPoison : (delFrond s u).lsPoison = s.lsPoison := rfl
@[simp] theorem delFrond_fmtMap : (delFrond s u).fmtMap = s.fmtMap := rfl
@[simp] theorem delFrond_hbm : (delFrond s u).hbm = s.hbm := rfl
@[simp] theorem delFrond_host : (delFrond s u).host = s.host := rfl
@[simp] theorem delFrond_poison : (delFrond s u).poison = s.poison := rfl
@[simp] theorem delFrond_counters : (delFrond s u).counters = s.counters := rfl
@[simp] theorem delFrond_reported : (delFrond s u).reported = s.reported := rfl
@[simp] theorem delFrond_farLeaf : (delFrond s u).farLeaf = s.farLeaf := rfl
@[simp] theorem delFrond_cntLeaf : (delFrond s u).cntLeaf = s.cntLeaf := rfl
@[simp] theorem delFrond_thresholds : (delFrond s u).thresholds = s.thresholds := rfl
@[simp] theorem delFrond_portsDown : (delFrond s u).portsDown = s.portsDown := rfl
@[simp] theorem delFrond_refresh : (delFrond s u).refresh = s.refresh := rfl
@[simp] theorem delFrond_budgets : (delFrond s u).budgets = s.budgets := rfl
@[simp] theorem delFrond_tstore : (delFrond s u).tstore = s.tstore := rfl
@[simp] theorem delFrond_walks : (delFrond s u).walks = s.walks := rfl
@[simp] theorem delFrond_ilines : (delFrond s u).ilines = s.ilines := rfl
@[simp] theorem delFrond_ifills : (delFrond s u).ifills = s.ifills := rfl
@[simp] theorem delFrond_flights : (delFrond s u).flights = s.flights := rfl
@[simp] theorem delFrond_copies : (delFrond s u).copies = s.copies := rfl
@[simp] theorem delFrond_copyqs : (delFrond s u).copyqs = s.copyqs := rfl
@[simp] theorem delFrond_phases : (delFrond s u).phases = s.phases := rfl
@[simp] theorem delFrond_catalogue : (delFrond s u).catalogue = s.catalogue := rfl
@[simp] theorem delFrond_binds : (delFrond s u).binds = s.binds := rfl
@[simp] theorem delFrond_directory : (delFrond s u).directory = s.directory := rfl
@[simp] theorem delFrond_arrivals : (delFrond s u).arrivals = s.arrivals := rfl
@[simp] theorem delFrond_orphans : (delFrond s u).orphans = s.orphans := rfl
@[simp] theorem delFrond_sems : (delFrond s u).sems = s.sems := rfl
@[simp] theorem delFrond_clocks : (delFrond s u).clocks = s.clocks := rfl
@[simp] theorem delFrond_pacing : (delFrond s u).pacing = s.pacing := rfl
@[simp] theorem delFrond_replays : (delFrond s u).replays = s.replays := rfl
@[simp] theorem delFrond_routines : (delFrond s u).routines = s.routines := rfl

end

/-! ## `updFlight` -/

section

variable (s : State) (i : Nat) (g : Flight → Flight)

@[simp] theorem updFlight_clk : (updFlight s i g).clk = s.clk := rfl
@[simp] theorem updFlight_choices : (updFlight s i g).choices = s.choices := rfl
@[simp] theorem updFlight_fresh : (updFlight s i g).fresh = s.fresh := rfl
@[simp] theorem updFlight_inputs : (updFlight s i g).inputs = s.inputs := rfl
@[simp] theorem updFlight_subject : (updFlight s i g).subject = s.subject := rfl
@[simp] theorem updFlight_offered : (updFlight s i g).offered = s.offered := rfl
@[simp] theorem updFlight_issuing : (updFlight s i g).issuing = s.issuing := rfl
@[simp] theorem updFlight_mgmt : (updFlight s i g).mgmt = s.mgmt := rfl
@[simp] theorem updFlight_aqis : (updFlight s i g).aqis = s.aqis := rfl
@[simp] theorem updFlight_errDrops : (updFlight s i g).errDrops = s.errDrops := rfl
@[simp] theorem updFlight_msixOn : (updFlight s i g).msixOn = s.msixOn := rfl
@[simp] theorem updFlight_msixHush : (updFlight s i g).msixHush = s.msixHush := rfl
@[simp] theorem updFlight_msix : (updFlight s i g).msix = s.msix := rfl
@[simp] theorem updFlight_messages : (updFlight s i g).messages = s.messages := rfl
@[simp] theorem updFlight_records : (updFlight s i g).records = s.records := rfl
@[simp] theorem updFlight_reply : (updFlight s i g).reply = s.reply := rfl
@[simp] theorem updFlight_hostRead : (updFlight s i g).hostRead = s.hostRead := rfl
@[simp] theorem updFlight_hdmBase : (updFlight s i g).hdmBase = s.hdmBase := rfl
@[simp] theorem updFlight_lsImages : (updFlight s i g).lsImages = s.lsImages := rfl
@[simp] theorem updFlight_lastJid : (updFlight s i g).lastJid = s.lastJid := rfl
@[simp] theorem updFlight_jobs : (updFlight s i g).jobs = s.jobs := rfl
@[simp] theorem updFlight_images : (updFlight s i g).images = s.images := rfl
@[simp] theorem updFlight_swaps : (updFlight s i g).swaps = s.swaps := rfl
@[simp] theorem updFlight_fronds : (updFlight s i g).fronds = s.fronds := rfl
@[simp] theorem updFlight_cores : (updFlight s i g).cores = s.cores := rfl
@[simp] theorem updFlight_engines : (updFlight s i g).engines = s.engines := rfl
@[simp] theorem updFlight_fusedOff : (updFlight s i g).fusedOff = s.fusedOff := rfl
@[simp] theorem updFlight_ls : (updFlight s i g).ls = s.ls := rfl
@[simp] theorem updFlight_empties : (updFlight s i g).empties = s.empties := rfl
@[simp] theorem updFlight_lsPoison : (updFlight s i g).lsPoison = s.lsPoison := rfl
@[simp] theorem updFlight_fmtMap : (updFlight s i g).fmtMap = s.fmtMap := rfl
@[simp] theorem updFlight_hbm : (updFlight s i g).hbm = s.hbm := rfl
@[simp] theorem updFlight_host : (updFlight s i g).host = s.host := rfl
@[simp] theorem updFlight_poison : (updFlight s i g).poison = s.poison := rfl
@[simp] theorem updFlight_counters : (updFlight s i g).counters = s.counters := rfl
@[simp] theorem updFlight_reported : (updFlight s i g).reported = s.reported := rfl
@[simp] theorem updFlight_farLeaf : (updFlight s i g).farLeaf = s.farLeaf := rfl
@[simp] theorem updFlight_cntLeaf : (updFlight s i g).cntLeaf = s.cntLeaf := rfl
@[simp] theorem updFlight_thresholds : (updFlight s i g).thresholds = s.thresholds := rfl
@[simp] theorem updFlight_portsDown : (updFlight s i g).portsDown = s.portsDown := rfl
@[simp] theorem updFlight_refresh : (updFlight s i g).refresh = s.refresh := rfl
@[simp] theorem updFlight_budgets : (updFlight s i g).budgets = s.budgets := rfl
@[simp] theorem updFlight_tstore : (updFlight s i g).tstore = s.tstore := rfl
@[simp] theorem updFlight_walks : (updFlight s i g).walks = s.walks := rfl
@[simp] theorem updFlight_ilines : (updFlight s i g).ilines = s.ilines := rfl
@[simp] theorem updFlight_ifills : (updFlight s i g).ifills = s.ifills := rfl
@[simp] theorem updFlight_copies : (updFlight s i g).copies = s.copies := rfl
@[simp] theorem updFlight_copyqs : (updFlight s i g).copyqs = s.copyqs := rfl
@[simp] theorem updFlight_phases : (updFlight s i g).phases = s.phases := rfl
@[simp] theorem updFlight_catalogue : (updFlight s i g).catalogue = s.catalogue := rfl
@[simp] theorem updFlight_binds : (updFlight s i g).binds = s.binds := rfl
@[simp] theorem updFlight_directory : (updFlight s i g).directory = s.directory := rfl
@[simp] theorem updFlight_arrivals : (updFlight s i g).arrivals = s.arrivals := rfl
@[simp] theorem updFlight_orphans : (updFlight s i g).orphans = s.orphans := rfl
@[simp] theorem updFlight_sems : (updFlight s i g).sems = s.sems := rfl
@[simp] theorem updFlight_clocks : (updFlight s i g).clocks = s.clocks := rfl
@[simp] theorem updFlight_pacing : (updFlight s i g).pacing = s.pacing := rfl
@[simp] theorem updFlight_replays : (updFlight s i g).replays = s.replays := rfl
@[simp] theorem updFlight_routines : (updFlight s i g).routines = s.routines := rfl

end

/-! ## `delFlight` -/

section

variable (s : State) (i : Nat)

@[simp] theorem delFlight_clk : (delFlight s i).clk = s.clk := rfl
@[simp] theorem delFlight_choices : (delFlight s i).choices = s.choices := rfl
@[simp] theorem delFlight_fresh : (delFlight s i).fresh = s.fresh := rfl
@[simp] theorem delFlight_inputs : (delFlight s i).inputs = s.inputs := rfl
@[simp] theorem delFlight_subject : (delFlight s i).subject = s.subject := rfl
@[simp] theorem delFlight_offered : (delFlight s i).offered = s.offered := rfl
@[simp] theorem delFlight_issuing : (delFlight s i).issuing = s.issuing := rfl
@[simp] theorem delFlight_mgmt : (delFlight s i).mgmt = s.mgmt := rfl
@[simp] theorem delFlight_aqis : (delFlight s i).aqis = s.aqis := rfl
@[simp] theorem delFlight_errDrops : (delFlight s i).errDrops = s.errDrops := rfl
@[simp] theorem delFlight_msixOn : (delFlight s i).msixOn = s.msixOn := rfl
@[simp] theorem delFlight_msixHush : (delFlight s i).msixHush = s.msixHush := rfl
@[simp] theorem delFlight_msix : (delFlight s i).msix = s.msix := rfl
@[simp] theorem delFlight_messages : (delFlight s i).messages = s.messages := rfl
@[simp] theorem delFlight_records : (delFlight s i).records = s.records := rfl
@[simp] theorem delFlight_reply : (delFlight s i).reply = s.reply := rfl
@[simp] theorem delFlight_hostRead : (delFlight s i).hostRead = s.hostRead := rfl
@[simp] theorem delFlight_hdmBase : (delFlight s i).hdmBase = s.hdmBase := rfl
@[simp] theorem delFlight_lsImages : (delFlight s i).lsImages = s.lsImages := rfl
@[simp] theorem delFlight_lastJid : (delFlight s i).lastJid = s.lastJid := rfl
@[simp] theorem delFlight_jobs : (delFlight s i).jobs = s.jobs := rfl
@[simp] theorem delFlight_images : (delFlight s i).images = s.images := rfl
@[simp] theorem delFlight_swaps : (delFlight s i).swaps = s.swaps := rfl
@[simp] theorem delFlight_fronds : (delFlight s i).fronds = s.fronds := rfl
@[simp] theorem delFlight_cores : (delFlight s i).cores = s.cores := rfl
@[simp] theorem delFlight_engines : (delFlight s i).engines = s.engines := rfl
@[simp] theorem delFlight_fusedOff : (delFlight s i).fusedOff = s.fusedOff := rfl
@[simp] theorem delFlight_ls : (delFlight s i).ls = s.ls := rfl
@[simp] theorem delFlight_empties : (delFlight s i).empties = s.empties := rfl
@[simp] theorem delFlight_lsPoison : (delFlight s i).lsPoison = s.lsPoison := rfl
@[simp] theorem delFlight_fmtMap : (delFlight s i).fmtMap = s.fmtMap := rfl
@[simp] theorem delFlight_hbm : (delFlight s i).hbm = s.hbm := rfl
@[simp] theorem delFlight_host : (delFlight s i).host = s.host := rfl
@[simp] theorem delFlight_poison : (delFlight s i).poison = s.poison := rfl
@[simp] theorem delFlight_counters : (delFlight s i).counters = s.counters := rfl
@[simp] theorem delFlight_reported : (delFlight s i).reported = s.reported := rfl
@[simp] theorem delFlight_farLeaf : (delFlight s i).farLeaf = s.farLeaf := rfl
@[simp] theorem delFlight_cntLeaf : (delFlight s i).cntLeaf = s.cntLeaf := rfl
@[simp] theorem delFlight_thresholds : (delFlight s i).thresholds = s.thresholds := rfl
@[simp] theorem delFlight_portsDown : (delFlight s i).portsDown = s.portsDown := rfl
@[simp] theorem delFlight_refresh : (delFlight s i).refresh = s.refresh := rfl
@[simp] theorem delFlight_budgets : (delFlight s i).budgets = s.budgets := rfl
@[simp] theorem delFlight_tstore : (delFlight s i).tstore = s.tstore := rfl
@[simp] theorem delFlight_walks : (delFlight s i).walks = s.walks := rfl
@[simp] theorem delFlight_ilines : (delFlight s i).ilines = s.ilines := rfl
@[simp] theorem delFlight_ifills : (delFlight s i).ifills = s.ifills := rfl
@[simp] theorem delFlight_copies : (delFlight s i).copies = s.copies := rfl
@[simp] theorem delFlight_copyqs : (delFlight s i).copyqs = s.copyqs := rfl
@[simp] theorem delFlight_phases : (delFlight s i).phases = s.phases := rfl
@[simp] theorem delFlight_catalogue : (delFlight s i).catalogue = s.catalogue := rfl
@[simp] theorem delFlight_binds : (delFlight s i).binds = s.binds := rfl
@[simp] theorem delFlight_directory : (delFlight s i).directory = s.directory := rfl
@[simp] theorem delFlight_arrivals : (delFlight s i).arrivals = s.arrivals := rfl
@[simp] theorem delFlight_orphans : (delFlight s i).orphans = s.orphans := rfl
@[simp] theorem delFlight_sems : (delFlight s i).sems = s.sems := rfl
@[simp] theorem delFlight_clocks : (delFlight s i).clocks = s.clocks := rfl
@[simp] theorem delFlight_pacing : (delFlight s i).pacing = s.pacing := rfl
@[simp] theorem delFlight_replays : (delFlight s i).replays = s.replays := rfl
@[simp] theorem delFlight_routines : (delFlight s i).routines = s.routines := rfl

end

/-! ## `updMgmt` -/

section

variable (s : State) (g : Mgmt → Mgmt)

@[simp] theorem updMgmt_clk : (updMgmt s g).clk = s.clk := rfl
@[simp] theorem updMgmt_choices : (updMgmt s g).choices = s.choices := rfl
@[simp] theorem updMgmt_fresh : (updMgmt s g).fresh = s.fresh := rfl
@[simp] theorem updMgmt_inputs : (updMgmt s g).inputs = s.inputs := rfl
@[simp] theorem updMgmt_subject : (updMgmt s g).subject = s.subject := rfl
@[simp] theorem updMgmt_offered : (updMgmt s g).offered = s.offered := rfl
@[simp] theorem updMgmt_issuing : (updMgmt s g).issuing = s.issuing := rfl
@[simp] theorem updMgmt_aqis : (updMgmt s g).aqis = s.aqis := rfl
@[simp] theorem updMgmt_errDrops : (updMgmt s g).errDrops = s.errDrops := rfl
@[simp] theorem updMgmt_msixOn : (updMgmt s g).msixOn = s.msixOn := rfl
@[simp] theorem updMgmt_msixHush : (updMgmt s g).msixHush = s.msixHush := rfl
@[simp] theorem updMgmt_msix : (updMgmt s g).msix = s.msix := rfl
@[simp] theorem updMgmt_messages : (updMgmt s g).messages = s.messages := rfl
@[simp] theorem updMgmt_records : (updMgmt s g).records = s.records := rfl
@[simp] theorem updMgmt_reply : (updMgmt s g).reply = s.reply := rfl
@[simp] theorem updMgmt_hostRead : (updMgmt s g).hostRead = s.hostRead := rfl
@[simp] theorem updMgmt_hdmBase : (updMgmt s g).hdmBase = s.hdmBase := rfl
@[simp] theorem updMgmt_lsImages : (updMgmt s g).lsImages = s.lsImages := rfl
@[simp] theorem updMgmt_lastJid : (updMgmt s g).lastJid = s.lastJid := rfl
@[simp] theorem updMgmt_jobs : (updMgmt s g).jobs = s.jobs := rfl
@[simp] theorem updMgmt_images : (updMgmt s g).images = s.images := rfl
@[simp] theorem updMgmt_swaps : (updMgmt s g).swaps = s.swaps := rfl
@[simp] theorem updMgmt_fronds : (updMgmt s g).fronds = s.fronds := rfl
@[simp] theorem updMgmt_cores : (updMgmt s g).cores = s.cores := rfl
@[simp] theorem updMgmt_engines : (updMgmt s g).engines = s.engines := rfl
@[simp] theorem updMgmt_fusedOff : (updMgmt s g).fusedOff = s.fusedOff := rfl
@[simp] theorem updMgmt_ls : (updMgmt s g).ls = s.ls := rfl
@[simp] theorem updMgmt_empties : (updMgmt s g).empties = s.empties := rfl
@[simp] theorem updMgmt_lsPoison : (updMgmt s g).lsPoison = s.lsPoison := rfl
@[simp] theorem updMgmt_fmtMap : (updMgmt s g).fmtMap = s.fmtMap := rfl
@[simp] theorem updMgmt_hbm : (updMgmt s g).hbm = s.hbm := rfl
@[simp] theorem updMgmt_host : (updMgmt s g).host = s.host := rfl
@[simp] theorem updMgmt_poison : (updMgmt s g).poison = s.poison := rfl
@[simp] theorem updMgmt_counters : (updMgmt s g).counters = s.counters := rfl
@[simp] theorem updMgmt_reported : (updMgmt s g).reported = s.reported := rfl
@[simp] theorem updMgmt_farLeaf : (updMgmt s g).farLeaf = s.farLeaf := rfl
@[simp] theorem updMgmt_cntLeaf : (updMgmt s g).cntLeaf = s.cntLeaf := rfl
@[simp] theorem updMgmt_thresholds : (updMgmt s g).thresholds = s.thresholds := rfl
@[simp] theorem updMgmt_portsDown : (updMgmt s g).portsDown = s.portsDown := rfl
@[simp] theorem updMgmt_refresh : (updMgmt s g).refresh = s.refresh := rfl
@[simp] theorem updMgmt_budgets : (updMgmt s g).budgets = s.budgets := rfl
@[simp] theorem updMgmt_tstore : (updMgmt s g).tstore = s.tstore := rfl
@[simp] theorem updMgmt_walks : (updMgmt s g).walks = s.walks := rfl
@[simp] theorem updMgmt_ilines : (updMgmt s g).ilines = s.ilines := rfl
@[simp] theorem updMgmt_ifills : (updMgmt s g).ifills = s.ifills := rfl
@[simp] theorem updMgmt_flights : (updMgmt s g).flights = s.flights := rfl
@[simp] theorem updMgmt_copies : (updMgmt s g).copies = s.copies := rfl
@[simp] theorem updMgmt_copyqs : (updMgmt s g).copyqs = s.copyqs := rfl
@[simp] theorem updMgmt_phases : (updMgmt s g).phases = s.phases := rfl
@[simp] theorem updMgmt_catalogue : (updMgmt s g).catalogue = s.catalogue := rfl
@[simp] theorem updMgmt_binds : (updMgmt s g).binds = s.binds := rfl
@[simp] theorem updMgmt_directory : (updMgmt s g).directory = s.directory := rfl
@[simp] theorem updMgmt_arrivals : (updMgmt s g).arrivals = s.arrivals := rfl
@[simp] theorem updMgmt_orphans : (updMgmt s g).orphans = s.orphans := rfl
@[simp] theorem updMgmt_sems : (updMgmt s g).sems = s.sems := rfl
@[simp] theorem updMgmt_clocks : (updMgmt s g).clocks = s.clocks := rfl
@[simp] theorem updMgmt_pacing : (updMgmt s g).pacing = s.pacing := rfl
@[simp] theorem updMgmt_replays : (updMgmt s g).replays = s.replays := rfl
@[simp] theorem updMgmt_routines : (updMgmt s g).routines = s.routines := rfl

end

/-! ## `Frond.setReg` -/

section

variable (f : Frond) (n : Nat) (x : Word)

@[simp] theorem Frond.setReg_uid : (f.setReg n x).uid = f.uid := rfl
@[simp] theorem Frond.setReg_fid : (f.setReg n x).fid = f.fid := rfl
@[simp] theorem Frond.setReg_jid : (f.setReg n x).jid = f.jid := rfl
@[simp] theorem Frond.setReg_pl : (f.setReg n x).pl = f.pl := rfl
@[simp] theorem Frond.setReg_stage : (f.setReg n x).stage = f.stage := rfl
@[simp] theorem Frond.setReg_urgent : (f.setReg n x).urgent = f.urgent := rfl
@[simp] theorem Frond.setReg_control : (f.setReg n x).control = f.control := rfl
@[simp] theorem Frond.setReg_pcid : (f.setReg n x).pcid = f.pcid := rfl
@[simp] theorem Frond.setReg_loc : (f.setReg n x).loc = f.loc := rfl
@[simp] theorem Frond.setReg_record : (f.setReg n x).record = f.record := rfl
@[simp] theorem Frond.setReg_base : (f.setReg n x).base = f.base := rfl
@[simp] theorem Frond.setReg_regs : (f.setReg n x).regs = f.regs := rfl
@[simp] theorem Frond.setReg_pc : (f.setReg n x).pc = f.pc := rfl
@[simp] theorem Frond.setReg_preds : (f.setReg n x).preds = f.preds := rfl
@[simp] theorem Frond.setReg_flags : (f.setReg n x).flags = f.flags := rfl
@[simp] theorem Frond.setReg_hnd : (f.setReg n x).hnd = f.hnd := rfl
@[simp] theorem Frond.setReg_rooted : (f.setReg n x).rooted = f.rooted := rfl
@[simp] theorem Frond.setReg_entryDepth : (f.setReg n x).entryDepth = f.entryDepth := rfl
@[simp] theorem Frond.setReg_loops : (f.setReg n x).loops = f.loops := rfl
@[simp] theorem Frond.setReg_epc : (f.setReg n x).epc = f.epc := rfl
@[simp] theorem Frond.setReg_ecause : (f.setReg n x).ecause = f.ecause := rfl
@[simp] theorem Frond.setReg_einfo : (f.setReg n x).einfo = f.einfo := rfl
@[simp] theorem Frond.setReg_sseed : (f.setReg n x).sseed = f.sseed := rfl
@[simp] theorem Frond.setReg_ix : (f.setReg n x).ix = f.ix := rfl
@[simp] theorem Frond.setReg_views : (f.setReg n x).views = f.views := rfl
@[simp] theorem Frond.setReg_outs : (f.setReg n x).outs = f.outs := rfl
@[simp] theorem Frond.setReg_held : (f.setReg n x).held = f.held := rfl
@[simp] theorem Frond.setReg_heldPc : (f.setReg n x).heldPc = f.heldPc := rfl
@[simp] theorem Frond.setReg_heldH : (f.setReg n x).heldH = f.heldH := rfl
@[simp] theorem Frond.setReg_heldHPc : (f.setReg n x).heldHPc = f.heldHPc := rfl
@[simp] theorem Frond.setReg_chans : (f.setReg n x).chans = f.chans := rfl
@[simp] theorem Frond.setReg_wait : (f.setReg n x).wait = f.wait := rfl
@[simp] theorem Frond.setReg_notBefore : (f.setReg n x).notBefore = f.notBefore := rfl
@[simp] theorem Frond.setReg_claims : (f.setReg n x).claims = f.claims := rfl
@[simp] theorem Frond.setReg_lastWalk : (f.setReg n x).lastWalk = f.lastWalk := rfl
@[simp] theorem Frond.setReg_late : (f.setReg n x).late = f.late := rfl
@[simp] theorem Frond.setReg_storeErrs : (f.setReg n x).storeErrs = f.storeErrs := rfl
@[simp] theorem Frond.setReg_cause : (f.setReg n x).cause = f.cause := rfl
@[simp] theorem Frond.setReg_causePc : (f.setReg n x).causePc = f.causePc := rfl
@[simp] theorem Frond.setReg_causeH : (f.setReg n x).causeH = f.causeH := rfl
@[simp] theorem Frond.setReg_causeHPc : (f.setReg n x).causeHPc = f.causeHPc := rfl
@[simp] theorem Frond.setReg_swMark : (f.setReg n x).swMark = f.swMark := rfl
@[simp] theorem Frond.setReg_errWait : (f.setReg n x).errWait = f.errWait := rfl
@[simp] theorem Frond.setReg_errBack : (f.setReg n x).errBack = f.errBack := rfl
@[simp] theorem Frond.setReg_since : (f.setReg n x).since = f.since := rfl
@[simp] theorem Frond.setReg_reached : (f.setReg n x).reached = f.reached := rfl
@[simp] theorem Frond.setReg_seq : (f.setReg n x).seq = f.seq := rfl
@[simp] theorem Frond.setReg_feed : (f.setReg n x).feed = f.feed := rfl
@[simp] theorem Frond.setReg_halt : (f.setReg n x).halt = f.halt := rfl

end

/-! ## `raiseFlags` -/

section

variable (f : Frond) (b : BitVec 7)

@[simp] theorem raiseFlags_uid : (raiseFlags f b).uid = f.uid := rfl
@[simp] theorem raiseFlags_fid : (raiseFlags f b).fid = f.fid := rfl
@[simp] theorem raiseFlags_jid : (raiseFlags f b).jid = f.jid := rfl
@[simp] theorem raiseFlags_pl : (raiseFlags f b).pl = f.pl := rfl
@[simp] theorem raiseFlags_stage : (raiseFlags f b).stage = f.stage := rfl
@[simp] theorem raiseFlags_urgent : (raiseFlags f b).urgent = f.urgent := rfl
@[simp] theorem raiseFlags_control : (raiseFlags f b).control = f.control := rfl
@[simp] theorem raiseFlags_loc : (raiseFlags f b).loc = f.loc := rfl
@[simp] theorem raiseFlags_record : (raiseFlags f b).record = f.record := rfl
@[simp] theorem raiseFlags_base : (raiseFlags f b).base = f.base := rfl
@[simp] theorem raiseFlags_regs : (raiseFlags f b).regs = f.regs := rfl
@[simp] theorem raiseFlags_preds : (raiseFlags f b).preds = f.preds := rfl
@[simp] theorem raiseFlags_hnd : (raiseFlags f b).hnd = f.hnd := rfl
@[simp] theorem raiseFlags_rooted : (raiseFlags f b).rooted = f.rooted := rfl
@[simp] theorem raiseFlags_entryDepth : (raiseFlags f b).entryDepth = f.entryDepth := rfl
@[simp] theorem raiseFlags_epc : (raiseFlags f b).epc = f.epc := rfl
@[simp] theorem raiseFlags_ecause : (raiseFlags f b).ecause = f.ecause := rfl
@[simp] theorem raiseFlags_einfo : (raiseFlags f b).einfo = f.einfo := rfl
@[simp] theorem raiseFlags_sseed : (raiseFlags f b).sseed = f.sseed := rfl
@[simp] theorem raiseFlags_ix : (raiseFlags f b).ix = f.ix := rfl
@[simp] theorem raiseFlags_views : (raiseFlags f b).views = f.views := rfl
@[simp] theorem raiseFlags_heldPc : (raiseFlags f b).heldPc = f.heldPc := rfl
@[simp] theorem raiseFlags_heldHPc : (raiseFlags f b).heldHPc = f.heldHPc := rfl
@[simp] theorem raiseFlags_chans : (raiseFlags f b).chans = f.chans := rfl
@[simp] theorem raiseFlags_wait : (raiseFlags f b).wait = f.wait := rfl
@[simp] theorem raiseFlags_notBefore : (raiseFlags f b).notBefore = f.notBefore := rfl
@[simp] theorem raiseFlags_claims : (raiseFlags f b).claims = f.claims := rfl
@[simp] theorem raiseFlags_lastWalk : (raiseFlags f b).lastWalk = f.lastWalk := rfl
@[simp] theorem raiseFlags_late : (raiseFlags f b).late = f.late := rfl
@[simp] theorem raiseFlags_storeErrs : (raiseFlags f b).storeErrs = f.storeErrs := rfl
@[simp] theorem raiseFlags_cause : (raiseFlags f b).cause = f.cause := rfl
@[simp] theorem raiseFlags_causePc : (raiseFlags f b).causePc = f.causePc := rfl
@[simp] theorem raiseFlags_causeH : (raiseFlags f b).causeH = f.causeH := rfl
@[simp] theorem raiseFlags_causeHPc : (raiseFlags f b).causeHPc = f.causeHPc := rfl
@[simp] theorem raiseFlags_swMark : (raiseFlags f b).swMark = f.swMark := rfl
@[simp] theorem raiseFlags_errWait : (raiseFlags f b).errWait = f.errWait := rfl
@[simp] theorem raiseFlags_errBack : (raiseFlags f b).errBack = f.errBack := rfl
@[simp] theorem raiseFlags_since : (raiseFlags f b).since = f.since := rfl
@[simp] theorem raiseFlags_reached : (raiseFlags f b).reached = f.reached := rfl
@[simp] theorem raiseFlags_seq : (raiseFlags f b).seq = f.seq := rfl
@[simp] theorem raiseFlags_feed : (raiseFlags f b).feed = f.feed := rfl
@[simp] theorem raiseFlags_halt : (raiseFlags f b).halt = f.halt := rfl

end

/-! ## `setView` -/

section

variable (f : Frond) (w : Nat) (v : Option (BitVec 512))

@[simp] theorem setView_uid : (setView f w v).uid = f.uid := rfl
@[simp] theorem setView_fid : (setView f w v).fid = f.fid := rfl
@[simp] theorem setView_jid : (setView f w v).jid = f.jid := rfl
@[simp] theorem setView_pl : (setView f w v).pl = f.pl := rfl
@[simp] theorem setView_stage : (setView f w v).stage = f.stage := rfl
@[simp] theorem setView_urgent : (setView f w v).urgent = f.urgent := rfl
@[simp] theorem setView_control : (setView f w v).control = f.control := rfl
@[simp] theorem setView_pcid : (setView f w v).pcid = f.pcid := rfl
@[simp] theorem setView_loc : (setView f w v).loc = f.loc := rfl
@[simp] theorem setView_record : (setView f w v).record = f.record := rfl
@[simp] theorem setView_base : (setView f w v).base = f.base := rfl
@[simp] theorem setView_regs : (setView f w v).regs = f.regs := rfl
@[simp] theorem setView_g : (setView f w v).g = f.g := rfl
@[simp] theorem setView_pc : (setView f w v).pc = f.pc := rfl
@[simp] theorem setView_preds : (setView f w v).preds = f.preds := rfl
@[simp] theorem setView_flags : (setView f w v).flags = f.flags := rfl
@[simp] theorem setView_hnd : (setView f w v).hnd = f.hnd := rfl
@[simp] theorem setView_rooted : (setView f w v).rooted = f.rooted := rfl
@[simp] theorem setView_entryDepth : (setView f w v).entryDepth = f.entryDepth := rfl
@[simp] theorem setView_loops : (setView f w v).loops = f.loops := rfl
@[simp] theorem setView_epc : (setView f w v).epc = f.epc := rfl
@[simp] theorem setView_ecause : (setView f w v).ecause = f.ecause := rfl
@[simp] theorem setView_einfo : (setView f w v).einfo = f.einfo := rfl
@[simp] theorem setView_sseed : (setView f w v).sseed = f.sseed := rfl
@[simp] theorem setView_ix : (setView f w v).ix = f.ix := rfl
@[simp] theorem setView_outs : (setView f w v).outs = f.outs := rfl
@[simp] theorem setView_held : (setView f w v).held = f.held := rfl
@[simp] theorem setView_heldPc : (setView f w v).heldPc = f.heldPc := rfl
@[simp] theorem setView_heldH : (setView f w v).heldH = f.heldH := rfl
@[simp] theorem setView_heldHPc : (setView f w v).heldHPc = f.heldHPc := rfl
@[simp] theorem setView_chans : (setView f w v).chans = f.chans := rfl
@[simp] theorem setView_wait : (setView f w v).wait = f.wait := rfl
@[simp] theorem setView_notBefore : (setView f w v).notBefore = f.notBefore := rfl
@[simp] theorem setView_claims : (setView f w v).claims = f.claims := rfl
@[simp] theorem setView_lastWalk : (setView f w v).lastWalk = f.lastWalk := rfl
@[simp] theorem setView_late : (setView f w v).late = f.late := rfl
@[simp] theorem setView_storeErrs : (setView f w v).storeErrs = f.storeErrs := rfl
@[simp] theorem setView_cause : (setView f w v).cause = f.cause := rfl
@[simp] theorem setView_causePc : (setView f w v).causePc = f.causePc := rfl
@[simp] theorem setView_causeH : (setView f w v).causeH = f.causeH := rfl
@[simp] theorem setView_causeHPc : (setView f w v).causeHPc = f.causeHPc := rfl
@[simp] theorem setView_swMark : (setView f w v).swMark = f.swMark := rfl
@[simp] theorem setView_errWait : (setView f w v).errWait = f.errWait := rfl
@[simp] theorem setView_errBack : (setView f w v).errBack = f.errBack := rfl
@[simp] theorem setView_since : (setView f w v).since = f.since := rfl
@[simp] theorem setView_reached : (setView f w v).reached = f.reached := rfl
@[simp] theorem setView_seq : (setView f w v).seq = f.seq := rfl
@[simp] theorem setView_feed : (setView f w v).feed = f.feed := rfl
@[simp] theorem setView_halt : (setView f w v).halt = f.halt := rfl

end

/-! ## `setChan` -/

section

variable (f : Frond) (n : Nat) (c : Chan)

@[simp] theorem setChan_uid : (setChan f n c).uid = f.uid := rfl
@[simp] theorem setChan_fid : (setChan f n c).fid = f.fid := rfl
@[simp] theorem setChan_jid : (setChan f n c).jid = f.jid := rfl
@[simp] theorem setChan_pl : (setChan f n c).pl = f.pl := rfl
@[simp] theorem setChan_stage : (setChan f n c).stage = f.stage := rfl
@[simp] theorem setChan_urgent : (setChan f n c).urgent = f.urgent := rfl
@[simp] theorem setChan_control : (setChan f n c).control = f.control := rfl
@[simp] theorem setChan_pcid : (setChan f n c).pcid = f.pcid := rfl
@[simp] theorem setChan_loc : (setChan f n c).loc = f.loc := rfl
@[simp] theorem setChan_record : (setChan f n c).record = f.record := rfl
@[simp] theorem setChan_base : (setChan f n c).base = f.base := rfl
@[simp] theorem setChan_regs : (setChan f n c).regs = f.regs := rfl
@[simp] theorem setChan_g : (setChan f n c).g = f.g := rfl
@[simp] theorem setChan_pc : (setChan f n c).pc = f.pc := rfl
@[simp] theorem setChan_preds : (setChan f n c).preds = f.preds := rfl
@[simp] theorem setChan_flags : (setChan f n c).flags = f.flags := rfl
@[simp] theorem setChan_hnd : (setChan f n c).hnd = f.hnd := rfl
@[simp] theorem setChan_rooted : (setChan f n c).rooted = f.rooted := rfl
@[simp] theorem setChan_entryDepth : (setChan f n c).entryDepth = f.entryDepth := rfl
@[simp] theorem setChan_loops : (setChan f n c).loops = f.loops := rfl
@[simp] theorem setChan_epc : (setChan f n c).epc = f.epc := rfl
@[simp] theorem setChan_ecause : (setChan f n c).ecause = f.ecause := rfl
@[simp] theorem setChan_einfo : (setChan f n c).einfo = f.einfo := rfl
@[simp] theorem setChan_sseed : (setChan f n c).sseed = f.sseed := rfl
@[simp] theorem setChan_ix : (setChan f n c).ix = f.ix := rfl
@[simp] theorem setChan_views : (setChan f n c).views = f.views := rfl
@[simp] theorem setChan_outs : (setChan f n c).outs = f.outs := rfl
@[simp] theorem setChan_held : (setChan f n c).held = f.held := rfl
@[simp] theorem setChan_heldPc : (setChan f n c).heldPc = f.heldPc := rfl
@[simp] theorem setChan_heldH : (setChan f n c).heldH = f.heldH := rfl
@[simp] theorem setChan_heldHPc : (setChan f n c).heldHPc = f.heldHPc := rfl
@[simp] theorem setChan_wait : (setChan f n c).wait = f.wait := rfl
@[simp] theorem setChan_notBefore : (setChan f n c).notBefore = f.notBefore := rfl
@[simp] theorem setChan_claims : (setChan f n c).claims = f.claims := rfl
@[simp] theorem setChan_lastWalk : (setChan f n c).lastWalk = f.lastWalk := rfl
@[simp] theorem setChan_late : (setChan f n c).late = f.late := rfl
@[simp] theorem setChan_storeErrs : (setChan f n c).storeErrs = f.storeErrs := rfl
@[simp] theorem setChan_cause : (setChan f n c).cause = f.cause := rfl
@[simp] theorem setChan_causePc : (setChan f n c).causePc = f.causePc := rfl
@[simp] theorem setChan_causeH : (setChan f n c).causeH = f.causeH := rfl
@[simp] theorem setChan_causeHPc : (setChan f n c).causeHPc = f.causeHPc := rfl
@[simp] theorem setChan_swMark : (setChan f n c).swMark = f.swMark := rfl
@[simp] theorem setChan_errWait : (setChan f n c).errWait = f.errWait := rfl
@[simp] theorem setChan_errBack : (setChan f n c).errBack = f.errBack := rfl
@[simp] theorem setChan_since : (setChan f n c).since = f.since := rfl
@[simp] theorem setChan_reached : (setChan f n c).reached = f.reached := rfl
@[simp] theorem setChan_seq : (setChan f n c).seq = f.seq := rfl
@[simp] theorem setChan_feed : (setChan f n c).feed = f.feed := rfl
@[simp] theorem setChan_halt : (setChan f n c).halt = f.halt := rfl

end

/-! ## Lists in State -/

theorem updFirst_twice {α : Type} (p : α → Bool) (a b : α → α) (ha : ∀ x, p x = true → p (a x) = true) :
    ∀ l : List α, updFirst p b (updFirst p a l) = updFirst p (fun x => b (a x)) l
  | [] => rfl
  | x :: xs => by
    by_cases h : p x = true
    · simp [updFirst, h, ha x h]
    · simp only [Bool.not_eq_true] at h
      simp [updFirst, h, updFirst_twice p a b ha xs]

theorem find_updFirst_self {α : Type} (p : α → Bool) (g : α → α) (hg : ∀ x, p x = true → p (g x) = true) :
    ∀ l : List α, (updFirst p g l).find? p = (l.find? p).map g
  | [] => rfl
  | x :: xs => by
    by_cases h : p x = true
    · simp [updFirst, h, hg x h]
    · simp only [Bool.not_eq_true] at h
      simp [updFirst, h, find_updFirst_self p g hg xs]

theorem find_updFirst_other {α : Type} (p q : α → Bool) (g : α → α) (hg : ∀ x, p x = true → q x = false ∧ q (g x) = false) :
    ∀ l : List α, (updFirst p g l).find? q = l.find? q
  | [] => rfl
  | x :: xs => by
    by_cases h : p x = true
    · simp [updFirst, h, (hg x h).1, (hg x h).2]
    · simp only [Bool.not_eq_true] at h
      by_cases h2 : q x = true <;> simp [updFirst, h, h2, find_updFirst_other p q g hg xs]

/-! ## Jobs, flights, cores and engines -/

theorem findJob_updJob_self (s : State) (j : Nat) (g : Job → Job) (hg : ∀ x, (g x).jid = x.jid) :
    findJob (updJob s j g) j = (findJob s j).map g :=
  find_updFirst_self _ g (by intro x h; simpa [hg x] using h) _

theorem findJob_updJob_other (s : State) (j k : Nat) (g : Job → Job) (hg : ∀ x, (g x).jid = x.jid) (h : j ≠ k) :
    findJob (updJob s j g) k = findJob s k :=
  find_updFirst_other _ _ g (by intro x hx; simp only [beq_iff_eq] at hx; simp [hg x, hx, h]) _

theorem findFlight_updFlight_self (s : State) (i : Nat) (g : Flight → Flight) (hg : ∀ x, (g x).id = x.id) :
    findFlight (updFlight s i g) i = (findFlight s i).map g :=
  find_updFirst_self _ g (by intro x h; simpa [hg x] using h) _

theorem findFlight_updFlight_other (s : State) (i k : Nat) (g : Flight → Flight) (hg : ∀ x, (g x).id = x.id)
    (h : i ≠ k) : findFlight (updFlight s i g) k = findFlight s k :=
  find_updFirst_other _ _ g (by intro x hx; simp only [beq_iff_eq] at hx; simp [hg x, hx, h]) _

/-- The core that a number names in a state has that number. -/
@[simp] theorem getCore_pcid (s : State) (p : Nat) : (getCore s p).pcid = p := by
  unfold getCore
  cases h : s.cores.find? (fun c => c.pcid == p) with
  | none => rfl
  | some c => simpa using List.find?_some h

theorem find_insCore_self (c : Core) : ∀ l : List Core, (insCore c l).find? (fun x => x.pcid == c.pcid) = some c
  | [] => by simp [insCore]
  | x :: xs => by
    unfold insCore
    by_cases h1 : c.pcid < x.pcid
    · simp [h1]
    · by_cases h2 : c.pcid = x.pcid
      · simp [h2]
      · have h3 : (x.pcid == c.pcid) = false := by simpa using fun h => h2 h.symm
        simp [h1, h2, h3, find_insCore_self c xs]

theorem find_insCore_other (c : Core) (p : Nat) (h : c.pcid ≠ p) :
    ∀ l : List Core, (insCore c l).find? (fun x => x.pcid == p) = l.find? (fun x => x.pcid == p)
  | [] => by simp [insCore, h]
  | x :: xs => by
    unfold insCore
    by_cases h1 : c.pcid < x.pcid
    · simp [h1, h]
    · by_cases h2 : c.pcid = x.pcid
      · have h3 : x.pcid ≠ p := by omega
        simp [h2, h3]
      · by_cases h3 : x.pcid = p
        · rw [if_neg h1, if_neg h2]; simp [h3]
        · simp [h1, h2, h3, find_insCore_other c p h xs]

theorem getCore_setCore_self (s : State) (c : Core) : getCore (setCore s c) c.pcid = c := by
  unfold getCore setCore; rw [find_insCore_self]; rfl

theorem getCore_setCore_other (s : State) (c : Core) (p : Nat) (h : c.pcid ≠ p) :
    getCore (setCore s c) p = getCore s p := by
  unfold getCore setCore; rw [find_insCore_other c p h]

theorem getCore_updCore_self (s : State) (p : Nat) (g : Core → Core) (hg : ∀ c, (g c).pcid = c.pcid) :
    getCore (updCore s p g) p = g (getCore s p) := by
  have h : (g (getCore s p)).pcid = p := by rw [hg, getCore_pcid]
  have := getCore_setCore_self s (g (getCore s p))
  rw [h] at this; exact this

theorem getCore_updCore_other (s : State) (p q : Nat) (g : Core → Core) (hg : ∀ c, (g c).pcid = c.pcid) (h : p ≠ q) :
    getCore (updCore s p g) q = getCore s q :=
  getCore_setCore_other s _ q (by rw [hg, getCore_pcid]; exact h)

@[simp] theorem getEngine_tile (s : State) (t : Nat) : (getEngine s t).tile = t := by
  unfold getEngine
  cases h : s.engines.find? (fun e => e.tile == t) with
  | none => rfl
  | some e => simpa using List.find?_some h

theorem find_insEngine_self (e : Engine) : ∀ l : List Engine, (insEngine e l).find? (fun x => x.tile == e.tile) = some e
  | [] => by simp [insEngine]
  | x :: xs => by
    unfold insEngine
    by_cases h1 : e.tile < x.tile
    · simp [h1]
    · by_cases h2 : e.tile = x.tile
      · simp [h2]
      · have h3 : (x.tile == e.tile) = false := by simpa using fun h => h2 h.symm
        simp [h1, h2, h3, find_insEngine_self e xs]

theorem find_insEngine_other (e : Engine) (t : Nat) (h : e.tile ≠ t) :
    ∀ l : List Engine, (insEngine e l).find? (fun x => x.tile == t) = l.find? (fun x => x.tile == t)
  | [] => by simp [insEngine, h]
  | x :: xs => by
    unfold insEngine
    by_cases h1 : e.tile < x.tile
    · simp [h1, h]
    · by_cases h2 : e.tile = x.tile
      · have h3 : x.tile ≠ t := by omega
        simp [h2, h3]
      · by_cases h3 : x.tile = t
        · rw [if_neg h1, if_neg h2]; simp [h3]
        · simp [h1, h2, h3, find_insEngine_other e t h xs]

theorem getEngine_updEngine_self (s : State) (t : Nat) (g : Engine → Engine) (hg : ∀ e, (g e).tile = e.tile) :
    getEngine (updEngine s t g) t = g (getEngine s t) := by
  have h : (g (getEngine s t)).tile = t := by rw [hg, getEngine_tile]
  have h2 := find_insEngine_self (g (getEngine s t)) s.engines
  rw [h] at h2
  show ((insEngine (g (getEngine s t)) s.engines).find? _).getD _ = _
  rw [h2]; rfl

theorem getEngine_updEngine_other (s : State) (t u : Nat) (g : Engine → Engine) (hg : ∀ e, (g e).tile = e.tile)
    (h : t ≠ u) : getEngine (updEngine s t g) u = getEngine s u := by
  have h2 : (g (getEngine s t)).tile ≠ u := by rw [hg, getEngine_tile]; exact h
  show ((insEngine (g (getEngine s t)) s.engines).find? _).getD _ = _
  rw [find_insEngine_other _ _ h2]; rfl

/-! ## Fronds -/

theorem updFrond_twice (s : State) (u : Nat) (a b : Frond → Frond) (ha : ∀ f, (a f).uid = f.uid) :
    updFrond (updFrond s u a) u b = updFrond s u (fun f => b (a f)) := by
  unfold updFrond
  simp only [Option.map_map]
  congr 1
  · cases s.issuing with
    | none => rfl
    | some f => by_cases h : f.uid = u <;> simp [h, ha]
  · exact updFirst_twice _ _ _ (by intro x h; simpa [ha] using h) _

theorem findFrond_updFrond_self (s : State) (u : Nat) (g : Frond → Frond) (hg : ∀ f, (g f).uid = f.uid) :
    findFrond (updFrond s u g) u = (findFrond s u).map g := by
  unfold findFrond updFrond
  cases s.issuing with
  | none => exact find_updFirst_self _ g (by intro x h; simpa [hg x] using h) _
  | some f =>
    by_cases h : f.uid = u
    · simp [h, hg]
    · simp only [Option.map_some, if_neg h]
      exact find_updFirst_self _ g (by intro x h; simpa [hg x] using h) _

theorem findFrond_updFrond_other (s : State) (u v : Nat) (g : Frond → Frond) (hg : ∀ f, (g f).uid = f.uid) (h : u ≠ v) :
    findFrond (updFrond s u g) v = findFrond s v := by
  have key : ∀ l : List Frond, (updFirst (fun x => x.uid == u) g l).find? (fun x => x.uid == v)
      = l.find? (fun x => x.uid == v) :=
    find_updFirst_other _ _ g (by intro x hx; simp only [beq_iff_eq] at hx; simp [hg x, hx, h])
  unfold findFrond updFrond
  cases s.issuing with
  | none => exact key _
  | some f =>
    by_cases h1 : f.uid = u
    · have h2 : (g f).uid ≠ v := by rw [hg, h1]; exact h
      have h3 : f.uid ≠ v := by rw [h1]; exact h
      simp only [Option.map_some, if_pos h1, if_neg h2, if_neg h3]; exact key _
    · simp only [Option.map_some, if_neg h1]; rw [key]

/-- A general register reads what was written to it, and every other as before. -/
theorem reg_setReg (f : Frond) (n m : Nat) (x : Word) (h : n < f.g.length) :
    (f.setReg n x).reg m = if m = n then x else f.reg m := by
  unfold Frond.setReg Frond.reg
  by_cases e : m = n
  · subst e; simp [h]
  · simp [e, List.getElem?_set_ne (fun h => e h.symm)]

end Sys2Proof.Machine
end

