-- ==== Sys2Proof/Laws/Machine.lean ====
section
/-! SUPPORT. The laws of the shared operations: what each can do, said once, and that those on memory keep its canonical
form. -/

namespace Sys2Proof.Machine

/-! ## Memory keeps its canonical form -/

/-- A state that differs in none of the lists of memory is as canonical as the other. -/
theorem Memory.wf_of_eq {s t : State} (h : Memory.wf s) (h1 : t.ls = s.ls) (h2 : t.hbm = s.hbm) (h3 : t.host = s.host)
    (h4 : t.empties = s.empties) (h5 : t.poison = s.poison) (h6 : t.fmtMap = s.fmtMap) (h7 : t.counters = s.counters)
    (h8 : t.lsPoison = s.lsPoison) : Memory.wf t := by
  unfold Memory.wf; rw [h1, h2, h3, h4, h5, h6, h7, h8]; exact h

theorem Memory.wf_reset : Memory.wf State.reset := by decide

theorem Memory.wf_setCore {s : State} (c : Core) (h : Memory.wf s) : Memory.wf (setCore s c) := h
theorem Memory.wf_updCore {s : State} (p : Nat) (g : Core → Core) (h : Memory.wf s) : Memory.wf (updCore s p g) := h
theorem Memory.wf_updEngine {s : State} (t : Nat) (g : Engine → Engine) (h : Memory.wf s) :
    Memory.wf (updEngine s t g) := h
theorem Memory.wf_updJob {s : State} (j : Nat) (g : Job → Job) (h : Memory.wf s) : Memory.wf (updJob s j g) := h
theorem Memory.wf_updFrond {s : State} (u : Nat) (g : Frond → Frond) (h : Memory.wf s) : Memory.wf (updFrond s u g) := h
theorem Memory.wf_updFlight {s : State} (i : Nat) (g : Flight → Flight) (h : Memory.wf s) :
    Memory.wf (updFlight s i g) := h
theorem Memory.wf_delFlight {s : State} (i : Nat) (h : Memory.wf s) : Memory.wf (delFlight s i) := h
theorem Memory.wf_updMgmt {s : State} (g : Mgmt → Mgmt) (h : Memory.wf s) : Memory.wf (updMgmt s g) := h
theorem Memory.wf_pendFirmware {s : State} (d b : Nat) (h : Memory.wf s) : Memory.wf (pendFirmware s d b) := h
theorem Memory.wf_pendFirmwareAll {s : State} (b : Nat) (h : Memory.wf s) : Memory.wf (pendFirmwareAll s b) := h

theorem Memory.wf_writeHostPa {s : State} (a n v : Nat) (h : Memory.wf s) : Memory.wf (writeHostPa s a n v) := by
  obtain ⟨h1, h2, h3, h4⟩ := h
  unfold writeHostPa
  split
  · split
    · exact ⟨h1, h2, h3, h4⟩
    · exact ⟨h1, writeNat_wf _ _ _ _ h2, h3, h4⟩
  · exact ⟨h1, h2, writeNat_wf _ _ _ _ h3, h4⟩

theorem Memory.wf_sendMsix {s : State} (n : Nat) (h : Memory.wf s) : Memory.wf (sendMsix s n) := by
  unfold sendMsix
  dsimp only
  repeat' split
  all_goals first | exact h | exact Memory.wf_writeHostPa _ _ _ h

theorem Memory.wf_raiseVec {s : State} (v : Word) (h : Memory.wf s) : Memory.wf (raiseVec s v) := by
  unfold raiseVec
  split
  · exact Memory.wf_sendMsix _ h
  · exact h

theorem Memory.wf_postEvent {s : State} (kind low high : Nat) (h : Memory.wf s) :
    Memory.wf (postEvent s kind low high) := by
  unfold postEvent
  dsimp only
  split
  · exact h
  · exact Memory.wf_raiseVec _ (Memory.wf_writeHostPa _ _ _ h)

theorem Memory.wf_errorRecord {s : State} (code n pasid what jid : Nat) (h : Memory.wf s) :
    Memory.wf (errorRecord s code n pasid what jid) := by
  unfold errorRecord
  split
  · exact h
  · split
    · exact h
    · exact Memory.wf_pendFirmwareAll _ (Memory.wf_raiseVec _ (Memory.wf_writeHostPa _ _ _ h))

theorem Memory.wf_reportPage {s : State} (pg : Nat) (h : Memory.wf s) : Memory.wf (reportPage s pg) := by
  unfold reportPage
  dsimp only
  split
  · exact Memory.wf_pendFirmwareAll _ (Memory.wf_postEvent _ _ _ h)
  · exact h

theorem Memory.wf_countAccess {s : State} (pa n tier : Nat) (h : Memory.wf s) :
    Memory.wf (countAccess s pa n tier) := by
  unfold countAccess
  dsimp only
  split
  · exact h
  · obtain ⟨h1, h2, h3, h4, h5, h6, h7⟩ := h
    exact Memory.wf_reportPage _ ⟨h1, h2, h3, h4, h5, h6, mapPut_wf _ _ _ _ h7.1, h7.2⟩

theorem Memory.wf_dirtyLine {s : State} (a : Nat) (h : Memory.wf s) : Memory.wf (dirtyLine s a) := by
  unfold dirtyLine
  dsimp only
  split
  · split <;> exact h
  · exact h

theorem Memory.wf_writePlace {s : State} (p : Place) (n v : Nat) (h : Memory.wf s) : Memory.wf (writePlace s p n v) := by
  obtain ⟨h1, h2, h3, h4⟩ := h
  unfold writePlace
  split
  · exact Memory.wf_dirtyLine _ ⟨writeNat_wf _ _ _ _ h1, h2, h3, h4⟩
  · exact ⟨h1, writeNat_wf _ _ _ _ h2, h3, h4⟩
  · exact ⟨h1, h2, writeNat_wf _ _ _ _ h3, h4⟩
  · exact ⟨h1, writeNat_wf _ _ _ _ h2, h3, h4⟩

/-- A landing that writes whole granules of a local store clears their marks alone. -/
theorem Memory.wf_lsWhole {s : State} (a n : Nat) (h : Memory.wf s) : Memory.wf (lsWhole s a n) := by
  obtain ⟨h1, h2, h3, h4, h5, h6, h7, h8⟩ := h
  exact ⟨h1, h2, h3, h4, h5, h6, h7, List.Pairwise.filter _ h8⟩

theorem Memory.wf_setRegion {s : State} (a code : Nat) (h : Memory.wf s) : Memory.wf (setRegion s a code) := by
  obtain ⟨h1, h2, h3, h4, h5, h6, h7⟩ := h
  exact ⟨h1, h2, h3, h4, h5, mapPut_wf _ _ _ _ h6, h7⟩

theorem Memory.wf_setSync {s : State} (w : Nat) (full : Bool) (h : Memory.wf s) : Memory.wf (setSync s w full) := by
  obtain ⟨h1, h2, h3, h4, h5⟩ := h
  refine ⟨h1, h2, h3, ?_, h5⟩
  unfold setSync
  cases full
  · exact setAdd_wf _ _ h4
  · exact setDel_wf _ _ h4

theorem Memory.wf_setLsWord {s : State} (w v : Nat) (h : Memory.wf s) : Memory.wf (setLsWord s w v) :=
  Memory.wf_writePlace _ _ _ h

theorem Memory.wf_refreshSpent {s : State} (p : Nat) (h : Memory.wf s) : Memory.wf (refreshSpent s p) := by
  unfold refreshSpent
  dsimp only
  split <;> exact h

theorem Memory.wf_sendMessage {s : State} (f : Frond) (b : BitVec 512) (h : Memory.wf s) :
    Memory.wf (sendMessage s f b) := by
  unfold sendMessage
  split <;> exact h

theorem Memory.wf_takeCause {s : State} (f : Frond) (code info epc word : Nat) (h : Memory.wf s) :
    Memory.wf (takeCause s f code info epc word).1 := by
  unfold takeCause
  split
  · exact h
  · split
    · exact h
    · exact Memory.wf_sendMessage _ _ h

theorem Memory.wf_placeHold {s : State} (f : Frond) (block : Nat) (h : Memory.wf s) :
    Memory.wf (placeHold s f block) := by
  unfold placeHold
  dsimp only
  split <;> exact h

theorem Memory.wf_ls {s : State} (m : SMap Byte) (h : Memory.wf s) (hm : mapWf 0 m) : Memory.wf { s with ls := m } :=
  ⟨hm, h.2⟩

theorem Memory.wf_layRecord {s : State} (f : Frond) (h : Memory.wf s) : Memory.wf (layRecord s f) := by
  unfold layRecord
  split
  · exact Memory.wf_ls _ h (writeNat_wf _ _ _ _ h.1)
  · exact h

theorem Memory.wf_parkFrond {s : State} (f : Frond) (reason obj info : Nat) (h : Memory.wf s) :
    Memory.wf (parkFrond s f reason obj info).1 := by
  have hp : Memory.wf (parkStay (if reason = 0 then placeHold s f obj else s) f reason obj info).1 := by
    split
    · exact Memory.wf_placeHold (s := s) f obj h
    · exact h
  unfold parkFrond
  dsimp only
  split
  · exact hp
  · exact Memory.wf_layRecord _ hp

theorem Memory.wf_releaseFrond {s : State} (u : Nat) (h : Memory.wf s) : Memory.wf (releaseFrond s u) := h

theorem Memory.wf_complete {s : State} (f : Frond) (hi : Hints) (t : Option Nat) (w : Nat) (h : Memory.wf s) :
    Memory.wf (complete s f hi t w).1 := by
  unfold complete
  dsimp only
  split
  · exact h
  · split
    · exact h
    · exact Memory.wf_takeCause _ _ _ _ _ h

/-! ## What memory holds after a write -/

/-- A write to a local store leaves every other byte of it, and all of HBM and of the host. -/
theorem ls_writePlace (s : State) (a n v : Nat) :
    (writePlace s (.ls a) n v).ls = writeNat s.ls a n v ∧ (writePlace s (.ls a) n v).hbm = s.hbm
      ∧ (writePlace s (.ls a) n v).host = s.host := by
  unfold writePlace dirtyLine
  dsimp only
  split
  · split <;> exact ⟨rfl, rfl, rfl⟩
  · exact ⟨rfl, rfl, rfl⟩

/-- A sync bit reads as it was set. -/
theorem syncFull_setSync_self (s : State) (w : Nat) (full : Bool) : syncFull (setSync s w full) w = full := by
  unfold syncFull setSync
  cases full
  · simp [setHas_add_self]
  · simp [setHas_del_self]

theorem syncFull_setSync_other (s : State) (w x : Nat) (full : Bool) (h : x / 8 ≠ w / 8) :
    syncFull (setSync s w full) x = syncFull s x := by
  unfold syncFull setSync
  cases full
  · simp [setHas_add_other _ _ _ h]
  · simp [setHas_del_other _ _ _ h]

/-- The code of a region reads as it was set. -/
theorem regionCode_setRegion_self (s : State) (a code : Nat) (h : mapWf 0 s.fmtMap) :
    regionCode (setRegion s a code) a = code := mapGet_put_self _ _ _ _ h

theorem regionCode_setRegion_other (s : State) (a b code : Nat) (h : b / blockSize ≠ a / blockSize) :
    regionCode (setRegion s a code) b = regionCode s b := mapGet_put_other _ _ _ _ _ h

/-! ## Taking a cause -/

/-- Everything that taking a cause can do (R115, R371, R374, R377). -/
theorem takeCause_cases (s : State) (f : Frond) (code info epc word : Nat) :
    (code = causeFEATURE ∧ f.hnd = false
      ∧ takeCause s f code info epc word = (pendFirmware s (dieOf f.pcid) 1, { f with wait := .feature info }))
    ∨ (handlerCause code = true ∧ f.hnd = false ∧ traphOf s f ≠ 0
      ∧ takeCause s f code info epc word = (s, enterHandler s.clk f (traphOf s f) code info epc))
    ∨ takeCause s f code info epc word
      = (sendMessage s f (messageBits f 0 code info epc word f.hnd), haltFrond f code info epc word) := by
  unfold takeCause
  split
  · rename_i h; exact .inl ⟨h.1, h.2, rfl⟩
  · split
    · rename_i h; exact .inr (.inl ⟨h.1, h.2.1, h.2.2, rfl⟩)
    · exact .inr (.inr rfl)

/-- Taking a cause leaves the general registers, the predicates, the flags, the views and the loop levels. -/
theorem takeCause_keeps (s : State) (f : Frond) (code info epc word : Nat) :
    let g := (takeCause s f code info epc word).2
    g.g = f.g ∧ g.preds = f.preds ∧ g.flags = f.flags ∧ g.views = f.views ∧ g.loops = f.loops ∧ g.outs = f.outs
      ∧ g.chans = f.chans ∧ g.uid = f.uid ∧ g.pcid = f.pcid ∧ g.claims = f.claims := by
  rcases takeCause_cases s f code info epc word with ⟨_, _, h⟩ | ⟨_, _, _, h⟩ | h
  · rw [h]; simp
  · rw [h]; simp [enterHandler, setTrapRegs]
  · rw [h]; unfold haltFrond; dsimp only; split <;> simp [setTrapRegs]

/-! ## Fronds that go on -/

/-- A released frond goes on, in its slot or from the ready list. -/
theorem releaseFrond_awakened (s : State) (u : Nat) : releaseFrond s u = awakened s u id := by
  show updFrond _ _ _ = updFrond _ _ _
  congr 1
  funext f; cases hl : f.loc <;> simp [awake, hl]

/-- A pending cause names no other frond. -/
theorem pendCause_uid (f : Frond) (c : Cause) : (pendCause f c).uid = f.uid := by unfold pendCause; split <;> rfl

theorem releaseWithCause_awakened (s : State) (u : Nat) (c : Cause) :
    releaseWithCause s u c = awakened s u (fun f => pendCause f c) := by
  unfold releaseWithCause
  rw [releaseFrond_awakened]
  exact updFrond_twice { s with fresh := s.fresh + 1 } u (fun f => pendCause f c) (fun f => awake s f)
    (fun f => pendCause_uid f c)

/-! ## Accesses that start -/

/-- Stamping the elements of a flight changes the clocks alone (R326). -/
theorem stampElems_clocks (g : Flight) : ∀ (es : List Elem) (s : State),
    ∃ k, (stampElems s g es).1 = { s with clocks := k } := by
  intro es
  induction es with
  | nil => exact fun s => ⟨s.clocks, rfl⟩
  | cons e es ih =>
    intro s
    unfold stampElems
    dsimp only
    split
    · obtain ⟨k, hk⟩ := ih (stampClocks s (dieOf g.pcid) 1).2
      exact ⟨k, hk⟩
    · exact ih s

/-- A flight that starts changes the flights, the next name, and the clocks when an element is bound for another die;
nothing else. -/
theorem addFlight_shape (s : State) (f : Frond) (x : Launch) (b : Option Hints) :
    ∃ gs k, addFlight s f x b = (s.fresh, { s with fresh := s.fresh + 1, flights := gs, clocks := k }) := by
  unfold addFlight
  dsimp only
  generalize hg : (Flight.mk _ _ _ _ _ _ _ _ _ _ _ _ _ _ _ _ _ _ _ _ _ _) = g
  obtain ⟨k, hk⟩ := stampElems_clocks g x.elems { s with fresh := s.fresh + 1 }
  rw [hk]
  exact ⟨_, k, rfl⟩

theorem addFlight_frame (s : State) (f : Frond) (x : Launch) (b : Option Hints) :
    let t := (addFlight s f x b).2
    (addFlight s f x b).1 = s.fresh ∧ t.fresh = s.fresh + 1 ∧ t.ls = s.ls ∧ t.hbm = s.hbm ∧ t.host = s.host
      ∧ t.empties = s.empties ∧ t.fmtMap = s.fmtMap ∧ t.fronds = s.fronds ∧ t.jobs = s.jobs ∧ t.cores = s.cores
      ∧ t.engines = s.engines ∧ t.clk = s.clk ∧ t.issuing = s.issuing := by
  obtain ⟨gs, k, h⟩ := addFlight_shape s f x b
  rw [h]
  exact ⟨rfl, rfl, rfl, rfl, rfl, rfl, rfl, rfl, rfl, rfl, rfl, rfl, rfl⟩

theorem Memory.wf_addFlight {s : State} (f : Frond) (x : Launch) (b : Option Hints) (h : Memory.wf s) :
    Memory.wf (addFlight s f x b).2 := by
  obtain ⟨gs, k, e⟩ := addFlight_shape s f x b
  rw [e]
  exact h

end Sys2Proof.Machine
end

