-- ==== Sys2Proof/Laws/Words.lean ====
section
/-! SUPPORT. The laws of a word at issue: how its body runs, what its operands read and write, and what a word that
completes leaves. -/

namespace Sys2Proof.Machine

/-! ## The monad of word bodies -/

theorem run_bind {α β : Type} (x : M α) (k : α → M β) (c : Ctx) :
    ExceptT.run (x >>= k) c = match ExceptT.run x c with
      | (.ok a, c') => ExceptT.run (k a) c'
      | (.error e, c') => (.error e, c') := by
  show (match x c with | (a, c') => ExceptT.bindCont k a c') = _
  show _ = match x c with | (.ok a, c') => ExceptT.run (k a) c' | (.error e, c') => (.error e, c')
  cases h : x c with
  | mk r c' => cases r <;> rfl

theorem run_pure {α : Type} (a : α) (c : Ctx) : ExceptT.run (pure a : M α) c = (.ok a, c) := rfl
theorem run_get (c : Ctx) : ExceptT.run (get : M Ctx) c = (.ok c, c) := rfl
theorem run_getF (c : Ctx) : ExceptT.run getF c = (.ok c.f, c) := rfl
theorem run_getS (c : Ctx) : ExceptT.run getS c = (.ok c.s, c) := rfl
theorem run_modF (g : Frond → Frond) (c : Ctx) : ExceptT.run (modF g) c = (.ok (), { c with f := g c.f }) := rfl
theorem run_raiseNow (b : BitVec 7) (c : Ctx) : ExceptT.run (raiseNow b) c = (.ok (), { c with f := raiseFlags c.f b }) := rfl
theorem run_modS (g : State → State) (c : Ctx) : ExceptT.run (modS g) c = (.ok (), { c with s := g c.s }) := rfl
theorem run_setFlags (b : BitVec 7) (c : Ctx) :
    ExceptT.run (setFlags b) c = (.ok (), { c with flags := c.flags ||| b }) := rfl
theorem run_throw {α : Type} (e : Stop) (c : Ctx) : ExceptT.run (throw e : M α) c = (.error e, c) := rfl
theorem run_raise (code info : Nat) (c : Ctx) : ExceptT.run (raise code info) c = (.error (.trap code info), c) := rfl
theorem run_ite {α : Type} (p : Prop) [Decidable p] (x y : M α) (c : Ctx) :
    ExceptT.run (if p then x else y) c = if p then ExceptT.run x c else ExceptT.run y c := by split <;> rfl
theorem run_trapIf (b : Bool) (code info : Nat) (c : Ctx) :
    ExceptT.run (trapIf b code info) c = if b then (.error (.trap code info), c) else (.ok (), c) := by
  cases b <;> rfl
theorem run_stallIf (b : Bool) (c : Ctx) :
    ExceptT.run (stallIf b) c = if b then (.error .stall, c) else (.ok (), c) := by
  cases b <;> rfl

/-! ## Scalar operands -/

/-- A scalar source reads its value and changes nothing. -/
theorem run_readG (s : State) (f : Frond) (fl : BitVec 7) (pos : Nat) (o : Opnd) (x : Word)
    (h : srcVal s f o = some x) :
    ExceptT.run (readG pos o) { f := f, s := aside s, flags := fl }
      = (.ok x, { f := f, s := aside s, flags := fl }) := by
  unfold readG
  unfold srcVal at h
  rw [run_bind, run_get]
  dsimp only
  cases e : operandOf o <;> simp only [e] at h ⊢ <;> try (cases h)
  · split at h
    · rename_i hn
      simp only [Option.some.injEq] at h
      simp [hazard, hn.2, run_pure, h]
    · cases h
  · rfl
  · rfl
  · rfl

theorem run_readB (s : State) (f : Frond) (fl : BitVec 7) (b : SrcB) (x : Word)
    (h : srcValB s f b = some x) :
    ExceptT.run (readB b) { f := f, s := aside s, flags := fl }
      = (.ok x, { f := f, s := aside s, flags := fl }) := by
  cases b with
  | fld o => exact run_readG s f fl 2 o x h
  | wide i => simp only [srcValB, Option.some.injEq] at h; subst h; rfl

/-- A scalar destination is written, and nothing else changes. -/
theorem run_writeG (s : State) (f : Frond) (fl : BitVec 7) (o : Opnd) (x : Word)
    (h : dstOk f o = true) :
    ExceptT.run (writeG o x) { f := f, s := s, flags := fl }
      = (.ok (), { f := putDst f o x, s := s, flags := fl }) := by
  unfold writeG
  unfold dstOk at h
  rw [run_bind, run_getF]
  unfold putDst
  dsimp only
  cases e : operandOf o with
  | reg n =>
    simp only [e, Bool.and_eq_true, Bool.not_eq_true'] at h ⊢
    simp [hazard, h.2, run_modF, Frond.setReg]
  | zero => rfl
  | special n =>
    simp only [e, specialWritable, decide_eq_true_eq] at h
    have : n = 0xD9 ∨ n = 0xDA ∨ n = 0xDB ∨ n = 0xDC := by omega
    rcases this with rfl | rfl | rfl | rfl <;> rfl
  | _ => simp [e] at h

theorem scalarReason_src (s : State) (f : Frond) (o : Opnd) (x : Word) (h : srcVal s f o = some x) :
    scalarReason (aside s) f o true false = none := by
  unfold srcVal at h; unfold scalarReason
  cases e : operandOf o with
  | reg n =>
    simp only [e] at h ⊢
    split at h
    · rw [if_neg (by omega)]
    · cases h
  | zero => rfl
  | imm x => rfl
  | special n => rfl
  | _ => simp [e] at h

theorem scalarReason_dst (s : State) (f : Frond) (o : Opnd) (h : dstOk f o = true) :
    scalarReason s f o false true = none := by
  unfold dstOk at h; unfold scalarReason
  cases e : operandOf o <;> simp_all

theorem fieldReason_g (s : State) (f : Frond) (pos : Nat) (o : Opnd) (x : Word) (h : srcVal s f o = some x) :
    fieldReason (aside s) f { pos := pos, kind := .g, value := o } = none := scalarReason_src s f o x h

theorem fieldReason_gw (s : State) (f : Frond) (pos : Nat) (o : Opnd) (h : dstOk f o = true) :
    fieldReason s f { pos := pos, kind := .gw, value := o } = none := scalarReason_dst s f o h

theorem run_checkFields (fs : List Field) (c : Ctx) (h : ∀ x ∈ fs, fieldReason c.s c.f x = none) :
    ExceptT.run (checkFields fs) c = (.ok (), c) := by
  induction fs with
  | nil => rfl
  | cons x xs ih =>
    unfold checkFields
    rw [run_bind, run_get]
    dsimp only
    rw [h x (by simp)]
    exact ih (fun y hy => h y (by simp [hy]))

theorem fieldSrc_ok (s : State) (f : Frond) (b : SrcB) (y : Word) (h : srcValB s f b = some y) :
    ∀ x ∈ fieldSrc .g b, fieldReason (aside s) f x = none := by
  cases b with
  | fld o =>
    intro x hx
    rw [List.mem_singleton.mp hx]
    exact fieldReason_g s f 2 o y h
  | wide i => intro x hx; cases hx

/-! ## What writing a destination keeps -/

section

variable (f : Frond) (o : Opnd) (x : Word) (b : BitVec 7)

@[simp] theorem raiseFlags_pc : (raiseFlags f b).pc = f.pc := rfl
@[simp] theorem raiseFlags_pcid : (raiseFlags f b).pcid = f.pcid := rfl
@[simp] theorem raiseFlags_loops : (raiseFlags f b).loops = f.loops := rfl
@[simp] theorem raiseFlags_g : (raiseFlags f b).g = f.g := rfl
@[simp] theorem raiseFlags_held : (raiseFlags f b).held = f.held := rfl
@[simp] theorem raiseFlags_heldH : (raiseFlags f b).heldH = f.heldH := rfl
@[simp] theorem raiseFlags_outs : (raiseFlags f b).outs = f.outs := rfl
theorem raiseFlags_zero : raiseFlags f 0 = f := by unfold raiseFlags; cases f; simp

@[simp] theorem putDst_pc : (putDst f o x).pc = f.pc := by unfold putDst; split <;> rfl
@[simp] theorem putDst_pcid : (putDst f o x).pcid = f.pcid := by unfold putDst; split <;> rfl
@[simp] theorem putDst_loops : (putDst f o x).loops = f.loops := by unfold putDst; split <;> rfl
@[simp] theorem putDst_held : (putDst f o x).held = f.held := by unfold putDst; split <;> rfl
@[simp] theorem putDst_heldH : (putDst f o x).heldH = f.heldH := by unfold putDst; split <;> rfl
@[simp] theorem putDst_outs : (putDst f o x).outs = f.outs := by unfold putDst; split <;> rfl
@[simp] theorem putDst_preds : (putDst f o x).preds = f.preds := by unfold putDst; split <;> rfl
@[simp] theorem putDst_regs : (putDst f o x).regs = f.regs := by unfold putDst; split <;> rfl
@[simp] theorem putDst_entryDepth : (putDst f o x).entryDepth = f.entryDepth := by unfold putDst; split <;> rfl
@[simp] theorem putDst_hnd : (putDst f o x).hnd = f.hnd := by unfold putDst; split <;> rfl

end

/-! ## The end of a word -/

theorem useHeld_nil (b : Bool) (f : Frond) (h1 : f.held = []) (h2 : f.heldH = []) : useHeld b f = f := by
  unfold useHeld; cases f; simp_all

theorem discardHeld_nil (s : State) (f : Frond) (h1 : f.held = []) (h2 : f.heldH = []) :
    discardHeld s f = (s, f) := by simp [discardHeld, h1, h2]

theorem lastUse_loops (h : Hints) (f : Frond) : (lastUse h f).loops = f.loops := by
  unfold lastUse; split
  · split <;> rfl
  · rfl

theorem lastUse_pc (h : Hints) (f : Frond) : (lastUse h f).pc = f.pc := by
  unfold lastUse; split
  · split <;> rfl
  · rfl

theorem lastUse_hnd (h : Hints) (f : Frond) : (lastUse h f).hnd = f.hnd := by
  unfold lastUse; split
  · split <;> rfl
  · rfl

theorem lastUse_entryDepth (h : Hints) (f : Frond) : (lastUse h f).entryDepth = f.entryDepth := by
  unfold lastUse; split
  · split <;> rfl
  · rfl

/-- A word that is not the last of its hardware loop moves on to the next word. -/
theorem advance_plain (f : Frond) (h : endsPass f = false) : advance f = ({ f with pc := nextPc f }, none) := by
  unfold endsPass at h
  unfold advance
  split
  · rfl
  · rename_i l e
    simp only [e] at h
    rw [if_pos]
    · rfl
    · cases h1 : (f.hnd && decide (f.loops.length ≤ f.entryDepth)) with
      | true => rfl
      | false => simp only [h1, Bool.not_false, Bool.true_and] at h; simp only [bne, h, Bool.false_or, Bool.not_false]

theorem endsPass_congr (f g : Frond) (h1 : g.loops = f.loops) (h2 : g.hnd = f.hnd) (h3 : g.entryDepth = f.entryDepth)
    (h4 : g.pc = f.pc) : endsPass g = endsPass f := by unfold endsPass; rw [h1, h2, h3, h4]

/-- The hint LU changes the claims of a frond and its latest WALK carrel alone. -/
theorem lastUse_shape (h : Hints) (f : Frond) : ∃ a b, ∀ g : Frond, g.claims = f.claims → g.lastWalk = f.lastWalk →
    lastUse h g = { g with claims := a, lastWalk := b } := by
  by_cases hl : h.lu = true
  · cases e : f.lastWalk with
    | none => exact ⟨f.claims, none, fun g h1 h2 => by
        unfold lastUse; rw [if_pos hl, h2]; cases g; simp_all⟩
    | some k => exact ⟨f.claims.filter (fun x => x != k), none, fun g h1 h2 => by
        unfold lastUse; rw [if_pos hl, h2, h1]⟩
  · exact ⟨f.claims, f.lastWalk, fun g h1 h2 => by
      unfold lastUse; rw [if_neg hl]; cases g; simp_all⟩

/-- What becomes of a frond whose word completes in sequence: `moves` says it whole. -/
theorem answer_complete (s : State) (f : Frond) (h : Hints) (w : Nat) :
    answer (complete s f h none w).1 (complete s f h none w).2 = moves s f h w := by
  obtain ⟨a, b, hs⟩ := lastUse_shape h f
  unfold complete moves retired answer
  rw [hs { f with errWait := false } rfl rfl]
  unfold advance endsPass
  dsimp only
  cases e : f.loops.getLast? with
  | none => rfl
  | some l =>
    dsimp only
    cases h1 : (f.hnd && decide (f.loops.length ≤ f.entryDepth)) with
    | true =>
      simp only [Bool.true_or, if_true, Bool.not_true, Bool.false_and]
      rfl
    | false =>
      by_cases h2 : f.pc = (l.start + 12 * (l.blen - 1)) % 2 ^ 56
      · have h3 : (f.pc == (l.start + 12 * (l.blen - 1)) % 2 ^ 56) = true := by simpa using h2
        have h4 : (f.pc != (l.start + 12 * (l.blen - 1)) % 2 ^ 56) = false := by simpa using h2
        simp only [h3, h4, Bool.or_self, Bool.false_eq_true, if_false, Bool.not_false, Bool.and_self]
        by_cases h5 : l.while_ = false ∧ l.count ≤ l.pass
        · have h6 : (!l.while_ && decide (l.count ≤ l.pass)) = true := by simp [h5]
          rw [if_pos h6, if_pos h5, hs { f with loops := f.loops.dropLast, errWait := false } rfl rfl]; rfl
        · have h6 : (!l.while_ && decide (l.count ≤ l.pass)) = false := by
            cases hw : l.while_ <;> simp_all
          rw [h6, if_neg h5]
          simp only [Bool.false_eq_true, if_false]
          by_cases h7 : l.pass = l.maxt
          · rw [if_pos h7, if_neg (by simpa using h7)]
            rw [hs { f with loops := f.loops.dropLast, errWait := false } rfl rfl]
            simp [nextPc]
          · rw [if_neg h7, if_pos h7]
            rw [hs { f with loops := f.loops.dropLast ++ [{ l with pass := l.pass + 1 }], errWait := false } rfl rfl]
      · have h3 : (f.pc == (l.start + 12 * (l.blen - 1)) % 2 ^ 56) = false := by simpa using h2
        have h4 : (f.pc != (l.start + 12 * (l.blen - 1)) % 2 ^ 56) = true := by simpa using h2
        simp only [h3, h4, Bool.false_or, if_true, Bool.and_false]
        rfl

theorem complete_to (s : State) (f : Frond) (h : Hints) (w pc : Nat) :
    complete s f h (some pc) w = (s, switchMark h { lastUse h { f with errWait := false } with pc := pc }) := rfl

/-- A word that does not end a pass of a hardware loop moves on to the next word. -/
theorem moves_plain (t : State) (g : Frond) (h : Hints) (w : Nat) (hl : endsPass g = false) :
    moves t g h w = .next (retired t g h (nextPc g)) := by
  unfold moves; rw [hl]

/-- The machine beside a frond whose word has issued. -/
theorem answer_def (s : State) (f : Frond) : answer s f = .next (refreshSpent { s with issuing := some f } f.pcid) := rfl

/-- The frond after the body of a word: a word that roots it has (R34). -/
def rootedBy (r : Req) (g : Frond) : Frond := if r.roots then { g with rooted := true } else g

@[simp] theorem rootedBy_off (r : Req) (g : Frond) (h : r.roots = false) : rootedBy r g = g := by
  unfold rootedBy; rw [h]; rfl

theorem rootedBy_held (r : Req) (g : Frond) : (rootedBy r g).held = g.held := by unfold rootedBy; split <;> rfl
theorem rootedBy_heldH (r : Req) (g : Frond) : (rootedBy r g).heldH = g.heldH := by unfold rootedBy; split <;> rfl

/-- A word whose body completes in sequence. -/
theorem runWord_seq (r : Req) (body : M Next) (s : State) (f g : Frond) (s' : State) (fl : BitVec 7)
    (hi : AtIssue s f r.h)
    (hr : ExceptT.run (admitted r body) { f := f, s := aside s, flags := 0 }
      = (.ok .seq, { f := g, s := s', flags := fl }))
    (hh : g.held = []) (hk : g.heldH = []) :
    runWord r body s
      = moves (notOwed (if r.vec then usePipe s' f else s') f) (raiseFlags (rootedBy r g) fl) r.h (wordOf s f) := by
  obtain ⟨h1, h2, h3, h5, h6⟩ := hi
  have hg : (f.pred r.h.gq.toNat == r.h.gn) = false := by simpa using h2
  have hu : useHeld f.hnd (raiseFlags (rootedBy r g) fl) = raiseFlags (rootedBy r g) fl :=
    useHeld_nil _ _ ((rootedBy_held r g).trans hh) ((rootedBy_heldH r g).trans hk)
  unfold aside at hr
  unfold runWord
  simp only [h1, discardHeld_nil _ _ h5 h6, h3, hg, flagIf, Bool.false_eq_true, if_false]
  erw [hr]
  unfold rootedBy at hu ⊢
  simp only [finish, hu]
  exact answer_complete _ _ _ _

/-- A word whose body transfers. -/
theorem runWord_to (r : Req) (body : M Next) (s : State) (f g : Frond) (s' : State) (fl : BitVec 7) (pc : Nat)
    (hi : AtIssue s f r.h)
    (hr : ExceptT.run (admitted r body) { f := f, s := aside s, flags := 0 }
      = (.ok (.to pc), { f := g, s := s', flags := fl }))
    (hh : g.held = []) (hk : g.heldH = []) :
    runWord r body s
      = .next (retired (notOwed (if r.vec then usePipe s' f else s') f) (raiseFlags (rootedBy r g) fl) r.h pc) := by
  obtain ⟨h1, h2, h3, h5, h6⟩ := hi
  have hg : (f.pred r.h.gq.toNat == r.h.gn) = false := by simpa using h2
  have hu : useHeld f.hnd (raiseFlags (rootedBy r g) fl) = raiseFlags (rootedBy r g) fl :=
    useHeld_nil _ _ ((rootedBy_held r g).trans hh) ((rootedBy_heldH r g).trans hk)
  unfold aside at hr
  unfold runWord
  simp only [h1, discardHeld_nil _ _ h5 h6, h3, hg, flagIf, Bool.false_eq_true, if_false]
  erw [hr]
  unfold rootedBy at hu ⊢
  simp only [finish, hu]
  rw [complete_to]
  rfl

/-- A word whose body waits for flight `id`. -/
theorem runWord_block (r : Req) (body : M Next) (s : State) (f g : Frond) (s' : State) (fl : BitVec 7) (id : Nat)
    (hi : AtIssue s f r.h)
    (hr : ExceptT.run (admitted r body) { f := f, s := aside s, flags := 0 }
      = (.ok (.block id), { f := g, s := s', flags := fl })) :
    runWord r body s = answer (notOwed (if r.vec then usePipe s' f else s') f)
      { raiseFlags (rootedBy r g) fl with
          wait := .port id
          since := (notOwed (if r.vec then usePipe s' f else s') f).clk } := by
  obtain ⟨h1, h2, h3, h5, h6⟩ := hi
  have hg : (f.pred r.h.gq.toNat == r.h.gn) = false := by simpa using h2
  unfold aside at hr
  unfold runWord
  simp only [h1, discardHeld_nil _ _ h5 h6, h3, hg, flagIf, Bool.false_eq_true, if_false]
  erw [hr]
  rfl

/-- A word whose body stops. -/
theorem runWord_stop (r : Req) (body : M Next) (s : State) (f : Frond) (c : Ctx) (st : Stop) (hi : AtIssue s f r.h)
    (hr : ExceptT.run (admitted r body) { f := f, s := aside s, flags := 0 } = (.error st, c)) :
    runWord r body s = answer (stopped c.s (keepTaken f c.f) st ((fetchedWord (aside s) f).getD 0)).1
      (stopped c.s (keepTaken f c.f) st ((fetchedWord (aside s) f).getD 0)).2 := by
  obtain ⟨h1, h2, h3, h5, h6⟩ := hi
  have hg : (f.pred r.h.gq.toNat == r.h.gn) = false := by simpa using h2
  unfold aside at hr
  unfold runWord
  simp only [h1, discardHeld_nil _ _ h5 h6, h3, hg, flagIf, Bool.false_eq_true, if_false]
  erw [hr]
  rfl

/-- A word whose body traps before it has taken anything. -/
theorem runWord_trap (r : Req) (body : M Next) (s : State) (f : Frond) (code info : Nat) (hi : AtIssue s f r.h)
    (hr : ExceptT.run (admitted r body) { f := f, s := aside s, flags := 0 }
      = (.error (.trap code info), { f := f, s := aside s, flags := 0 })) :
    runWord r body s = traps s f code info := by
  rw [runWord_stop r body s f _ _ hi hr]
  rfl

/-- A word with a false guard retires: nothing but the hints acts, the rooting of a word of group 0xA, and HAZ when
the guard was outstanding (R98). -/
theorem runWord_false (r : Req) (body : M Next) (s : State) (f : Frond) (h1 : s.issuing = some f)
    (h2 : f.pred r.h.gq.toNat = r.h.gn) (h5 : f.held = []) (h6 : f.heldH = []) (hr : r.grp ≠ 0xA) :
    runWord r body s
      = completes s f (raiseFlags f (flagIf (outPred f r.h.gq.toNat) flagHAZ)) r.h := by
  unfold runWord
  simp only [h1, discardHeld_nil _ _ h5 h6, h2, BEq.rfl, if_true, if_neg hr]
  exact answer_complete _ _ _ _

/-- Phase 4 passes, and the body of a word runs, when its fields are admitted and it asks for no more. -/
theorem run_admitted (r : Req) (body : M Next) (c : Ctx) (hp : r.priv = false) (hf : r.feats = [])
    (hv : r.vec = false) (hg : (accessGroup r.grp && acquiring c.s c.f.uid) = false)
    (hx : ∀ x ∈ r.fields, fieldReason c.s c.f x = none) :
    ExceptT.run (admitted r body) c = ExceptT.run body c := by
  unfold admitted
  simp only [hp, hf, hv, Bool.false_and, checkFeatures, Bool.false_eq_true, if_false]
  rw [run_bind, run_get]
  dsimp only
  rw [run_bind, run_trapIf]
  simp only [Bool.false_eq_true, if_false]
  rw [run_bind, run_pure]
  dsimp only
  rw [run_bind, run_checkFields _ _ hx]
  dsimp only
  rw [run_bind, run_stallIf, hg]
  rfl

/-- A field of a word of no vector unit is refused. -/
theorem run_checkFields_stop (fs gs : List Field) (x : Field) (c : Ctx) (n : Nat)
    (h : ∀ y ∈ fs, fieldReason c.s c.f y = none) (hx : fieldReason c.s c.f x = some n) :
    ExceptT.run (checkFields (fs ++ x :: gs)) c
      = (.error (.trap causeOPERAND (operandInfo n x.pos x.value.toNat)), c) := by
  induction fs with
  | nil =>
    show ExceptT.run (checkFields (x :: gs)) c = _
    unfold checkFields
    rw [run_bind, run_get]
    dsimp only
    rw [hx]
    rfl
  | cons y ys ih =>
    show ExceptT.run (checkFields (y :: (ys ++ x :: gs))) c = _
    unfold checkFields
    rw [run_bind, run_get]
    dsimp only
    rw [h y (by simp)]
    exact ih (fun z hz => h z (by simp [hz]))

/-- A word that asks for no more than its fields and completes in sequence. -/
theorem word_seq (r : Req) (body : M Next) (s : State) (f g : Frond) (s' : State) (fl : BitVec 7)
    (hi : AtIssue s f r.h) (hp : r.priv = false) (hf : r.feats = []) (hr : r.roots = false) (hv : r.vec = false)
    (hg : (accessGroup r.grp && acquiring (aside s) f.uid) = false)
    (hx : ∀ x ∈ r.fields, fieldReason (aside s) f x = none)
    (hb : ExceptT.run body { f := f, s := aside s, flags := 0 } = (.ok .seq, { f := g, s := s', flags := fl }))
    (hh : g.held = []) (hk : g.heldH = []) :
    runWord r body s = moves (notOwed s' f) (raiseFlags g fl) r.h (wordOf s f) := by
  rw [runWord_seq r body s f g s' fl hi ((run_admitted r body _ hp hf hv hg hx).trans hb) hh hk, hv, rootedBy_off r g hr]
  rfl

/-- A word that asks for no more than its fields and transfers. -/
theorem word_to (r : Req) (body : M Next) (s : State) (f g : Frond) (s' : State) (fl : BitVec 7) (pc : Nat)
    (hi : AtIssue s f r.h) (hp : r.priv = false) (hf : r.feats = []) (hr : r.roots = false) (hv : r.vec = false)
    (hg : (accessGroup r.grp && acquiring (aside s) f.uid) = false)
    (hx : ∀ x ∈ r.fields, fieldReason (aside s) f x = none)
    (hb : ExceptT.run body { f := f, s := aside s, flags := 0 } = (.ok (.to pc), { f := g, s := s', flags := fl }))
    (hh : g.held = []) (hk : g.heldH = []) :
    runWord r body s = .next (retired (notOwed s' f) (raiseFlags g fl) r.h pc) := by
  rw [runWord_to r body s f g s' fl pc hi ((run_admitted r body _ hp hf hv hg hx).trans hb) hh hk, hv, rootedBy_off r g hr]
  rfl

/-- A word that asks for no more than its fields and traps. -/
theorem word_trap (r : Req) (body : M Next) (s : State) (f : Frond) (code info : Nat)
    (hi : AtIssue s f r.h) (hp : r.priv = false) (hf : r.feats = []) (hv : r.vec = false)
    (hg : (accessGroup r.grp && acquiring (aside s) f.uid) = false)
    (hx : ∀ x ∈ r.fields, fieldReason (aside s) f x = none)
    (hb : ExceptT.run body { f := f, s := aside s, flags := 0 }
      = (.error (.trap code info), { f := f, s := aside s, flags := 0 })) :
    runWord r body s = traps s f code info :=
  runWord_trap r body s f code info hi ((run_admitted r body _ hp hf hv hg hx).trans hb)

/-! ## The scalar forms -/

/-- Flags change no register and no outstanding result. -/
theorem dstOk_raiseFlags (f : Frond) (d : Opnd) (b : BitVec 7) : dstOk (raiseFlags f b) d = dstOk f d := rfl

/-- A word of group 0x0 with two sources. -/
theorem alu2_ok (h : Hints) (w : Bool) (d a : Opnd) (b : SrcB) (val : Nat → Nat → Nat → Nat × BitVec 7) (s : State)
    (f : Frond) (x y : Word) (hi : AtIssue s f h) (hd : dstOk f d = true)
    (ha : srcVal s f a = some x) (hb : srcValB s f b = some y) :
    alu2 h w d a b val s = completes s f
      (putDst (raiseFlags f (val (widthOf w) (Nat.low x.toNat (widthOf w)) (Nat.low y.toNat (widthOf w))).2) d
        (extendTo64 (widthOf w) (val (widthOf w) (Nat.low x.toNat (widthOf w)) (Nat.low y.toNat (widthOf w))).1)) h := by
  unfold alu2
  rw [word_seq _ _ s f (putDst (raiseFlags f (val (widthOf w) (Nat.low x.toNat (widthOf w))
      (Nat.low y.toNat (widthOf w))).2) d _) (aside s) 0 hi rfl rfl rfl rfl (by simp [accessGroup]) ?_ ?_
    ((putDst_held _ d _).trans hi.held) ((putDst_heldH _ d _).trans hi.heldH)]
  · rw [raiseFlags_zero]; rfl
  · intro z hz
    rcases List.mem_cons.mp hz with rfl | hz
    · exact fieldReason_gw _ f 0 d hd
    · rcases List.mem_cons.mp hz with rfl | hz
      · exact fieldReason_g s f 1 a x ha
      · exact fieldSrc_ok s f b y hb z hz
  · simp only [run_bind, run_readG s f 0 1 a x ha, run_readB s f 0 b y hb, run_raiseNow,
      run_writeG _ _ _ _ _ ((dstOk_raiseFlags f d _).trans hd), run_pure]

/-- A word of group 0x0 with one source. -/
theorem alu1_ok (h : Hints) (w : Bool) (d a : Opnd) (val : Nat → Nat → Nat) (s : State) (f : Frond) (x : Word)
    (hi : AtIssue s f h) (hd : dstOk f d = true) (ha : srcVal s f a = some x) :
    alu1 h w d a val s = completes s f
      (putDst f d (extendTo64 (widthOf w) (val (widthOf w) (Nat.low x.toNat (widthOf w))))) h := by
  unfold alu1
  rw [word_seq _ _ s f _ (aside s) 0 hi rfl rfl rfl rfl (by simp [accessGroup]) ?_ ?_
    ((putDst_held f d _).trans hi.held) ((putDst_heldH f d _).trans hi.heldH)]
  · rw [raiseFlags_zero]; rfl
  · intro z hz
    rcases List.mem_cons.mp hz with rfl | hz
    · exact fieldReason_gw _ f 0 d hd
    · rw [List.mem_singleton.mp hz]
      exact fieldReason_g s f 1 a x ha
  · simp only [run_bind, run_readG s f 0 1 a x ha, run_writeG _ _ _ _ _ hd, run_pure]

/-! ## Vector words -/

/-- A free pipe takes a vector word. -/
theorem run_findPipe (c : Ctx) (h1 : pipeRefuses (getCore c.s c.f.pcid) c.s.clk (slotNum c.f) = false)
    (h2 : c.s.pacing = false ∨ c.f.urgent = true) : ExceptT.run findPipe c = (.ok (), c) := by
  have h3 : (c.s.pacing && !c.f.urgent) = false := by rcases h2 with h | h <;> simp [h]
  unfold findPipe pacingRefuses
  simp only [run_bind, run_get, run_pure, h3, h1, Bool.or_false, Bool.false_eq_true, if_false]

/-- A feature bit that the core has. -/
theorem run_feature (b : Nat) (bs : List Nat) (c : Ctx)
    (h : (featBits c.s c.f.pcid c.f.jid c.f.urgent).toNat.testBit b = true) :
    ExceptT.run (checkFeatures (b :: bs)) c = ExceptT.run (checkFeatures bs) c := by
  conv => lhs; unfold checkFeatures
  rw [run_bind, run_get]
  dsimp only
  rw [run_ite, if_pos h]

/-- Phase 4 passes, and the body of a vector word runs, when its fields are admitted and the pipe is free. -/
theorem run_admitted_vec (h : Hints) (grp : Nat) (fs : List Field) (body : M Next) (s : State) (f : Frond)
    (hv : VectorReady s f) (hg : accessGroup grp = false) (hx : ∀ x ∈ fs, fieldReason (aside s) f x = none) :
    ExceptT.run (admitted (vectorReq h grp fs) body) { f := f, s := aside s, flags := 0 }
      = ExceptT.run body { f := f, s := aside s, flags := 0 } := by
  obtain ⟨h1, h2, h3⟩ := hv
  have h4 : ∀ c : Ctx, ExceptT.run (checkFeatures []) c = (.ok (), c) := fun _ => rfl
  have h5 := run_feature 1 [] { f := f, s := aside s, flags := 0 } h1
  have h6 := run_checkFields fs { f := f, s := aside s, flags := 0 } hx
  have h7 := run_findPipe { f := f, s := aside s, flags := 0 } h2 h3
  unfold admitted vectorReq
  simp only [run_bind, run_get, run_trapIf, Bool.false_and, Bool.false_eq_true, if_false, h5, h4, h6,
    run_stallIf, hg, if_true, h7]

/-- A vector word that completes in sequence. -/
theorem word_vec (h : Hints) (grp : Nat) (fs : List Field) (body : M Next) (s : State) (f g : Frond) (fl : BitVec 7)
    (hi : AtIssue s f h) (hv : VectorReady s f) (hg : accessGroup grp = false)
    (hx : ∀ x ∈ fs, fieldReason (aside s) f x = none)
    (hb : ExceptT.run body { f := f, s := aside s, flags := 0 }
      = (.ok .seq, { f := g, s := aside s, flags := fl }))
    (hh : g.held = []) (hk : g.heldH = []) :
    runWord (vectorReq h grp fs) body s = completesVec s f (raiseFlags g fl) h := by
  rw [runWord_seq (vectorReq h grp fs) body s f g (aside s) fl hi
    ((run_admitted_vec h grp fs body s f hv hg hx).trans hb) hh hk]
  rfl

theorem run_readVBits (s : State) (f : Frond) (fl : BitVec 7) (pos : Nat) (o : Opnd) (x : Nat)
    (h : srcVec f o = some x) :
    ExceptT.run (readVBits pos o) { f := f, s := s, flags := fl } = (.ok x, { f := f, s := s, flags := fl }) := by
  unfold readVBits
  unfold srcVec at h
  rw [run_bind, run_getF]
  dsimp only
  cases e : operandOf o with
  | vec n =>
    simp only [e] at h ⊢
    split at h
    · rename_i hn
      simp only [Option.some.injEq] at h
      simp only [hazard, hn.2, Bool.false_eq_true, if_false, run_bind, run_pure, h]
    · cases h
  | imm y => simp only [e, Option.some.injEq] at h ⊢; rw [h, run_pure]
  | zero => simp only [e, Option.some.injEq] at h ⊢; rw [← h, run_pure]
  | _ => simp [e] at h

theorem run_readV (s : State) (f : Frond) (fl : BitVec 7) (pos : Nat) (o : Opnd) (x : Nat)
    (h : srcVec f o = some x) :
    ExceptT.run (readV pos o) { f := f, s := s, flags := fl } = (.ok (lanesOf x), { f := f, s := s, flags := fl }) := by
  unfold readV
  rw [run_bind, run_readVBits s f fl pos o x h]
  rfl

/-- Lane `l` of the 512 bits made of lanes. -/
theorem ofLanes_lane (ls : List Nat) : ∀ l, l < ls.length →
    ofLanes ls / 2 ^ (32 * l) % 2 ^ 32 = ls.getD l 0 % 2 ^ 32 := by
  induction ls with
  | nil => intro l hl; simp at hl
  | cons x xs ih =>
    intro l hl
    cases l with
    | zero =>
      show (x % 2 ^ 32 + 2 ^ 32 * ofLanes xs) / 2 ^ (32 * 0) % 2 ^ 32 = x % 2 ^ 32
      omega
    | succ l =>
      have h1 := ih l (by simpa using hl)
      have h2 : 2 ^ (32 * (l + 1)) = 2 ^ 32 * 2 ^ (32 * l) := by
        rw [← Nat.pow_add]; congr 1; omega
      show (x % 2 ^ 32 + 2 ^ 32 * ofLanes xs) / 2 ^ (32 * (l + 1)) % 2 ^ 32 = xs.getD l 0 % 2 ^ 32
      rw [h2, ← Nat.div_div_eq_div_mul, show (x % 2 ^ 32 + 2 ^ 32 * ofLanes xs) / 2 ^ 32 = ofLanes xs by omega]
      exact h1

theorem lanesOf_replicate (n : Nat) (h : n < 2 ^ 32) : lanesOf (ofLanes (List.replicate 16 n)) = List.replicate 16 n := by
  apply List.ext_getElem
  · simp [lanesOf]
  · intro i h1 h2
    have h3 : i < 16 := by simpa [lanesOf] using h1
    have h4 := ofLanes_lane (List.replicate 16 n) i (by simpa using h3)
    simp only [lanesOf, List.getElem_map, List.getElem_range, List.getElem_replicate]
    unfold Nat.field
    rw [h4, List.getD_eq_getElem?_getD, List.getElem?_replicate, if_pos h3]
    exact Nat.mod_eq_of_lt h

theorem run_readVB (s : State) (f : Frond) (fl : BitVec 7) (b : SrcB) (x : Nat) (h : srcVecB f b = some x) :
    ExceptT.run (readVB b) { f := f, s := s, flags := fl } = (.ok (lanesOf x), { f := f, s := s, flags := fl }) := by
  cases b with
  | fld o => exact run_readV s f fl 2 o x h
  | wide i =>
    simp only [srcVecB, Option.some.injEq] at h
    subst h
    rw [lanesOf_replicate _ i.isLt]
    rfl

theorem run_writeV (s : State) (f : Frond) (fl : BitVec 7) (o : Opnd) (ls : List Nat) (h : dstVecOk f o = true) :
    ExceptT.run (writeV o ls) { f := f, s := s, flags := fl }
      = (.ok (), { f := putVec f o (ofLanes ls), s := s, flags := fl }) := by
  unfold writeV
  unfold dstVecOk at h
  rw [run_bind, run_getF]
  unfold putVec
  dsimp only
  cases e : operandOf o with
  | vec n =>
    simp only [e, Bool.and_eq_true, Bool.not_eq_true'] at h ⊢
    simp only [hazard, h.2, Bool.false_eq_true, if_false, run_bind, run_pure, run_modF]
  | zero => rfl
  | _ => simp [e] at h

theorem fieldReason_v (s : State) (f : Frond) (pos : Nat) (o : Opnd) (x : Nat) (h : srcVec f o = some x) :
    fieldReason s f { pos := pos, kind := .v, value := o } = none := by
  show vectorReason s f o true false = none
  unfold srcVec at h; unfold vectorReason
  cases e : operandOf o with
  | vec n =>
    simp only [e] at h ⊢
    split at h
    · rw [if_neg (by omega)]
    · cases h
  | imm y => rfl
  | zero => rfl
  | _ => simp [e] at h

theorem fieldReason_vw (s : State) (f : Frond) (pos : Nat) (o : Opnd) (h : dstVecOk f o = true) :
    fieldReason s f { pos := pos, kind := .vw, value := o } = none := by
  show vectorReason s f o false true = none
  unfold dstVecOk at h; unfold vectorReason
  cases e : operandOf o <;> simp_all

theorem fieldReason_vrw (s : State) (f : Frond) (pos : Nat) (o : Opnd) (x : Nat) (h : dstVecOk f o = true)
    (_h2 : srcVec f o = some x) :
    fieldReason s f { pos := pos, kind := .vrw, value := o } = none := by
  show vectorReason s f o true true = none
  unfold dstVecOk at h; unfold vectorReason
  unfold srcVec at _h2
  cases e : operandOf o <;> simp_all

theorem fieldSrc_vec (s : State) (f : Frond) (b : SrcB) (y : Nat) (h : srcVecB f b = some y) :
    ∀ x ∈ fieldSrc .v b, fieldReason s f x = none := by
  cases b with
  | fld o =>
    intro x hx
    rw [List.mem_singleton.mp hx]
    exact fieldReason_v s f 2 o y h
  | wide i => intro x hx; cases hx

/-- What writing registers keeps. -/
theorem setVreg_keeps {α : Type} (p : Frond → α) (hp : ∀ f n x, p (f.setReg n x) = p f) (f : Frond) (n x : Nat) :
    p (f.setVreg n x) = p f := by
  unfold Frond.setVreg
  generalize List.range 8 = l
  induction l generalizing f with
  | nil => rfl
  | cons i is ih => exact (ih _).trans (hp f _ _)

section

variable (f : Frond) (o : Opnd) (x : Nat)

theorem putVec_keeps {α : Type} (p : Frond → α) (hp : ∀ f n y, p (f.setReg n y) = p f) : p (putVec f o x) = p f := by
  unfold putVec
  split
  · exact setVreg_keeps p hp f _ x
  · rfl

@[simp] theorem putVec_pc : (putVec f o x).pc = f.pc := putVec_keeps f o x Frond.pc (fun _ _ _ => rfl)
@[simp] theorem putVec_pcid : (putVec f o x).pcid = f.pcid := putVec_keeps f o x Frond.pcid (fun _ _ _ => rfl)
@[simp] theorem putVec_loops : (putVec f o x).loops = f.loops := putVec_keeps f o x Frond.loops (fun _ _ _ => rfl)
@[simp] theorem putVec_held : (putVec f o x).held = f.held := putVec_keeps f o x Frond.held (fun _ _ _ => rfl)
@[simp] theorem putVec_heldH : (putVec f o x).heldH = f.heldH := putVec_keeps f o x Frond.heldH (fun _ _ _ => rfl)
@[simp] theorem putVec_hnd : (putVec f o x).hnd = f.hnd := putVec_keeps f o x Frond.hnd (fun _ _ _ => rfl)
@[simp] theorem putVec_preds : (putVec f o x).preds = f.preds := putVec_keeps f o x Frond.preds (fun _ _ _ => rfl)
@[simp] theorem putVec_flags : (putVec f o x).flags = f.flags := putVec_keeps f o x Frond.flags (fun _ _ _ => rfl)
@[simp] theorem putVec_outs : (putVec f o x).outs = f.outs := putVec_keeps f o x Frond.outs (fun _ _ _ => rfl)
@[simp] theorem putVec_entryDepth : (putVec f o x).entryDepth = f.entryDepth :=
  putVec_keeps f o x Frond.entryDepth (fun _ _ _ => rfl)

end

/-- An integer vector word with two sources. -/
theorem vector2_ok (h : Hints) (d a : Opnd) (b : SrcB) (op : List Nat → List Nat → List Nat) (s : State) (f : Frond)
    (x y : Nat) (hi : AtIssue s f h) (hv : VectorReady s f) (hd : dstVecOk f d = true)
    (ha : srcVec f a = some x) (hb : srcVecB f b = some y) :
    vector2 h d a b op s = completesVec s f (putVec f d (ofLanes (op (lanesOf x) (lanesOf y)))) h := by
  unfold vector2
  rw [word_vec h 5 _ _ s f _ 0 hi hv (by simp [accessGroup]) ?_ ?_
    ((putVec_held f d _).trans hi.held) ((putVec_heldH f d _).trans hi.heldH), raiseFlags_zero]
  · intro z hz
    rcases List.mem_cons.mp hz with rfl | hz
    · exact fieldReason_vw _ f 0 d hd
    · rcases List.mem_cons.mp hz with rfl | hz
      · exact fieldReason_v _ f 1 a x ha
      · exact fieldSrc_vec _ f b y hb z hz
  · simp only [run_bind, run_readV _ f 0 1 a x ha, run_readVB _ f 0 b y hb, run_writeV _ _ _ _ _ hd, run_pure]

/-- A binary32 vector word with two sources. -/
theorem vfloat2_ok (h : Hints) (d a : Opnd) (b : SrcB) (op : Nat → Nat → Nat → Nat → FRes) (s : State) (f : Frond)
    (x y : Nat) (hi : AtIssue s f h) (hv : VectorReady s f) (hd : dstVecOk f d = true)
    (ha : srcVec f a = some x) (hb : srcVecB f b = some y) :
    let r := floatLanes2 (fun l => op (randomWord (aside s) f l) (cidOf (aside s) f)) (lanesOf x) (lanesOf y)
    vfloat2 h d a b op s = completesVec s f (raiseFlags (putVec f d (ofLanes r.1)) r.2) h := by
  intro r
  unfold vfloat2
  rw [word_vec h 6 _ _ s f _ r.2 hi hv (by simp [accessGroup]) ?_ ?_
    ((putVec_held f d _).trans hi.held) ((putVec_heldH f d _).trans hi.heldH)]
  · intro z hz
    rcases List.mem_cons.mp hz with rfl | hz
    · exact fieldReason_vw _ f 0 d hd
    · rcases List.mem_cons.mp hz with rfl | hz
      · exact fieldReason_v _ f 1 a x ha
      · exact fieldSrc_vec _ f b y hb z hz
  · simp only [run_bind, run_readV _ f 0 1 a x ha, run_readVB _ f 0 b y hb, run_writeV _ _ _ _ _ hd, run_pure,
      floatEnv, run_get, run_setFlags]
    simp [r, randomWord]

end Sys2Proof.Machine
end

