-- ==== Sys2Proof/Laws/Start.lean ====
section
/-! SUPPORT. The laws of the operations that a word shares with others: starting an access, waiting for a release, and
the answers of a word that blocks or stalls. -/

namespace Sys2Proof.Machine

/-! ## Accesses that a word starts -/

/-- A body that gives an answer, as a run. -/
theorem run_of_gives {α} {m : M α} {c a c'} (h : Gives m c a c') : ExceptT.run m c = (.ok a, c') := h

/-- A store that finds its clock free goes on. -/
theorem run_waitClock_of {es : List Elem} {c : Ctx} (h : Gives (waitClock es) c () c) :
    ExceptT.run (waitClock es) c = (.ok (), c) := h

/-- A destination that no outstanding result owns is marked. -/
theorem run_markOut_ok (f : Frond) (s : State) (fl : BitVec 7) (id : Nat) (d : Dest)
    (h : (match d with | .g n => outReg f n | .v n => outVec f n | .q n => outPred f n | _ => false) = false) :
    ExceptT.run (markOut id d) { f := f, s := s, flags := fl }
      = (.ok (), { f := { f with outs := f.outs ++ [{ id := id, dest := d }] }, s := s, flags := fl }) := by
  unfold markOut
  cases d <;> simp_all only [run_bind, run_getF, hazard, Bool.false_eq_true, if_false, run_pure, run_modF]

/-- No outstanding result owns a destination. -/
abbrev DestFree (f : Frond) (d : Dest) : Prop :=
  (match d with | .g n => outReg f n | .v n => outVec f n | .q n => outPred f n | _ => false) = false

/-- A word that waits for its access holds its frond at the access. -/
theorem run_launch_wait (h : Hints) (x : Launch) (c : Ctx)
    (hw : x.op.writes = true → Gives (waitClock x.elems) c () c) :
    ExceptT.run (launch h true x) c
      = (.ok (.block (addFlight c.s c.f x (some h)).1), { c with s := (addFlight c.s c.f x (some h)).2 }) := by
  unfold launch
  cases e : x.op.writes with
  | true => simp only [run_bind, if_true, run_waitClock_of (hw e), run_get, run_modS, run_pure]
  | false => simp only [run_bind, if_true, Bool.false_eq_true, if_false, run_get, run_modS, run_pure]

/-- A word that does not wait leaves its access in flight and its result outstanding. -/
theorem run_launch_go (h : Hints) (x : Launch) (f : Frond) (s : State) (fl : BitVec 7)
    (hw : x.op.writes = true → Gives (waitClock x.elems) ⟨f, s, fl⟩ () ⟨f, s, fl⟩) (hd : DestFree f x.dest) :
    ExceptT.run (launch h false x) ⟨f, s, fl⟩
      = (.ok .seq, ⟨withResult f (addFlight s f x none).1 x.dest, (addFlight s f x none).2, fl⟩) := by
  have hm := run_markOut_ok f (addFlight s f x none).2 fl (addFlight s f x none).1 x.dest hd
  unfold launch
  unfold withResult
  cases e : x.op.writes with
  | true =>
    simp only [run_bind, if_true, run_waitClock_of (hw e), run_get, run_modS, Bool.false_eq_true, if_false,
      run_ite, run_pure]
    by_cases hn : x.dest = .none
    · simp [hn]
    · simp only [ne_eq, hn, not_false_eq_true, if_true, if_false]; erw [hm]
  | false =>
    simp only [run_bind, run_get, run_modS, Bool.false_eq_true, if_false, run_ite, run_pure]
    by_cases hn : x.dest = .none
    · simp [hn]
    · simp only [ne_eq, hn, not_false_eq_true, if_true, if_false]; erw [hm]

/-- A word that waits at the port notes the carrel of its latest block, and does nothing else. -/
theorem run_atPort (bs : List Nat) (f : Frond) (s : State) :
    ∃ k, ExceptT.run (atPort bs) ⟨f, s, 0⟩ = (.ok true, ⟨{ f with lastWalk := k }, s, 0⟩) :=
  ⟨_, by unfold atPort; rw [run_bind, run_get]; dsimp only; rw [run_bind, run_modF]; rfl⟩

/-- What the request of a word can do: the frond waits and only the carrel that it names last has changed, or its claims
have too. -/
theorem run_serveWalk (h : Hints) (es : List Elem) (f : Frond) (s : State) (wait : Bool) (c : Ctx)
    (hs : Gives (serveWalk h es) ⟨f, s, 0⟩ wait c) :
    c.flags = 0 ∧ (wait = true → ∃ k, c = ⟨{ f with lastWalk := k }, s, 0⟩) ∧ c.f.held = f.held ∧ c.f.heldH = f.heldH ∧
      c.f.pcid = f.pcid ∧ c.f.outs = f.outs ∧ c.f.uid = f.uid ∧ c.f.g = f.g ∧ c.f.regs = f.regs := by
  have port : ∀ bs, ExceptT.run (atPort bs) ⟨f, s, 0⟩ = (.ok wait, c) →
      c.flags = 0 ∧ (wait = true → ∃ k, c = ⟨{ f with lastWalk := k }, s, 0⟩) ∧ c.f.held = f.held ∧ c.f.heldH = f.heldH ∧
        c.f.pcid = f.pcid ∧ c.f.outs = f.outs ∧ c.f.uid = f.uid ∧ c.f.g = f.g ∧ c.f.regs = f.regs := by
    intro bs h
    obtain ⟨k, e⟩ := run_atPort bs f s
    rw [e] at h
    cases h
    exact ⟨rfl, fun _ => ⟨k, rfl⟩, rfl, rfl, rfl, rfl, rfl, rfl, rfl⟩
  unfold Gives serveWalk at hs
  rw [run_bind, run_get] at hs
  dsimp only at hs
  split at hs
  · rw [run_pure] at hs; cases hs; simp
  · rw [run_ite] at hs
    split at hs
    · exact port _ hs
    · rw [run_bind] at hs
      split at hs
      · rename_i he
        rw [run_pure] at hs
        cases hs
        unfold admitBlock at he
        rw [run_bind, run_get] at he
        dsimp only at he
        split at he
        · rw [run_pure] at he; cases he; simp
        · rw [run_ite] at he
          split at he
          · cases he
          · split at he
            · rw [run_bind, run_modF] at he; dsimp only at he; rw [run_modS] at he; cases he; simp
            · cases he
      · cases hs
  · exact port _ hs

/-- A word waits for room among its outstanding results, and has it. -/
theorem run_limitOuts (c : Ctx) (h : c.f.outs.length < 8) : ExceptT.run limitOuts c = (.ok (), c) := by
  unfold limitOuts
  rw [run_bind, run_getF]; dsimp only; rw [run_stallIf]; simp [show ¬ (8 ≤ c.f.outs.length) by omega]

/-- The one site of a scalar access. -/
theorem strided1 (a : Word) (disp : BitVec 32) : strided 1 (effective a disp) 0 = [(0, addressOf a disp)] := by
  have := (a + disp.signExtend 64).isLt
  simp [strided, effective, addressOf, List.range_succ]

/-- A load starts its access. -/
theorem startLoad_run (h : Hints) (m : MemFn) (d : Opnd) (vec piece : Bool) (sites) (c0 : Ctx) (es wait g t)
    (h1 : Gives (elementsOf m.mty.toNat m.raw m.l false none sites) c0 es c0)
    (h2 : Gives (serveWalk h es) c0 wait ⟨g, t, 0⟩) :
    ExceptT.run (startLoad h m d vec piece sites) c0 = ExceptT.run (launch h wait
      { path := pathCORE, op := .load m.mty.toNat vec, dest := destOf d, elems := es, piece := piece
        acq := if m.ord = 0 then none else some (m.ord.toNat - 1) }) ⟨g, t, 0⟩ := by
  unfold startLoad
  rw [run_bind, run_of_gives h1]; dsimp only; rw [run_bind, run_of_gives h2]; rfl

/-- A store starts its access. -/
theorem startStore_run (h : Hints) (m : MemFn) (piece : Bool) (val : Nat → Nat) (sites) (c0 : Ctx) (es wait g t)
    (h1 : Gives (elementsOf m.mty.toNat m.raw m.l true none sites) c0 es c0)
    (h2 : Gives (serveWalk h es) c0 wait ⟨g, t, 0⟩) :
    ExceptT.run (startStore h m piece val sites) c0 = ExceptT.run (launch h wait
      { path := pathCORE, op := .store, piece := piece, elems := es.map (fun e => { e with val := val e.lane }) })
        ⟨g, t, 0⟩ := by
  unfold startStore
  rw [run_bind, run_of_gives h1]; dsimp only; rw [run_bind, run_of_gives h2]; rfl

/-- What an access stores does not change what it waits for. -/
theorem waitClock_vals (val : Nat → Nat) (es : List Elem) :
    waitClock (es.map (fun e => { e with val := val e.lane })) = waitClock es := by
  unfold waitClock
  simp [Function.comp_def]

/-! ## Destinations of outstanding results -/

/-- A scalar destination of an outstanding result may be named. -/
theorem fieldReason_gres (s : State) (f : Frond) (pos : Nat) (o : Opnd) (h : resOk f o = true) :
    fieldReason s f { pos := pos, kind := .gres, value := o } = none := by
  unfold resOk at h; unfold fieldReason
  dsimp only
  cases e : operandOf o <;> simp_all

/-- A vector destination of an outstanding result may be named. -/
theorem fieldReason_vres (s : State) (f : Frond) (pos : Nat) (o : Opnd) (h : dstVecOk f o = true) :
    fieldReason s f { pos := pos, kind := .vres, value := o } = none := by
  unfold dstVecOk at h; unfold fieldReason
  dsimp only
  cases e : operandOf o <;> simp_all

/-- A scalar destination that may be named is free. -/
theorem destFree_res (f g : Frond) (o : Opnd) (h : resOk f o = true) (ho : g.outs = f.outs) :
    DestFree g (destOf o) := by
  unfold resOk at h; unfold DestFree destOf
  cases e : operandOf o <;> simp_all [outReg]

/-- A vector destination that may be named is free. -/
theorem destFree_vec (f g : Frond) (o : Opnd) (h : dstVecOk f o = true) (ho : g.outs = f.outs) :
    DestFree g (destOf o) := by
  unfold dstVecOk at h; unfold DestFree destOf
  cases e : operandOf o <;> simp_all [outVec]

/-- A scalar destination that is also read may be named. -/
theorem fieldReason_gresRead (s : State) (f : Frond) (pos : Nat) (o : Opnd) (h : resOk f o = true) :
    fieldReason s f { pos := pos, kind := .gresRead, value := o } = none := by
  unfold resOk at h; unfold fieldReason
  dsimp only
  unfold onlyReason
  cases e : operandOf o <;> simp_all

/-! ## Releases -/

/-- A release whose condition holds goes on. -/
theorem run_waitRelease (on : Nat → Bool) (scope : Nat) (s : State) (f : Frond) (h : Released s f on scope) :
    ExceptT.run (waitRelease on scope) ⟨f, aside s, 0⟩ = (.ok (), ⟨f, aside s, 0⟩) := by
  unfold waitRelease
  rw [run_bind, run_get]; dsimp only; rw [run_stallIf]
  simp [h.1, h.2]

/-- A release whose condition does not hold waits. -/
theorem run_waitRelease_no (on : Nat → Bool) (scope : Nat) (s : State) (f : Frond)
    (h : f.outs ≠ [] ∨ released (aside s) f.uid on scope = false) :
    ExceptT.run (waitRelease on scope) ⟨f, aside s, 0⟩ = (.error .stall, ⟨f, aside s, 0⟩) := by
  unfold waitRelease
  rw [run_bind, run_get]; dsimp only; rw [run_stallIf]
  rw [if_pos]
  rcases h with h | h
  · simp [h]
  · simp [h]

/-- The release of an order field whose condition holds goes on. -/
theorem run_releaseFor (m : BitVec 3) (s : State) (f : Frond) (h : m ≠ 0 → Released s f onCORE (m.toNat - 1)) :
    ExceptT.run (releaseFor m) ⟨f, aside s, 0⟩ = (.ok (), ⟨f, aside s, 0⟩) := by
  unfold releaseFor
  rw [show ordScope m = (if m = 0 then none else some (m.toNat - 1)) from rfl]
  by_cases hm : m = 0
  · rw [if_pos hm]; rfl
  · rw [if_neg hm]; exact run_waitRelease _ _ s f (h hm)

/-! ## Answers -/

/-- A word that blocks holds its frond at an access. -/
theorem word_block (r : Req) (body : M Next) (s : State) (f g : Frond) (s' : State) (fl : BitVec 7) (id : Nat)
    (hi : AtIssue s f r.h) (hp : r.priv = false) (hf : r.feats = []) (hr : r.roots = false) (hv : r.vec = false)
    (hg : (accessGroup r.grp && acquiring (aside s) f.uid) = false)
    (hx : ∀ x ∈ r.fields, fieldReason (aside s) f x = none)
    (hb : ExceptT.run body { f := f, s := aside s, flags := 0 }
      = (.ok (.block id), { f := g, s := s', flags := fl })) :
    runWord r body s
      = answer (notOwed s' f) { raiseFlags g fl with wait := .port id, since := (notOwed s' f).clk } := by
  rw [runWord_block r body s f g s' fl id hi ((run_admitted r body _ hp hf hv hg hx).trans hb), hv, rootedBy_off r g hr]
  rfl

/-- A word that stalls leaves the machine as it was. -/
theorem word_stall (r : Req) (body : M Next) (s : State) (f : Frond)
    (hi : AtIssue s f r.h) (hp : r.priv = false) (hf : r.feats = []) (hv : r.vec = false)
    (hg : (accessGroup r.grp && acquiring (aside s) f.uid) = false)
    (hx : ∀ x ∈ r.fields, fieldReason (aside s) f x = none)
    (hb : ExceptT.run body { f := f, s := aside s, flags := 0 }
      = (.error .stall, { f := f, s := aside s, flags := 0 })) :
    runWord r body s = waits s f := by
  rw [runWord_stop r body s f _ _ hi ((run_admitted r body _ hp hf hv hg hx).trans hb)]
  rfl

/-- A word that starts an access answers `flies`. -/
theorem word_flies (r : Req) (body : M Next) (s : State) (f g : Frond) (t : State) (wait : Bool) (x : Launch)
    (fl : BitVec 7)
    (hi : AtIssue s f r.h) (hp : r.priv = false) (hf : r.feats = []) (hr : r.roots = false) (hv : r.vec = false)
    (hg : (accessGroup r.grp && acquiring (aside s) f.uid) = false)
    (hx : ∀ x ∈ r.fields, fieldReason (aside s) f x = none)
    (hb : ExceptT.run body { f := f, s := aside s, flags := 0 } = ExceptT.run (launch r.h wait x) ⟨g, t, 0⟩)
    (hw : x.op.writes = true → Gives (waitClock x.elems) ⟨g, t, 0⟩ () ⟨g, t, 0⟩)
    (hd : wait = false → DestFree g x.dest)
    (hh : g.held = []) (hk : g.heldH = []) :
    runWord r body s = flies s f r.h wait ⟨g, t, fl⟩ x := by
  cases wait with
  | true =>
    rw [run_launch_wait r.h x ⟨g, t, 0⟩ hw] at hb
    rw [word_block r body s f _ _ _ _ hi hp hf hr hv hg hx hb]
    unfold flies
    simp only [if_true, raiseFlags_zero]
    rfl
  | false =>
    rw [run_launch_go r.h x g t 0 hw (hd rfl)] at hb
    rw [word_seq r body s f _ _ _ hi hp hf hr hv hg hx hb]
    · unfold flies
      simp only [Bool.false_eq_true, if_false, raiseFlags_zero]
      rfl
    · unfold withResult; split <;> simp [hh]
    · unfold withResult; split <;> simp [hk]

/-- The operand field of a sync access is kept as its lane. -/
theorem syncSite_field (l : Bool) (ea : Nat) (o : Opnd) (c c' : Ctx) (e : Elem)
    (h : ExceptT.run (syncSite l ea 0) c = (.ok e, c')) :
    ExceptT.run (syncSite l ea o) c = (.ok { e with lane := o.toNat }, c') := by
  unfold syncSite at h ⊢
  rw [run_bind, run_get] at h ⊢; dsimp only at h ⊢
  rw [run_bind] at h ⊢
  split at h
  · rw [run_bind] at h ⊢
    split at h
    · rw [run_bind] at h ⊢
      split at h
      · rw [run_pure] at h ⊢; cases h; rfl
      · cases h
    · cases h
  · cases h

end Sys2Proof.Machine
end

