-- ==== Sys2Proof/Tests/Slice0.lean ====
section
/-! SUPPORT. The model's own tests: well-formedness, decoding, witnesses that the hypotheses of the statements can be
met, and single steps with results from the spec's own examples or worked out by hand from its rules. -/

namespace Sys2Proof.Tests

set_option maxRecDepth 8000
set_option Elab.async false

open Sys2Proof Sys2Proof.Machine

/-! ## Decoding -/

/-- A word without guard and hints. -/
def p : Hints := { gn := false, gq := 0, sw := false, lu := false, nm := false }

/-- Each of the words decodes to the instruction beside it. -/
def readsAs (l : List (Nat × Instr)) : Bool :=
  l.all (fun e => match decodeNat e.1 with
    | .ok i => decide (i = e.2)
    | .error _ => false)

/-- A word that decodes to an instruction. -/
theorem reads_of (w : Nat) (i : Instr) (h : readsAs [(w, i)] = true) : decodeNat w = .ok i := by
  simp only [readsAs, List.all_cons, List.all_nil, Bool.and_true] at h
  split at h
  · rename_i e
    rw [e, of_decide_eq_true h]
  · cases h

/-- Each of the words is the encoding of the instruction beside it. -/
def encodesTo (l : List (Nat × Instr)) : Bool := l.all (fun e => encodeNat e.2 == some e.1)

/-- Each of the words is refused for the reason beside it (R114). -/
def refusesAs (l : List (Nat × Nat)) : Bool :=
  l.all (fun e => match decodeNat e.1 with
    | .ok _ => false
    | .error r => r == e.2)

/-- R137: group 0x0. -/
theorem test_decode_integer : readsAs [
    (0x020000003008080000000000, .add { p with gq := 1 } false 3 1 (.fld 2)),
    (0x23C000203008080000000000, .sub { gn := true, gq := 1, sw := true, lu := true, nm := true } false 3 1 (.fld 2)),
    (0x0000004050800201FFFF8000, .mul p true 5 16 (.wide 0xFFFF8000)),
    (0x0000006050841C0000000000, .mulh p false 5 16 (.fld 0x107)),
    (0x0000008050841C0100000000, .mulhn p true 5 16 (.fld 0x107)),
    (0x000000A04028180100000000, .div p true 4 5 (.fld 6)),
    (0x000000C04028180000000000, .divn p false 4 5 (.fld 6)),
    (0x000000E04028180100000000, .rem p true 4 5 (.fld 6)),
    (0x000001004028180000000000, .remn p false 4 5 (.fld 6)),
    (0x000001204028180000000000, .and p false 4 5 (.fld 6)),
    (0x000001404028180100000000, .or p true 4 5 (.fld 6)),
    (0x000001604028180000000000, .xor p false 4 5 (.fld 6)),
    (0x000001804028180000000000, .andn p false 4 5 (.fld 6)),
    (0x000001A04028180100000000, .orn p true 4 5 (.fld 6)),
    (0x000001C04028180000000000, .shl p false 4 5 (.fld 6)),
    (0x000001E04028180100000000, .shr p true 4 5 (.fld 6)),
    (0x000002004028180000000000, .sar p false 4 5 (.fld 6)),
    (0x000002204028180100000000, .rol p true 4 5 (.fld 6)),
    (0x000002404028180000000000, .min p false 4 5 (.fld 6)),
    (0x000002604028180100000000, .max p true 4 5 (.fld 6)),
    (0x000002804028180000000000, .minn p false 4 5 (.fld 6)),
    (0x000002A04028180100000000, .maxn p true 4 5 (.fld 6)),
    (0x000002C04028000000000000, .clz p false 4 5),
    (0x000002E04028000100000000, .ctz p true 4 5),
    (0x000003004028000000000000, .popc p false 4 5),
    (0x000003204028000100000000, .brev p true 4 5),
    (0x000003404028000000000000, .bswap p false 4 5),
    (0x000003604028000100000728, .bfx p true 4 5 40 7),
    (0x000003804028000000003F00, .bfi p 4 5 0 63),
    (0x000003A04028181900000000, .sel p 4 5 (.fld 6) 9 true),
    (0x000003C04028000100000000, .mov p true 4 5),
    (0x000003E04028000200000000, .sext p 2 4 5),
    (0x000004004028000100000000, .zext p 1 4 5),
    (0x000004204028180689ABCDEF, .lea p 4 5 6 6 0x89ABCDEF),
    (0x000004404028180100000000, .mad p true 4 5 (.fld 6))] = true := by decide +kernel

/-- R105: the W form. -/
theorem test_decode_constant : readsAs [
    (0x800020001000000000000028, .li p 1 40),
    (0x8100202D0FEDCBA987654321, .lpc { p with sw := true } 0xD0 0xFEDCBA987654321)] = true := by decide +kernel

/-- R144: group 0x2. -/
theorem test_decode_predicate : readsAs [
    (0x0000400B1000082300000000, .cmp p 0xB1 0 (.fld 2) 3 4 0),
    (0x0000400B1000032E00000009, .cmp p 0xB1 0 (.wide 9) 6 5 2),
    (0x0000402BF008088100000000, .tst p 0xBF 1 (.fld 2) true 1),
    (0x0000404B1592CC0100000000, .pand p 0xB1 0xB2 0xB3 true false),
    (0x0000406B1592CC0200000000, .por p 0xB1 0xB2 0xB3 false true),
    (0x0000408B1592CC0300000000, .pxor p 0xB1 0xB2 0xB3 true true),
    (0x000040AB1590000000000000, .pnot p 0xB1 0xB2),
    (0x000040C00018000000000000, .pset p 3),
    (0x000040E03000000000000000, .pget p 3)] = true := by decide +kernel

/-- R149: group 0x3. -/
theorem test_decode_control : readsAs [
    (0x0400600000000000FFFFFFFD, .br { p with gq := 2 } 0xFFFFFFFD),
    (0x000060200038000000000000, .jmp p 7),
    (0x000060407000000000000005, .call p 7 5),
    (0x000060607040000000000000, .callr p 7 8),
    (0x0000608000400000ABCDE123, .loop p 8 0xABCDE 0x123),
    (0x000060A00000000000001FFF, .loopw p 1 0xFFF),
    (0x000060C00000000000000000, .lexit p),
    (0x000060E010100C00FFFFFFFF, .fork p 1 2 3 0xFFFFFFFF),
    (0x000061000010000100000000, .join p 2 true),
    (0x000061200000000000000000, .exit p),
    (0x008061400000000000000000, .nop { p with lu := true }),
    (0x0000616004B8000100000002, .bch p 0x97 true 2),
    (0x0000618000000200000003E8, .sleep p (.wide 1000))] = true := by decide +kernel

/-- R192: group 0x4. -/
theorem test_decode_float : readsAs [
    (0x000080003008080100000000, .fadd p 1 3 1 (.fld 2)),
    (0x000080203008080200000000, .fsub p 2 3 1 (.fld 2)),
    (0x00008040300802033FC00000, .fmul p 3 3 1 (.wide 0x3FC00000)),
    (0x000080603008080400000105, .ffma p 4 3 1 2 0x105),
    (0x000080803008080800000000, .fmin p true 3 1 (.fld 2)),
    (0x000080A03008080000000000, .fmax p false 3 1 (.fld 2)),
    (0x000080C03008080400000000, .fdiv p 4 3 1 (.fld 2)),
    (0x000080E03008000200000000, .fsqrt p 2 3 1),
    (0x000081003008000100000000, .frcp p 1 3 1),
    (0x0000812B400808B800000000, .fcmp p 0xB4 1 (.fld 2) 7 1),
    (0x00008140300800040007021F, .fcvt p 4 3 1 0x1F 2 true 3),
    (0x000081603008000000000000, .fclass p 3 1)] = true := by decide +kernel

/-- R200: group 0x5. -/
theorem test_decode_vector : readsAs [
    (0x0000A00814120C0000000000, .vadd p 0x81 0x82 (.fld 0x83)),
    (0x0000A02814120C0000000000, .vsub p 0x81 0x82 (.fld 0x83)),
    (0x0000A0481410020012345678, .vmul p 0x81 0x82 (.wide 0x12345678)),
    (0x0000A06814120C0000000084, .vmad p 0x81 0x82 0x83 0x84),
    (0x0000A08814120C0000000000, .vand p 0x81 0x82 (.fld 0x83)),
    (0x0000A0A814120C0000000000, .vor p 0x81 0x82 (.fld 0x83)),
    (0x0000A0C814120C0000000000, .vxor p 0x81 0x82 (.fld 0x83)),
    (0x0000A0E81414100000000000, .vshl p 0x81 0x82 (.fld 0x104)),
    (0x0000A1081414100000000000, .vshr p 0x81 0x82 (.fld 0x104)),
    (0x0000A1281414100000000000, .vsar p 0x81 0x82 (.fld 0x104)),
    (0x0000A14814120C0100000000, .vmin p true 0x81 0x82 (.fld 0x83)),
    (0x0000A16814120C0000000000, .vmax p false 0x81 0x82 (.fld 0x83)),
    (0x0000A18814120C5100000000, .vcmp p true 5 0x81 0x82 (.fld 0x83)),
    (0x0000A1A814120C0000000084, .vsel p 0x81 0x82 0x83 0x84),
    (0x0000A1C81038000000000000, .vbcast p 0x81 7),
    (0x0000A1E07410140100000000, .vext p true 7 0x82 (.fld 5)),
    (0x0000A2081038140000000000, .vins p 0x81 7 (.fld 5)),
    (0x0000A22814120C0000000000, .vperm p 0x81 0x82 0x83),
    (0x0000A2407410000100000000, .vredadd p true 7 0x82),
    (0x0000A2607410000000000000, .vredmin p false 7 0x82),
    (0x0000A2807410000100000000, .vredmax p true 7 0x82),
    (0x0000A2A81410001000000000, .vscan p true 0x81 0x82),
    (0x0000A2C81038140000000000, .viota p 0x81 7 (.fld 5))] = true := by decide +kernel

/-- R204: group 0x6. -/
theorem test_decode_vectorFloat : readsAs [
    (0x0000C00814120C0400000000, .vfadd p 4 0x81 0x82 (.fld 0x83)),
    (0x0000C02814120C0100000000, .vfsub p 1 0x81 0x82 (.fld 0x83)),
    (0x0000C0481410020240490FDB, .vfmul p 2 0x81 0x82 (.wide 0x40490FDB)),
    (0x0000C06814120C0300000084, .vffma p 3 0x81 0x82 0x83 0x84),
    (0x0000C08814120C0800000000, .vfmin p true 0 0x81 0x82 (.fld 0x83)),
    (0x0000C0A814120C0200000000, .vfmax p false 2 0x81 0x82 (.fld 0x83)),
    (0x0000C0C814120C3800000000, .vfcmp p 7 0x81 0x82 (.fld 0x83)),
    (0x0000C0E07410001400000000, .vfred p 2 4 7 0x82),
    (0x0000C1081410000100000802, .vfcvt p 1 0x81 0x82 2 8),
    (0x0000C12814101C040005007F, .vfpack p 4 0x81 0x82 7 15 3 true true 2),
    (0x0000C1482408240000000061, .vfunpk p 0 0x82 0x81 9 1 2 true),
    (0x0000C16814120C0300000000, .vfscale p 3 0x81 0x82 (.fld 0x83)),
    (0x0000C1881410000400000000, .vfex2 p 4 0x81 0x82),
    (0x0000C1A81410000200000000, .vfrsq p 2 0x81 0x82)] = true := by decide +kernel

/-- R243 and R246: group 0x7. -/
theorem test_decode_memory : readsAs [
    (0x0100E0006028001200000004, .ld { p with sw := true } { mty := 2, l := true, raw := false, ord := 0 } 6 5 4),
    (0x0000E02000281968FFFFFFF8, .st p { mty := 8, l := false, raw := true, ord := 5 } 5 6 0xFFFFFFF8),
    (0x0000E0481028018400000040, .vld p { mty := 4, l := false, raw := false, ord := 6 } 0x81 5 64),
    (0x0000E060002A081100000040, .vst p { mty := 1, l := true, raw := false, ord := 0 } 5 0x82 64),
    (0x0000E0881028180800000040, .vlds p { mty := 8, l := false, raw := false, ord := 0 } 0x81 5 6 64),
    (0x0000E0A81028180600000040, .vsts p { mty := 6, l := false, raw := false, ord := 0 } 0x81 5 6 64),
    (0x0000E0C00028000000000040, .hold p 5 64),
    (0x0000E0EB1028000000000040, .pin p 0xB1 5 64),
    (0x0000E10B1028000000000040, .unpin p 0xB1 5 64),
    (0x0000E1200028000000001709, .lsfmt p 5 9 23)] = true := by decide +kernel

/-- R343 and R344: group 0x8. -/
theorem test_decode_sync : readsAs [
    (0x000100006020009000000008, .ldf p 4 true 6 4 8),
    (0x00010020602000A000000008, .lde p 5 false 6 4 8),
    (0x000100400020143000000008, .stf p 1 true 4 5 8),
    (0x000100600020149000000000, .sto p 4 true 4 5 0),
    (0x000100800020001000000008, .clrf p true 4 8),
    (0x000100AD00200C1100000000, .aadd p { ty := 1, ord := 0, l := true, scope := 0 } 0xD0 4 3 0),
    (0x000100C060200C8E00000008, .acas p { ty := 2, ord := 3, l := false, scope := 4 } 6 4 3 8),
    (0x000100E060200C6400000008, .axchg p { ty := 0, ord := 1, l := false, scope := 3 } 6 4 3 8),
    (0x0001010060200C4B00000008, .amin p { ty := 3, ord := 2, l := false, scope := 2 } 6 4 3 8),
    (0x0001012060200CBD00000008, .amax p { ty := 1, ord := 3, l := true, scope := 5 } 6 4 3 8),
    (0x0001014060200C0000000008, .aand p { ty := 0, ord := 0, l := false, scope := 0 } 6 4 3 8),
    (0x0001016060200C0600000008, .aor p { ty := 2, ord := 1, l := false, scope := 0 } 6 4 3 8),
    (0x0001018060200C3800000008, .axor p { ty := 0, ord := 2, l := true, scope := 1 } 6 4 3 8),
    (0x000101A00000006800000000, .fence p 2 3),
    (0x000101C0000000800000002A, .xfence p 4 0x2A),
    (0x000101E06020147000000008, .bexp p 3 true 6 4 5 8),
    (0x000102000020144000000008, .barv p 2 false 4 5 8),
    (0x000102200020149000000008, .bwait p 4 true 4 5 8)] = true := by decide +kernel

/-- R258: group 0x9. -/
theorem test_decode_view : readsAs [
    (0x0001200A0028001000000040, .wbind p true 0xA0 5 64),
    (0x000120200518000000000000, .wret p 0xA3),
    (0x010120407500180200000000, .wld { p with sw := true } 2 false 7 0xA0 6),
    (0x0001206A10301C2800000000, .wst p 8 true 0xA1 6 7),
    (0x000120881510180800000009, .wvld p 8 false 0x81 0xA2 6 9),
    (0x000120AA203204040000000F, .wvst p 4 false 0xA2 6 0x81 15),
    (0x000120C0750800000000000E, .wqry p 7 0xA1 14),
    (0x000120EA1038000000000000, .wadj p 0xA1 7),
    (0x000121007508000000000003, .wfoot p 7 0xA1 3)] = true := by decide +kernel

/-- R296: group 0xA. -/
theorem test_decode_matrix : readsAs [
    (0x0001400C3000000086C00000, .mzero p 0xC3 { tge := true, tm := 5, tbit := 33 }),
    (0x0001402C1020140000000020, .mma p 0xC1 4 5 0 0 false 0 2 { tge := false, tm := 0, tbit := 0 }),
    (0x0001404C10201419FFC01FFF, .mmas p 0xC1 4 5 1 2 true 15 0x1FF { tge := true, tm := 7, tbit := 63 }),
    (0x0001406C2508140200C00000, .mld p 0xC2 0xA1 5 2 { tge := true, tm := 1, tbit := 0 }),
    (0x0001408A1610140C00000000, .mst p 0xA1 0xC2 5 4 1 { tge := false, tm := 0, tbit := 0 }),
    (0x000140A04610143325400107, .msst p 4 0xC2 5 0x107 3 2 true { tge := true, tm := 2, tbit := 9 }),
    (0x000140CC0608000000001230, .madd p 0xC0 0xC1 0x123 { tge := false, tm := 0, tbit := 0 }),
    (0x000140E09608000000000000, .mstat p 9 0xC1),
    (0x000141000608000000000000, .mclrs p 0xC1),
    (0x0001412C4048000000000000, .mtm p 0xC4 9),
    (0x000141209658000100000000, .mtmRd p 9 0xCB),
    (0x0001414B262800000000003F, .mtmgSet p 0xB2 0xC5 63),
    (0x0001414B2628000100000011, .mtmgClr p 0xB2 0xC5 17),
    (0x000141600000000000000000, .msync p)] = true := by decide +kernel

/-- R267: group 0xB. -/
theorem test_decode_copy : readsAs [
    (0x00016000402818070007FFF8, .cpy p 4 5 6 true true true 0x7FFF8),
    (0x000160004028180200000000, .cpy p 4 5 6 false true false 0),
    (0x00016029E028180000000000, .cpyq p 0x9E 5 6),
    (0x00016048102A08280000FFFF, .gath p 8 true 0x81 5 0x82 0xFFFF),
    (0x00016068102A0802000000F1, .scat p 2 false 0x81 5 0x82 0x00F1),
    (0x00016088102A080100008001, .scadd p 1 0x81 5 0x82 0x8001),
    (0x000160A00028183100018000, .rbar p 1 3 5 6 98304),
    (0x000160C040281832000001FF, .ship p 2 true true 4 5 6 0x1FF)] = true := by decide +kernel

/-- R357: group 0xC. -/
theorem test_decode_queue : readsAs [
    (0x0001800B14E0140000000040, .qpush p 0xB1 0x9C 5 64),
    (0x0001802B14C0140000000040, .qpop p 0xB1 0x98 5 64),
    (0x0001804B14D81400FFFFFFC0, .qpeek p 0xB1 0x9B 5 0xFFFFFFC0),
    (0x0001806004F8000000000000, .qclose p 0x9F),
    (0x0001808074C0000000000000, .qstat p 7 0x98),
    (0x000180A93038000000000000, .chbind p 0x93 7),
    (0x000180C07498000000000000, .chstat p 7 0x93),
    (0x000180E00028182000000000, .semw p 1 5 6),
    (0x000181000028188000000000, .sems p 4 5 6),
    (0x00018120002818B000000008, .bar p 5 true 5 6 8)] = true := by decide +kernel

/-- R388: group 0xD. -/
theorem test_decode_system : readsAs [
    (0x0001A0000000000000000007, .trap p 7),
    (0x0001A0205030000000000ABC, .sys p 5 6 0xABC),
    (0x0001A0400000000000000000, .rfe p),
    (0x0001A0605030000000000025, .cwget p 5 6 0x25),
    (0x0001A0800028180000000041, .cwset p 5 6 0x41),
    (0x0001A0A05000000000000000, .feat p 5),
    (0x0001A0C050300000000000BF, .exrd p 5 6 0xBF),
    (0x0001A0E00028180000000080, .exwr p 5 6 0x80),
    (0x0001A1000028000100000000, .exres p 5 true),
    (0x0001A1200028000000000000, .seed p 5),
    (0x0001A1405000180000000000, .idle p 5 6)] = true := by decide +kernel

/-- R106 and R107: P-form words, by their scalar half. -/
theorem test_decode_pair : readsAs [
    (0x450001444A0A010C61110200, .addPform { p with gq := 2, sw := true } 0x51 0x12 0x105 { vop := 0x43, vd := 3, va := 1, vb := 2, vc := 4, ty := 0, rm := 2 }),
    (0x450005444A0A010C61110200, .subPform { p with gq := 2, sw := true } 0x51 0x12 0x105 { vop := 0x43, vd := 3, va := 1, vb := 2, vc := 4, ty := 0, rm := 2 }),
    (0x450009444A0A010C61110200, .mulPform { p with gq := 2, sw := true } 0x51 0x12 0x105 { vop := 0x43, vd := 3, va := 1, vb := 2, vc := 4, ty := 0, rm := 2 }),
    (0x45000D444A0A010C61110200, .mulhPform { p with gq := 2, sw := true } 0x51 0x12 0x105 { vop := 0x43, vd := 3, va := 1, vb := 2, vc := 4, ty := 0, rm := 2 }),
    (0x450011444A0A010C61110200, .mulhnPform { p with gq := 2, sw := true } 0x51 0x12 0x105 { vop := 0x43, vd := 3, va := 1, vb := 2, vc := 4, ty := 0, rm := 2 }),
    (0x450015444A0A010C61110200, .divPform { p with gq := 2, sw := true } 0x51 0x12 0x105 { vop := 0x43, vd := 3, va := 1, vb := 2, vc := 4, ty := 0, rm := 2 }),
    (0x450019444A0A010C61110200, .divnPform { p with gq := 2, sw := true } 0x51 0x12 0x105 { vop := 0x43, vd := 3, va := 1, vb := 2, vc := 4, ty := 0, rm := 2 }),
    (0x45001D444A0A010C61110200, .remPform { p with gq := 2, sw := true } 0x51 0x12 0x105 { vop := 0x43, vd := 3, va := 1, vb := 2, vc := 4, ty := 0, rm := 2 }),
    (0x450021444A0A010C61110200, .remnPform { p with gq := 2, sw := true } 0x51 0x12 0x105 { vop := 0x43, vd := 3, va := 1, vb := 2, vc := 4, ty := 0, rm := 2 }),
    (0x450025444A0A010C61110200, .andPform { p with gq := 2, sw := true } 0x51 0x12 0x105 { vop := 0x43, vd := 3, va := 1, vb := 2, vc := 4, ty := 0, rm := 2 }),
    (0x450029444A0A010C61110200, .orPform { p with gq := 2, sw := true } 0x51 0x12 0x105 { vop := 0x43, vd := 3, va := 1, vb := 2, vc := 4, ty := 0, rm := 2 }),
    (0x45002D444A0A010C61110200, .xorPform { p with gq := 2, sw := true } 0x51 0x12 0x105 { vop := 0x43, vd := 3, va := 1, vb := 2, vc := 4, ty := 0, rm := 2 }),
    (0x450031444A0A010C61110200, .andnPform { p with gq := 2, sw := true } 0x51 0x12 0x105 { vop := 0x43, vd := 3, va := 1, vb := 2, vc := 4, ty := 0, rm := 2 }),
    (0x450035444A0A010C61110200, .ornPform { p with gq := 2, sw := true } 0x51 0x12 0x105 { vop := 0x43, vd := 3, va := 1, vb := 2, vc := 4, ty := 0, rm := 2 }),
    (0x450039444A0A010C61110200, .shlPform { p with gq := 2, sw := true } 0x51 0x12 0x105 { vop := 0x43, vd := 3, va := 1, vb := 2, vc := 4, ty := 0, rm := 2 }),
    (0x45003D444A0A010C61110200, .shrPform { p with gq := 2, sw := true } 0x51 0x12 0x105 { vop := 0x43, vd := 3, va := 1, vb := 2, vc := 4, ty := 0, rm := 2 }),
    (0x450041444A0A010C61110200, .sarPform { p with gq := 2, sw := true } 0x51 0x12 0x105 { vop := 0x43, vd := 3, va := 1, vb := 2, vc := 4, ty := 0, rm := 2 }),
    (0x450045444A0A010C61110200, .rolPform { p with gq := 2, sw := true } 0x51 0x12 0x105 { vop := 0x43, vd := 3, va := 1, vb := 2, vc := 4, ty := 0, rm := 2 }),
    (0x450049444A0A010C61110200, .minPform { p with gq := 2, sw := true } 0x51 0x12 0x105 { vop := 0x43, vd := 3, va := 1, vb := 2, vc := 4, ty := 0, rm := 2 }),
    (0x45004D444A0A010C61110200, .maxPform { p with gq := 2, sw := true } 0x51 0x12 0x105 { vop := 0x43, vd := 3, va := 1, vb := 2, vc := 4, ty := 0, rm := 2 }),
    (0x450051444A0A010C61110200, .minnPform { p with gq := 2, sw := true } 0x51 0x12 0x105 { vop := 0x43, vd := 3, va := 1, vb := 2, vc := 4, ty := 0, rm := 2 }),
    (0x450055444A0A010C61110200, .maxnPform { p with gq := 2, sw := true } 0x51 0x12 0x105 { vop := 0x43, vd := 3, va := 1, vb := 2, vc := 4, ty := 0, rm := 2 }),
    (0x450059444800010C61110200, .clzPform { p with gq := 2, sw := true } 0x51 0x12 0x0 { vop := 0x43, vd := 3, va := 1, vb := 2, vc := 4, ty := 0, rm := 2 }),
    (0x45005D444800010C61110200, .ctzPform { p with gq := 2, sw := true } 0x51 0x12 0x0 { vop := 0x43, vd := 3, va := 1, vb := 2, vc := 4, ty := 0, rm := 2 }),
    (0x450061444800010C61110200, .popcPform { p with gq := 2, sw := true } 0x51 0x12 0x0 { vop := 0x43, vd := 3, va := 1, vb := 2, vc := 4, ty := 0, rm := 2 }),
    (0x450065444800010C61110200, .brevPform { p with gq := 2, sw := true } 0x51 0x12 0x0 { vop := 0x43, vd := 3, va := 1, vb := 2, vc := 4, ty := 0, rm := 2 }),
    (0x450069444800010C61110200, .bswapPform { p with gq := 2, sw := true } 0x51 0x12 0x0 { vop := 0x43, vd := 3, va := 1, vb := 2, vc := 4, ty := 0, rm := 2 }),
    (0x450079444800010C61110200, .movPform { p with gq := 2, sw := true } 0x51 0x12 0x0 { vop := 0x43, vd := 3, va := 1, vb := 2, vc := 4, ty := 0, rm := 2 }),
    (0x450089444A0A010C61110200, .madPform { p with gq := 2, sw := true } 0x51 0x12 0x105 { vop := 0x43, vd := 3, va := 1, vb := 2, vc := 4, ty := 0, rm := 2 })] = true := by decide +kernel

/-- R106 and R108: P-form words, by their vector half. Each is the word of its vector row too. -/
theorem test_decode_pairVector : readsAs [
    (0x4000008084440001E6380000, .addPform p 0x20 0x21 0x22 { vop := 0x0, vd := 15, va := 6, vb := 7, vc := 0, ty := 0, rm := 0 }),
    (0x4000008084440005E6380000, .addPform p 0x20 0x21 0x22 { vop := 0x1, vd := 15, va := 6, vb := 7, vc := 0, ty := 0, rm := 0 }),
    (0x4000008084440009E6380000, .addPform p 0x20 0x21 0x22 { vop := 0x2, vd := 15, va := 6, vb := 7, vc := 0, ty := 0, rm := 0 }),
    (0x400000808444000DE63A4000, .addPform p 0x20 0x21 0x22 { vop := 0x3, vd := 15, va := 6, vb := 7, vc := 9, ty := 0, rm := 0 }),
    (0x4000008084440011E6380000, .addPform p 0x20 0x21 0x22 { vop := 0x4, vd := 15, va := 6, vb := 7, vc := 0, ty := 0, rm := 0 }),
    (0x4000008084440015E6380000, .addPform p 0x20 0x21 0x22 { vop := 0x5, vd := 15, va := 6, vb := 7, vc := 0, ty := 0, rm := 0 }),
    (0x4000008084440019E6380000, .addPform p 0x20 0x21 0x22 { vop := 0x6, vd := 15, va := 6, vb := 7, vc := 0, ty := 0, rm := 0 }),
    (0x400000808444001DE6380000, .addPform p 0x20 0x21 0x22 { vop := 0x7, vd := 15, va := 6, vb := 7, vc := 0, ty := 0, rm := 0 }),
    (0x4000008084440021E6380000, .addPform p 0x20 0x21 0x22 { vop := 0x8, vd := 15, va := 6, vb := 7, vc := 0, ty := 0, rm := 0 }),
    (0x4000008084440025E6380000, .addPform p 0x20 0x21 0x22 { vop := 0x9, vd := 15, va := 6, vb := 7, vc := 0, ty := 0, rm := 0 }),
    (0x4000008084440029E6380400, .addPform p 0x20 0x21 0x22 { vop := 0xA, vd := 15, va := 6, vb := 7, vc := 0, ty := 1, rm := 0 }),
    (0x400000808444002DE6380400, .addPform p 0x20 0x21 0x22 { vop := 0xB, vd := 15, va := 6, vb := 7, vc := 0, ty := 1, rm := 0 }),
    (0x4000008084440045E6380000, .addPform p 0x20 0x21 0x22 { vop := 0x11, vd := 15, va := 6, vb := 7, vc := 0, ty := 0, rm := 0 }),
    (0x4000008084440055E6000000, .addPform p 0x20 0x21 0x22 { vop := 0x15, vd := 15, va := 6, vb := 0, vc := 0, ty := 0, rm := 0 }),
    (0x4000008084440101E6380300, .addPform p 0x20 0x21 0x22 { vop := 0x40, vd := 15, va := 6, vb := 7, vc := 0, ty := 0, rm := 3 }),
    (0x4000008084440105E6380300, .addPform p 0x20 0x21 0x22 { vop := 0x41, vd := 15, va := 6, vb := 7, vc := 0, ty := 0, rm := 3 }),
    (0x4000008084440109E6380300, .addPform p 0x20 0x21 0x22 { vop := 0x42, vd := 15, va := 6, vb := 7, vc := 0, ty := 0, rm := 3 }),
    (0x400000808444010DE63A4300, .addPform p 0x20 0x21 0x22 { vop := 0x43, vd := 15, va := 6, vb := 7, vc := 9, ty := 0, rm := 3 }),
    (0x4000008084440111E6380700, .addPform p 0x20 0x21 0x22 { vop := 0x44, vd := 15, va := 6, vb := 7, vc := 0, ty := 1, rm := 3 }),
    (0x4000008084440115E6380700, .addPform p 0x20 0x21 0x22 { vop := 0x45, vd := 15, va := 6, vb := 7, vc := 0, ty := 1, rm := 3 }),
    (0x400000808444012DE6380300, .addPform p 0x20 0x21 0x22 { vop := 0x4B, vd := 15, va := 6, vb := 7, vc := 0, ty := 0, rm := 3 }),
    (0x4000008084440131E6000300, .addPform p 0x20 0x21 0x22 { vop := 0x4C, vd := 15, va := 6, vb := 0, vc := 0, ty := 0, rm := 3 }),
    (0x4000008084440135E6000300, .addPform p 0x20 0x21 0x22 { vop := 0x4D, vd := 15, va := 6, vb := 0, vc := 0, ty := 0, rm := 3 })] = true := by decide +kernel

/-- R106 and R108: the words of the rows of the vector half. -/
theorem test_encode_pairVector : encodesTo [
    (0x4000008084440001E6380000, .vaddPform p 15 6 7 0 0 0 { sop := 0, sd := 0x20, sa := 0x21, sb := 0x22 }),
    (0x4000008084440005E6380000, .vsubPform p 15 6 7 0 0 0 { sop := 0, sd := 0x20, sa := 0x21, sb := 0x22 }),
    (0x4000008084440009E6380000, .vmulPform p 15 6 7 0 0 0 { sop := 0, sd := 0x20, sa := 0x21, sb := 0x22 }),
    (0x400000808444000DE63A4000, .vmadPform p 15 6 7 9 0 0 { sop := 0, sd := 0x20, sa := 0x21, sb := 0x22 }),
    (0x4000008084440011E6380000, .vandPform p 15 6 7 0 0 0 { sop := 0, sd := 0x20, sa := 0x21, sb := 0x22 }),
    (0x4000008084440015E6380000, .vorPform p 15 6 7 0 0 0 { sop := 0, sd := 0x20, sa := 0x21, sb := 0x22 }),
    (0x4000008084440019E6380000, .vxorPform p 15 6 7 0 0 0 { sop := 0, sd := 0x20, sa := 0x21, sb := 0x22 }),
    (0x400000808444001DE6380000, .vshlPform p 15 6 7 0 0 0 { sop := 0, sd := 0x20, sa := 0x21, sb := 0x22 }),
    (0x4000008084440021E6380000, .vshrPform p 15 6 7 0 0 0 { sop := 0, sd := 0x20, sa := 0x21, sb := 0x22 }),
    (0x4000008084440025E6380000, .vsarPform p 15 6 7 0 0 0 { sop := 0, sd := 0x20, sa := 0x21, sb := 0x22 }),
    (0x4000008084440029E6380400, .vminPform p 15 6 7 0 1 0 { sop := 0, sd := 0x20, sa := 0x21, sb := 0x22 }),
    (0x400000808444002DE6380400, .vmaxPform p 15 6 7 0 1 0 { sop := 0, sd := 0x20, sa := 0x21, sb := 0x22 }),
    (0x4000008084440045E6380000, .vpermPform p 15 6 7 0 0 0 { sop := 0, sd := 0x20, sa := 0x21, sb := 0x22 }),
    (0x4000008084440055E6000000, .vscanPform p 15 6 0 0 0 0 { sop := 0, sd := 0x20, sa := 0x21, sb := 0x22 }),
    (0x4000008084440101E6380300, .vfaddPform p 15 6 7 0 0 3 { sop := 0, sd := 0x20, sa := 0x21, sb := 0x22 }),
    (0x4000008084440105E6380300, .vfsubPform p 15 6 7 0 0 3 { sop := 0, sd := 0x20, sa := 0x21, sb := 0x22 }),
    (0x4000008084440109E6380300, .vfmulPform p 15 6 7 0 0 3 { sop := 0, sd := 0x20, sa := 0x21, sb := 0x22 }),
    (0x400000808444010DE63A4300, .vffmaPform p 15 6 7 9 0 3 { sop := 0, sd := 0x20, sa := 0x21, sb := 0x22 }),
    (0x4000008084440111E6380700, .vfminPform p 15 6 7 0 1 3 { sop := 0, sd := 0x20, sa := 0x21, sb := 0x22 }),
    (0x4000008084440115E6380700, .vfmaxPform p 15 6 7 0 1 3 { sop := 0, sd := 0x20, sa := 0x21, sb := 0x22 }),
    (0x400000808444012DE6380300, .vfscalePform p 15 6 7 0 0 3 { sop := 0, sd := 0x20, sa := 0x21, sb := 0x22 }),
    (0x4000008084440131E6000300, .vfex2Pform p 15 6 0 0 0 3 { sop := 0, sd := 0x20, sa := 0x21, sb := 0x22 }),
    (0x4000008084440135E6000300, .vfrsqPform p 15 6 0 0 0 3 { sop := 0, sd := 0x20, sa := 0x21, sb := 0x22 })] = true := by decide +kernel
/-! ## Well-formedness -/

/-- Each of the words is ill formed. -/
def illFormed (l : List Instr) : Bool := l.all (fun i => !wellFormed i)

/-- R137: WID 3, SHIFT 7, and a bit field past bit 63. -/
theorem test_illFormed_integer : illFormed [
    .bfx p false 4 5 1 63,
    .bfx p true 4 5 63 1,
    .bfi p 4 5 32 32,
    .sext p 3 4 5,
    .zext p 3 4 5,
    .lea p 4 5 6 7 0] = true := by decide +kernel

/-- R144: COND 6 and COMB 3; R149: no pass, and no body. -/
theorem test_illFormed_predicate : illFormed [
    .cmp p 0xB1 0 (.fld 2) 3 6 0,
    .cmp p 0xB1 0 (.fld 2) 3 0 3,
    .tst p 0xB1 0 (.fld 2) true 3,
    .loop p 8 0 1,
    .loop p 8 1 0,
    .loopw p 0 1,
    .loopw p 1 0] = true := by decide +kernel

/-- R192: RND 5, COND 8, COMB 3, a reserved kind, and ACC without CNT. -/
theorem test_illFormed_float : illFormed [
    .fadd p 5 3 1 (.fld 2),
    .fsub p 5 3 1 (.fld 2),
    .fmul p 5 3 1 (.fld 2),
    .fdiv p 5 3 1 (.fld 2),
    .ffma p 5 3 1 2 4,
    .fsqrt p 7 3 1,
    .frcp p 6 3 1,
    .fcmp p 0xB1 1 (.fld 2) 8 0,
    .fcmp p 0xB1 1 (.fld 2) 0 3,
    .fcvt p 5 3 1 0 1 false 0,
    .fcvt p 0 3 1 11 1 false 0,
    .fcvt p 0 3 1 1 16 false 0,
    .fcvt p 0 3 1 0 1 false 1] = true := by decide +kernel

/-- R200 and R204: COND, RND, TY, kinds, FCODE 0, ACC without CNT, and a B field without SC. -/
theorem test_illFormed_vector : illFormed [
    .vcmp p false 6 0x81 0x82 (.fld 0x83),
    .vfadd p 5 0x81 0x82 (.fld 0x83),
    .vfsub p 5 0x81 0x82 (.fld 0x83),
    .vfmul p 5 0x81 0x82 (.fld 0x83),
    .vfscale p 5 0x81 0x82 (.fld 0x83),
    .vffma p 5 0x81 0x82 0x83 0x84,
    .vfmin p false 5 0x81 0x82 (.fld 0x83),
    .vfmax p true 5 0x81 0x82 (.fld 0x83),
    .vfcmp p 8 0x81 0x82 (.fld 0x83),
    .vfred p 3 0 7 0x82,
    .vfred p 0 5 7 0x82,
    .vfcvt p 5 0x81 0x82 0 8,
    .vfcvt p 0 0x81 0x82 3 8,
    .vfcvt p 0 0x81 0x82 8 7,
    .vfcvt p 0 0x81 0x82 8 11,
    .vfpack p 5 0x81 0x82 0 1 0 false false 0,
    .vfpack p 0 0x81 0x82 0 0 0 false false 0,
    .vfpack p 0 0x81 0x82 0 1 0 false false 1,
    .vfpack p 0 0x81 0x82 7 1 0 false false 0,
    .vfunpk p 5 0x81 0x82 0 1 0 false,
    .vfunpk p 0 0x81 0x82 0 0 0 false,
    .vfunpk p 0 0x81 0x82 7 1 0 false,
    .vfex2 p 5 0x81 0x82,
    .vfrsq p 5 0x81 0x82] = true := by decide +kernel

/-- R245 and R246: MTY, RAW, ORD, and n − 1 of `lsfmt`. -/
theorem test_illFormed_memory : illFormed [
    .ld p { mty := 9, l := false, raw := false, ord := 0 } 6 5 0,
    .ld p { mty := 2, l := false, raw := true, ord := 0 } 6 5 0,
    .ld p { mty := 2, l := false, raw := false, ord := 7 } 6 5 0,
    .st p { mty := 9, l := false, raw := false, ord := 0 } 5 6 0,
    .st p { mty := 0, l := false, raw := true, ord := 0 } 5 6 0,
    .st p { mty := 8, l := false, raw := true, ord := 7 } 5 6 0,
    .vld p { mty := 3, l := false, raw := false, ord := 0 } 0x81 5 0,
    .vld p { mty := 7, l := false, raw := false, ord := 0 } 0x81 5 0,
    .vld p { mty := 15, l := false, raw := false, ord := 0 } 0x81 5 0,
    .vld p { mty := 4, l := false, raw := true, ord := 0 } 0x81 5 0,
    .vld p { mty := 8, l := false, raw := false, ord := 7 } 0x81 5 0,
    .vst p { mty := 3, l := false, raw := false, ord := 0 } 5 0x81 0,
    .vst p { mty := 7, l := false, raw := false, ord := 0 } 5 0x81 0,
    .vst p { mty := 15, l := false, raw := false, ord := 0 } 5 0x81 0,
    .vst p { mty := 4, l := false, raw := true, ord := 0 } 5 0x81 0,
    .vst p { mty := 8, l := false, raw := false, ord := 7 } 5 0x81 0,
    .vlds p { mty := 3, l := false, raw := false, ord := 0 } 0x81 5 6 0,
    .vlds p { mty := 7, l := false, raw := false, ord := 0 } 0x81 5 6 0,
    .vlds p { mty := 15, l := false, raw := false, ord := 0 } 0x81 5 6 0,
    .vlds p { mty := 4, l := false, raw := true, ord := 0 } 0x81 5 6 0,
    .vlds p { mty := 8, l := false, raw := false, ord := 7 } 0x81 5 6 0,
    .vsts p { mty := 3, l := false, raw := false, ord := 0 } 0x81 5 6 0,
    .vsts p { mty := 7, l := false, raw := false, ord := 0 } 0x81 5 6 0,
    .vsts p { mty := 15, l := false, raw := false, ord := 0 } 0x81 5 6 0,
    .vsts p { mty := 4, l := false, raw := true, ord := 0 } 0x81 5 6 0,
    .vsts p { mty := 8, l := false, raw := false, ord := 7 } 0x81 5 6 0,
    .lsfmt p 5 1 24] = true := by decide +kernel

/-- R344: SCOPE 6 and 7, KIND 0, MASK 0, and a scope of a plain atomic. -/
theorem test_illFormed_sync : illFormed [
    .ldf p 6 false 6 4 0,
    .lde p 6 false 6 4 0,
    .stf p 6 false 6 4 0,
    .sto p 6 false 6 4 0,
    .aadd p { ty := 0, ord := 0, l := false, scope := 1 } 6 4 3 0,
    .aadd p { ty := 0, ord := 1, l := false, scope := 6 } 6 4 3 0,
    .acas p { ty := 0, ord := 0, l := false, scope := 1 } 6 4 3 0,
    .acas p { ty := 0, ord := 1, l := false, scope := 6 } 6 4 3 0,
    .axchg p { ty := 0, ord := 0, l := false, scope := 1 } 6 4 3 0,
    .axchg p { ty := 0, ord := 1, l := false, scope := 6 } 6 4 3 0,
    .amin p { ty := 0, ord := 0, l := false, scope := 1 } 6 4 3 0,
    .amin p { ty := 0, ord := 1, l := false, scope := 6 } 6 4 3 0,
    .amax p { ty := 0, ord := 0, l := false, scope := 1 } 6 4 3 0,
    .amax p { ty := 0, ord := 1, l := false, scope := 6 } 6 4 3 0,
    .aand p { ty := 0, ord := 0, l := false, scope := 1 } 6 4 3 0,
    .aand p { ty := 0, ord := 1, l := false, scope := 6 } 6 4 3 0,
    .aor p { ty := 0, ord := 0, l := false, scope := 1 } 6 4 3 0,
    .aor p { ty := 0, ord := 1, l := false, scope := 6 } 6 4 3 0,
    .axor p { ty := 0, ord := 0, l := false, scope := 1 } 6 4 3 0,
    .axor p { ty := 0, ord := 1, l := false, scope := 6 } 6 4 3 0,
    .fence p 0 3,
    .fence p 1 6,
    .xfence p 3 0,
    .xfence p 7 1,
    .bexp p 6 false 6 4 5 0,
    .barv p 6 false 4 5 0,
    .bwait p 7 false 4 5 0,
    .semw p 6 5 6,
    .sems p 7 5 6,
    .bar p 6 false 5 6 0] = true := by decide +kernel

/-- R258: MTY, RAW, and SEL 15. -/
theorem test_illFormed_view : illFormed [
    .wld p 9 false 7 0xA0 6,
    .wld p 2 true 7 0xA0 6,
    .wst p 9 false 0xA0 6 7,
    .wst p 2 true 0xA0 6 7,
    .wvld p 3 false 0x81 0xA0 6 0,
    .wvld p 7 false 0x81 0xA0 6 0,
    .wvld p 9 false 0x81 0xA0 6 0,
    .wvst p 3 false 0xA0 6 0x81 0,
    .wvst p 7 false 0xA0 6 0x81 0,
    .wvst p 4 true 0xA0 6 0x81 0,
    .wqry p 7 0xA0 15] = true := by decide +kernel

/-- R296: TA, TB, TY, RND, and TM or TBIT without TGE. -/
theorem test_illFormed_matrix : illFormed [
    .mzero p 0xC0 { tge := false, tm := 1, tbit := 0 },
    .mma p 0xC0 4 5 0 0 false 0 0 { tge := false, tm := 1, tbit := 0 },
    .mmas p 0xC0 4 5 0 0 false 0 0 { tge := false, tm := 1, tbit := 0 },
    .mld p 0xC0 0xA0 5 0 { tge := false, tm := 1, tbit := 0 },
    .mst p 0xA0 0xC0 5 0 0 { tge := false, tm := 1, tbit := 0 },
    .msst p 4 0xC0 5 6 0 0 false { tge := false, tm := 1, tbit := 0 },
    .madd p 0xC0 0xC1 0 { tge := false, tm := 1, tbit := 0 },
    .mzero p 0xC0 { tge := false, tm := 0, tbit := 63 },
    .mma p 0xC0 4 5 0 0 false 0 0 { tge := false, tm := 0, tbit := 63 },
    .mmas p 0xC0 4 5 0 0 false 0 0 { tge := false, tm := 0, tbit := 63 },
    .mld p 0xC0 0xA0 5 0 { tge := false, tm := 0, tbit := 63 },
    .mst p 0xA0 0xC0 5 0 0 { tge := false, tm := 0, tbit := 63 },
    .msst p 4 0xC0 5 6 0 0 false { tge := false, tm := 0, tbit := 63 },
    .madd p 0xC0 0xC1 0 { tge := false, tm := 0, tbit := 63 },
    .mma p 0xC0 4 5 3 0 false 0 0 { tge := false, tm := 0, tbit := 0 },
    .mma p 0xC0 4 5 0 3 false 0 0 { tge := false, tm := 0, tbit := 0 },
    .mmas p 0xC0 4 5 3 0 false 0 0 { tge := false, tm := 0, tbit := 0 },
    .mmas p 0xC0 4 5 0 3 false 0 0 { tge := false, tm := 0, tbit := 0 },
    .mld p 0xC0 0xA0 5 3 { tge := false, tm := 0, tbit := 0 },
    .mst p 0xA0 0xC0 5 5 0 { tge := false, tm := 0, tbit := 0 },
    .mst p 0xA0 0xC0 5 0 3 { tge := false, tm := 0, tbit := 0 },
    .msst p 4 0xC0 5 6 5 0 false { tge := false, tm := 0, tbit := 0 },
    .msst p 4 0xC0 5 6 0 3 false { tge := false, tm := 0, tbit := 0 }] = true := by decide +kernel

/-- R267: barrier offset, MTY, TY, SCOPE, n, and U without ROUT 1 or 2. -/
theorem test_illFormed_copy : illFormed [
    .cpy p 4 5 6 false true true 4,
    .cpy p 4 5 6 false true false 8,
    .gath p 3 false 0x81 5 0x82 1,
    .gath p 7 false 0x81 5 0x82 1,
    .gath p 9 false 0x81 5 0x82 1,
    .gath p 2 true 0x81 5 0x82 1,
    .scat p 3 false 0x81 5 0x82 1,
    .scat p 7 false 0x81 5 0x82 1,
    .scat p 9 false 0x81 5 0x82 1,
    .scat p 2 true 0x81 5 0x82 1,
    .scadd p 2 0x81 5 0x82 1,
    .rbar p 2 3 5 6 1,
    .rbar p 0 0 5 6 1,
    .rbar p 0 6 5 6 1,
    .rbar p 0 3 5 6 0,
    .rbar p 0 3 5 6 98305,
    .ship p 0 false true 4 5 6 7,
    .ship p 3 false true 4 5 6 7] = true := by decide +kernel

/-- R388: an index that R394 or R395 does not list. -/
theorem test_illFormed_system : illFormed [
    .cwget p 5 6 4,
    .cwget p 5 6 0x26,
    .cwset p 5 6 0x31,
    .cwset p 5 6 0x42,
    .exrd p 5 6 0x8B,
    .exrd p 5 6 0x9B,
    .exwr p 5 6 0xC0,
    .exwr p 5 6 0xFF] = true := by decide +kernel

/-- R107 to R109 and R114: bad halves under each scalar row. -/
theorem test_illFormed_pairScalar : illFormed [
    .addPform p 0x51 0x12 0 { vop := 0xC, vd := 3, va := 1, vb := 2, vc := 0, ty := 0, rm := 0 },
    .subPform p 0x51 0x12 0 { vop := 0xC, vd := 3, va := 1, vb := 2, vc := 0, ty := 0, rm := 0 },
    .mulPform p 0x51 0x12 0 { vop := 0xC, vd := 3, va := 1, vb := 2, vc := 0, ty := 0, rm := 0 },
    .mulhPform p 0x51 0x12 0 { vop := 0xC, vd := 3, va := 1, vb := 2, vc := 0, ty := 0, rm := 0 },
    .mulhnPform p 0x51 0x12 0 { vop := 0xC, vd := 3, va := 1, vb := 2, vc := 0, ty := 0, rm := 0 },
    .divPform p 0x51 0x12 0 { vop := 0xC, vd := 3, va := 1, vb := 2, vc := 0, ty := 0, rm := 0 },
    .divnPform p 0x51 0x12 0 { vop := 0xC, vd := 3, va := 1, vb := 2, vc := 0, ty := 0, rm := 0 },
    .remPform p 0x51 0x12 0 { vop := 0xC, vd := 3, va := 1, vb := 2, vc := 0, ty := 0, rm := 0 },
    .remnPform p 0x51 0x12 0 { vop := 0xC, vd := 3, va := 1, vb := 2, vc := 0, ty := 0, rm := 0 },
    .andPform p 0x51 0x12 0 { vop := 0xC, vd := 3, va := 1, vb := 2, vc := 0, ty := 0, rm := 0 },
    .orPform p 0x51 0x12 0 { vop := 0xC, vd := 3, va := 1, vb := 2, vc := 0, ty := 0, rm := 0 },
    .xorPform p 0x51 0x12 0 { vop := 0xC, vd := 3, va := 1, vb := 2, vc := 0, ty := 0, rm := 0 },
    .andnPform p 0x51 0x12 0 { vop := 0xC, vd := 3, va := 1, vb := 2, vc := 0, ty := 0, rm := 0 },
    .ornPform p 0x51 0x12 0 { vop := 0xC, vd := 3, va := 1, vb := 2, vc := 0, ty := 0, rm := 0 },
    .shlPform p 0x51 0x12 0 { vop := 0xC, vd := 3, va := 1, vb := 2, vc := 0, ty := 0, rm := 0 },
    .shrPform p 0x51 0x12 0 { vop := 0xC, vd := 3, va := 1, vb := 2, vc := 0, ty := 0, rm := 0 },
    .sarPform p 0x51 0x12 0 { vop := 0xC, vd := 3, va := 1, vb := 2, vc := 0, ty := 0, rm := 0 },
    .rolPform p 0x51 0x12 0 { vop := 0xC, vd := 3, va := 1, vb := 2, vc := 0, ty := 0, rm := 0 },
    .minPform p 0x51 0x12 0 { vop := 0xC, vd := 3, va := 1, vb := 2, vc := 0, ty := 0, rm := 0 },
    .maxPform p 0x51 0x12 0 { vop := 0xC, vd := 3, va := 1, vb := 2, vc := 0, ty := 0, rm := 0 },
    .minnPform p 0x51 0x12 0 { vop := 0xC, vd := 3, va := 1, vb := 2, vc := 0, ty := 0, rm := 0 },
    .maxnPform p 0x51 0x12 0 { vop := 0xC, vd := 3, va := 1, vb := 2, vc := 0, ty := 0, rm := 0 },
    .clzPform p 0x51 0x12 0 { vop := 0xC, vd := 3, va := 1, vb := 2, vc := 0, ty := 0, rm := 0 },
    .clzPform p 0x51 0x12 1 { vop := 0x0, vd := 3, va := 1, vb := 2, vc := 0, ty := 0, rm := 0 },
    .ctzPform p 0x51 0x12 0 { vop := 0xC, vd := 3, va := 1, vb := 2, vc := 0, ty := 0, rm := 0 },
    .ctzPform p 0x51 0x12 1 { vop := 0x0, vd := 3, va := 1, vb := 2, vc := 0, ty := 0, rm := 0 },
    .popcPform p 0x51 0x12 0 { vop := 0xC, vd := 3, va := 1, vb := 2, vc := 0, ty := 0, rm := 0 },
    .popcPform p 0x51 0x12 1 { vop := 0x0, vd := 3, va := 1, vb := 2, vc := 0, ty := 0, rm := 0 },
    .brevPform p 0x51 0x12 0 { vop := 0xC, vd := 3, va := 1, vb := 2, vc := 0, ty := 0, rm := 0 },
    .brevPform p 0x51 0x12 1 { vop := 0x0, vd := 3, va := 1, vb := 2, vc := 0, ty := 0, rm := 0 },
    .bswapPform p 0x51 0x12 0 { vop := 0xC, vd := 3, va := 1, vb := 2, vc := 0, ty := 0, rm := 0 },
    .bswapPform p 0x51 0x12 1 { vop := 0x0, vd := 3, va := 1, vb := 2, vc := 0, ty := 0, rm := 0 },
    .movPform p 0x51 0x12 0 { vop := 0xC, vd := 3, va := 1, vb := 2, vc := 0, ty := 0, rm := 0 },
    .movPform p 0x51 0x12 1 { vop := 0x0, vd := 3, va := 1, vb := 2, vc := 0, ty := 0, rm := 0 },
    .madPform p 0x51 0x12 0 { vop := 0xC, vd := 3, va := 1, vb := 2, vc := 0, ty := 0, rm := 0 },
    .addPform p 0x51 0x12 0 { vop := 0x0, vd := 3, va := 1, vb := 2, vc := 0, ty := 1, rm := 0 },
    .addPform p 0x51 0x12 0 { vop := 0x0, vd := 3, va := 1, vb := 2, vc := 0, ty := 0, rm := 1 },
    .addPform p 0x51 0x12 0 { vop := 0x15, vd := 3, va := 1, vb := 2, vc := 0, ty := 0, rm := 0 },
    .addPform p 0x51 0x12 0 { vop := 0x0, vd := 3, va := 1, vb := 2, vc := 1, ty := 0, rm := 0 },
    .addPform p 0x51 0x12 0 { vop := 0x44, vd := 3, va := 1, vb := 2, vc := 0, ty := 2, rm := 0 },
    .addPform p 0x51 0x12 0 { vop := 0x0, vd := 16, va := 1, vb := 2, vc := 0, ty := 0, rm := 0 },
    .addPform p 0x51 0x12 0 { vop := 0x0, vd := 3, va := 16, vb := 2, vc := 0, ty := 0, rm := 0 },
    .addPform p 0x51 0x12 0 { vop := 0x0, vd := 3, va := 1, vb := 16, vc := 0, ty := 0, rm := 0 },
    .addPform p 0x51 0x12 0 { vop := 0x3, vd := 3, va := 1, vb := 2, vc := 16, ty := 0, rm := 0 },
    .addPform p 0x18 0x12 0 { vop := 0x0, vd := 3, va := 1, vb := 2, vc := 0, ty := 0, rm := 0 },
    .addPform p 0x1F 0x12 0 { vop := 0x0, vd := 3, va := 1, vb := 2, vc := 0, ty := 0, rm := 0 }] = true := by decide +kernel

/-- R107 and R108: a scalar operation that has no P-form, and a register past v15, under each vector row. -/
theorem test_illFormed_pairVector : illFormed [
    .vaddPform p 3 1 2 0 0 0 { sop := 27, sd := 0x51, sa := 0x12, sb := 0 },
    .vaddPform p 3 16 2 0 0 0 { sop := 0, sd := 0x51, sa := 0x12, sb := 0 },
    .vsubPform p 3 1 2 0 0 0 { sop := 27, sd := 0x51, sa := 0x12, sb := 0 },
    .vsubPform p 3 16 2 0 0 0 { sop := 0, sd := 0x51, sa := 0x12, sb := 0 },
    .vmulPform p 3 1 2 0 0 0 { sop := 27, sd := 0x51, sa := 0x12, sb := 0 },
    .vmulPform p 3 16 2 0 0 0 { sop := 0, sd := 0x51, sa := 0x12, sb := 0 },
    .vmadPform p 3 1 2 0 0 0 { sop := 27, sd := 0x51, sa := 0x12, sb := 0 },
    .vmadPform p 3 16 2 0 0 0 { sop := 0, sd := 0x51, sa := 0x12, sb := 0 },
    .vandPform p 3 1 2 0 0 0 { sop := 27, sd := 0x51, sa := 0x12, sb := 0 },
    .vandPform p 3 16 2 0 0 0 { sop := 0, sd := 0x51, sa := 0x12, sb := 0 },
    .vorPform p 3 1 2 0 0 0 { sop := 27, sd := 0x51, sa := 0x12, sb := 0 },
    .vorPform p 3 16 2 0 0 0 { sop := 0, sd := 0x51, sa := 0x12, sb := 0 },
    .vxorPform p 3 1 2 0 0 0 { sop := 27, sd := 0x51, sa := 0x12, sb := 0 },
    .vxorPform p 3 16 2 0 0 0 { sop := 0, sd := 0x51, sa := 0x12, sb := 0 },
    .vshlPform p 3 1 2 0 0 0 { sop := 27, sd := 0x51, sa := 0x12, sb := 0 },
    .vshlPform p 3 16 2 0 0 0 { sop := 0, sd := 0x51, sa := 0x12, sb := 0 },
    .vshrPform p 3 1 2 0 0 0 { sop := 27, sd := 0x51, sa := 0x12, sb := 0 },
    .vshrPform p 3 16 2 0 0 0 { sop := 0, sd := 0x51, sa := 0x12, sb := 0 },
    .vsarPform p 3 1 2 0 0 0 { sop := 27, sd := 0x51, sa := 0x12, sb := 0 },
    .vsarPform p 3 16 2 0 0 0 { sop := 0, sd := 0x51, sa := 0x12, sb := 0 },
    .vminPform p 3 1 2 0 0 0 { sop := 27, sd := 0x51, sa := 0x12, sb := 0 },
    .vminPform p 3 16 2 0 0 0 { sop := 0, sd := 0x51, sa := 0x12, sb := 0 },
    .vmaxPform p 3 1 2 0 0 0 { sop := 27, sd := 0x51, sa := 0x12, sb := 0 },
    .vmaxPform p 3 16 2 0 0 0 { sop := 0, sd := 0x51, sa := 0x12, sb := 0 },
    .vpermPform p 3 1 2 0 0 0 { sop := 27, sd := 0x51, sa := 0x12, sb := 0 },
    .vpermPform p 3 16 2 0 0 0 { sop := 0, sd := 0x51, sa := 0x12, sb := 0 },
    .vscanPform p 3 1 0 0 0 0 { sop := 27, sd := 0x51, sa := 0x12, sb := 0 },
    .vscanPform p 3 16 0 0 0 0 { sop := 0, sd := 0x51, sa := 0x12, sb := 0 },
    .vfaddPform p 3 1 2 0 0 0 { sop := 27, sd := 0x51, sa := 0x12, sb := 0 },
    .vfaddPform p 3 16 2 0 0 0 { sop := 0, sd := 0x51, sa := 0x12, sb := 0 },
    .vfsubPform p 3 1 2 0 0 0 { sop := 27, sd := 0x51, sa := 0x12, sb := 0 },
    .vfsubPform p 3 16 2 0 0 0 { sop := 0, sd := 0x51, sa := 0x12, sb := 0 },
    .vfmulPform p 3 1 2 0 0 0 { sop := 27, sd := 0x51, sa := 0x12, sb := 0 },
    .vfmulPform p 3 16 2 0 0 0 { sop := 0, sd := 0x51, sa := 0x12, sb := 0 },
    .vffmaPform p 3 1 2 0 0 0 { sop := 27, sd := 0x51, sa := 0x12, sb := 0 },
    .vffmaPform p 3 16 2 0 0 0 { sop := 0, sd := 0x51, sa := 0x12, sb := 0 },
    .vfminPform p 3 1 2 0 0 0 { sop := 27, sd := 0x51, sa := 0x12, sb := 0 },
    .vfminPform p 3 16 2 0 0 0 { sop := 0, sd := 0x51, sa := 0x12, sb := 0 },
    .vfmaxPform p 3 1 2 0 0 0 { sop := 27, sd := 0x51, sa := 0x12, sb := 0 },
    .vfmaxPform p 3 16 2 0 0 0 { sop := 0, sd := 0x51, sa := 0x12, sb := 0 },
    .vfscalePform p 3 1 2 0 0 0 { sop := 27, sd := 0x51, sa := 0x12, sb := 0 },
    .vfscalePform p 3 16 2 0 0 0 { sop := 0, sd := 0x51, sa := 0x12, sb := 0 },
    .vfex2Pform p 3 1 0 0 0 0 { sop := 27, sd := 0x51, sa := 0x12, sb := 0 },
    .vfex2Pform p 3 16 0 0 0 0 { sop := 0, sd := 0x51, sa := 0x12, sb := 0 },
    .vfrsqPform p 3 1 0 0 0 0 { sop := 27, sd := 0x51, sa := 0x12, sb := 0 },
    .vfrsqPform p 3 16 0 0 0 0 { sop := 0, sd := 0x51, sa := 0x12, sb := 0 }] = true := by decide +kernel

/-- Well-formed words at the bounds of the same checks. -/
theorem test_wellFormed_bounds : [.bfx p false 4 5 0 63,
    .bfi p 4 5 63 0,
    .lea p 4 5 6 6 0,
    .cmp p 0xB1 0 (.fld 2) 7 5 2,
    .loop p 8 1 1,
    .fcvt p 4 3 1 10 17 false 0,
    .fcmp p 0xB1 1 (.fld 2) 7 2,
    .lsfmt p 5 0 23,
    .rbar p 1 5 5 6 98304,
    .xfence p 5 1,
    .cwget p 5 6 0x25,
    .exwr p 5 6 0xBF,
    .ship p 2 true true 4 5 6 7,
    .ld p { mty := 8, l := false, raw := true, ord := 6 } 6 5 0,
    .addPform p 0x17 0x12 0 { vop := 0x0, vd := 3, va := 1, vb := 2, vc := 0, ty := 0, rm := 0 },
    .addPform p 0x20 0x12 0 { vop := 0x0, vd := 3, va := 1, vb := 2, vc := 0, ty := 0, rm := 0 }].all wellFormed = true := by decide +kernel

/-- R114: a word of each reason. -/
theorem test_illegal_words : refusesAs [(0xC00000000000000000000000, 0x01),
    (0x000200001008040000000000, 0x02),
    (0x002000001008040000000000, 0x02),
    (0x000000000000000000000000, 0x03),
    (0x000004601008040000000000, 0x04),
    (0x0001C0000000000000000000, 0x04),
    (0x0001E5E00000000000000000, 0x04),
    (0x000020000000000000000000, 0x05),
    (0x800000000000000000000001, 0x05),
    (0x800020400000000000000000, 0x05),
    (0x000002C04028020000000000, 0x06),
    (0x0000000040281A0000000000, 0x06),
    (0x000002C04028180000000000, 0x07),
    (0x000000004028180200000000, 0x07),
    (0x000000004028180000000001, 0x07),
    (0x000003604028000000004000, 0x07),
    (0x000061400008000000000000, 0x07),
    (0x000003E04028000300000000, 0x08),
    (0x000003604028000000003F01, 0x08),
    (0x0000A00814120C0100000000, 0x08),
    (0x000160C04028182000000000, 0x08),
    (0x40006D444800000061100000, 0x09),
    (0x400059444802000061100000, 0x09),
    (0x400001444800003061100000, 0x0A),
    (0x400001444800000061100400, 0x0A),
    (0x400001444800000061114000, 0x0A),
    (0x400001444800000201100000, 0x0B),
    (0x400001444800000061100001, 0x0C),
    (0x400001444801000061100000, 0x0C),
    (0x400000604800000061100000, 0x0D)] = true := by decide +kernel

/-! ## States of the tests -/

/-- A frond of the job of the tests, with the first general registers given. -/
def frond (regs : List Word) : Frond :=
  { placedFrond State.reset 1 with g := regs ++ List.replicate (128 - regs.length) 0 }

/-- An operational part whose core 0 runs the job, with the frond at issue. -/
def at_ (f : Frond) : State :=
  { State.reset with
      mgmt := { Mgmt.reset with state := .operational, dark := false, step := 7 }, clk := 1000, jobs := [placedWordJob State.reset 1]
      cores := [placedCore 1], engines := [{ Engine.fresh 0 with owner := some 1, mainJob := some 1 }], fresh := 100, issuing := some f }

/-- The same machine with no word at issue and one occurrence at hand. -/
def event (o : Subject) : State := { at_ (frond []) with issuing := none, subject := o }

/-- The operand field of a general register. -/
def r (n : Nat) : Opnd := BitVec.ofNat 9 n

/-- The frond at issue after an answer. -/
def frondOf (o : Answer) : Option Frond :=
  match o with
  | .next t => t.issuing
  | _ => none

/-- The machine after an answer. -/
def stateOf (o : Answer) : Option State :=
  match o with
  | .next t => some t
  | _ => none

/-- A general register after an answer. -/
def reg (o : Answer) (n : Nat) : Option Word := (frondOf o).map (fun f => f.reg n)

/-- A general register, and the flags, after an answer. -/
def regFlags (o : Answer) (n : Nat) : Option (Word × BitVec 7) := (frondOf o).map (fun f => (f.reg n, f.flags))

/-- A predicate after an answer. -/
def predOf (o : Answer) (n : Nat) : Option Bool := (frondOf o).map (fun f => f.pred n)

/-- The PC after an answer. -/
def pcOf (o : Answer) : Option Nat := (frondOf o).map (fun f => f.pc)

/-- Lane `l` of a vector register after an answer. -/
def laneOf (o : Answer) (n l : Nat) : Option (BitVec 32) := (frondOf o).map (fun f => lane (f.vreg n) l)

/-- The saved PC, cause and information after an answer, for a frond in its handler or Halted. -/
def trapOf (o : Answer) : Option (Word × Word × Word) := (frondOf o).map (fun f => (f.epc, f.ecause, f.einfo))

/-- What `AtIssue` asks, as one check. -/
theorem atIssue_of (s : State) (f : Frond) (h : Hints)
    (hb : (decide (s.issuing = some f) && decide (f.pred h.gq.toNat ≠ h.gn)
      && decide (outPred f h.gq.toNat = false) && decide (f.held = []) && decide (f.heldH = [])) = true) :
    AtIssue s f h := by
  simp only [Bool.and_eq_true, decide_eq_true_eq] at hb
  exact ⟨hb.1.1.1.1, hb.1.1.1.2, hb.1.1.2, hb.1.2, hb.2⟩

/-- The value, and the frond and machine, that a part of a word gives. -/
def gaveOk {α : Type} [DecidableEq α] (x : Except Stop α × Ctx) (a : α) (c : Ctx) : Bool :=
  match x with
  | (.ok b, d) => decide (b = a) && decide (d = c)
  | _ => false

/-- How a part of a word stops. -/
def stopped {α : Type} (x : Except Stop α × Ctx) (st : Stop) (c : Ctx) : Bool :=
  match x with
  | (.error b, d) => decide (b = st) && decide (d = c)
  | _ => false

/-- What `Gives` asks, as one check. -/
theorem gives_of {α : Type} [DecidableEq α] (m : M α) (c : Ctx) (a : α) (c' : Ctx)
    (hb : gaveOk (ExceptT.run m c) a c' = true) : Gives m c a c' := by
  unfold Gives
  unfold gaveOk at hb
  split at hb
  · rename_i h
    simp only [Bool.and_eq_true, decide_eq_true_eq] at hb
    exact h.trans (by rw [hb.1, hb.2])
  · cases hb

/-- A part of a word gives something and changes nothing, as one check. -/
theorem givesSome_of {α : Type} (m : M α) (c : Ctx)
    (hb : (match (ExceptT.run m c : Except Stop α × Ctx) with
      | (.ok _, d) => decide (d = c)
      | _ => false) = true) : ∃ a, Gives m c a c := by
  unfold Gives
  split at hb
  · rename_i h
    simp only [decide_eq_true_eq] at hb
    exact ⟨_, h.trans (by rw [hb])⟩
  · cases hb

/-- What `Stops` asks, as one check. -/
theorem stops_of {α : Type} (m : M α) (c : Ctx) (st : Stop) (c' : Ctx)
    (hb : stopped (ExceptT.run m c) st c' = true) : Stops m c st c' := by
  unfold Stops
  unfold stopped at hb
  split at hb
  · rename_i h
    simp only [Bool.and_eq_true, decide_eq_true_eq] at hb
    exact h.trans (by rw [hb.1, hb.2])
  · cases hb

/-! ## Witnesses: integer, predicate and control words -/

def two : Frond := frond [0, 5, 7]

/-- No operation waits at a port of a machine whose cores list none. -/
theorem undisturbed_of (s : State) (q : Place) (n : Nat) (h : s.cores.all (fun c => c.waitList.isEmpty) = true) :
    Undisturbed s q n := by
  intro a _ c w hw
  simp only [List.all_eq_true, List.isEmpty_iff] at h
  have hc : (getCore s c).waitList = [] := by
    unfold getCore
    cases hf : s.cores.find? (fun k => k.pcid == c) with
    | none => rfl
    | some k => exact h k (List.mem_of_find?_eq_some hf)
  rw [hc] at hw
  cases hw


/-- Two source words, with a register, `zero`, a special register and a wide immediate. -/
theorem witness_IntegerTwoSources : AtIssue (at_ two) two p ∧ dstOk two (r 127) = true ∧ dstOk two 0xD0 = true
    ∧ dstOk two 0xDC = true ∧ srcVal (at_ two) two (r 1) = some 5 ∧ srcVal (at_ two) two 0xD0 = some 0
    ∧ srcVal (at_ two) two 0x1FF = some (-1) ∧ srcVal (at_ two) two 0xD7 = some 1000
    ∧ srcValB (at_ two) two (.fld (r 2)) = some 7 ∧ srcValB (at_ two) two (.wide 0x80000000) = some (-0x80000000) :=
  ⟨atIssue_of _ _ _ (by decide +kernel), by decide +kernel⟩

/-- The four cases of a division: by zero, unsigned, signed, and the least value by -1, at both widths. -/
theorem witness_IntegerDivision :
    let f := frond [0, 0x8000000000000000, 0xFFFFFFFFFFFFFFFF, 0, 0x80000000, 1]
    AtIssue (at_ f) f p ∧ dstOk f (r 7) = true ∧ srcVal (at_ f) f (r 1) = some (BitVec.intMin 64)
    ∧ srcValB (at_ f) f (.fld (r 2)) = some (BitVec.allOnes 64) ∧ srcValB (at_ f) f (.fld (r 3)) = some 0
    ∧ srcVal (at_ f) f (r 4) = some 0x80000000 ∧ (0x80000000#64).setWidth 32 = BitVec.intMin 32
    ∧ srcValB (at_ f) f (.fld (r 5)) = some 1 :=
  ⟨atIssue_of _ _ _ (by decide +kernel), by decide +kernel⟩

theorem witness_IntegerOneSource : AtIssue (at_ two) two p ∧ dstOk two (r 3) = true
    ∧ srcVal (at_ two) two (r 0) = some 0 ∧ srcVal (at_ two) two (r 2) = some 7 :=
  ⟨atIssue_of _ _ _ (by decide +kernel), by decide +kernel⟩

/-- Fields of 1 and of 64 bits, a predicate that selects, and an old destination. -/
theorem witness_FieldsAndMoves : AtIssue (at_ two) two p ∧ dstOk two (r 3) = true ∧ srcVal (at_ two) two (r 3) = some 0
    ∧ srcVal (at_ two) two (r 1) = some 5 ∧ srcValB (at_ two) two (.fld (r 2)) = some 7
    ∧ srcVal (at_ two) two (r 2) = some 7
    ∧ (0#6).toNat + (63#6).toNat < 64 ∧ (63#6).toNat + (0#6).toNat < 64 ∧ outPred two (15#4).toNat = false :=
  ⟨atIssue_of _ _ _ (by decide +kernel), by decide +kernel⟩

theorem witness_PredicateWords : AtIssue (at_ two) two p ∧ predOk two 0xB0 ∧ predOk two 0xBF
    ∧ srcVal (at_ two) two (r 1) = some 5 ∧ srcValB (at_ two) two (.fld (r 2)) = some 7 ∧ (2#2) ≠ 3
    ∧ (∀ n, n < 16 → outPred two n = false) ∧ dstOk two (r 3) = true :=
  ⟨atIssue_of _ _ _ (by decide +kernel), by unfold predOk; decide +kernel⟩

/-- A target at each bound: aligned below 2^56, misaligned, and past the address space. -/
theorem witness_Transfers :
    let f := frond [0, 0xFFFFFFFFFFFFFC, 2, 0x100000000000000]
    AtIssue (at_ f) f p ∧ dstOk f (r 7) = true
    ∧ srcVal (at_ f) f (r 1) = some 0xFFFFFFFFFFFFFC ∧ 0xFFFFFFFFFFFFFC % 4 = 0 ∧ 0xFFFFFFFFFFFFFC < 2 ^ 56
    ∧ srcVal (at_ f) f (r 2) = some 2 ∧ 2 % 4 ≠ 0
    ∧ srcVal (at_ f) f (r 3) = some 0x100000000000000 ∧ 2 ^ 56 ≤ 0x100000000000000 :=
  ⟨atIssue_of _ _ _ (by decide +kernel), by decide +kernel⟩

/-- A loop level whose last word is the second of its body. -/
def level (start blen count pass maxt : Nat) (w : Bool) : Level :=
  { start := start, blen := blen, maxt := maxt, pass := pass, count := count, while_ := w }

/-- A frond with loop levels, the innermost last. -/
def inLoops (l : List Level) (pc : Nat) : Frond := { frond [0, 5, 0] with loops := l, pc := pc }

/-- A free level, four levels, and a last word shared with an outer level. -/
theorem witness_HardwareLoops :
    let free := inLoops [level 0x100C 8 5 1 9 false] 0x1000
    let full := inLoops (List.replicate 4 (level 0x100C 8 5 1 9 false)) 0x1000
    AtIssue (at_ free) free p ∧ AtIssue (at_ full) full p
    ∧ srcVal (at_ free) free (r 1) = some 5 ∧ srcVal (at_ free) free (r 2) = some 0 ∧ srcVal (at_ full) full (r 1) = some 5
    ∧ free.loops.length < 4 ∧ 4 ≤ full.loops.length ∧ (∀ l ∈ free.loops, l.last ≠ (free.pc + 12 * (1#12).toNat) % 2 ^ 56)
    ∧ (free.loops[0]?.map (fun l => l.last)) = some ((free.pc + 12 * (8#12).toNat) % 2 ^ 56)
    ∧ free.loops = [] ++ [level 0x100C 8 5 1 9 false] ∧ (inLoops [] 0x1000).loops = [] :=
  ⟨atIssue_of _ _ _ (by decide +kernel), atIssue_of _ _ _ (by decide +kernel), by decide +kernel⟩

/-- The end test: a counted loop at its last pass, a loop at its most passes, one with a pass left, and a `loopw`. -/
theorem witness_HardwareLoops_end :
    let l := fun count pass maxt w => level 0x1000 2 count pass maxt w
    let f := fun x => inLoops [x] 0x100C
    AtIssue (at_ (f (l 5 5 9 false))) (f (l 5 5 9 false)) p ∧ AtIssue (at_ (f (l 5 3 3 false))) (f (l 5 3 3 false)) p
    ∧ AtIssue (at_ (f (l 5 2 3 false))) (f (l 5 2 3 false)) p ∧ AtIssue (at_ (f (l 0 3 3 true))) (f (l 0 3 3 true)) p
    ∧ (f (l 5 5 9 false)).pc = ((l 5 5 9 false).start + 12 * ((l 5 5 9 false).blen - 1)) % 2 ^ 56
    ∧ ((f (l 5 5 9 false)).hnd = true → (f (l 5 5 9 false)).entryDepth ≤ ([] : List Level).length) := by
  and_intros
  all_goals
    first
    | decide +kernel
    | exact atIssue_of _ _ _ (by decide +kernel)

/-- A count of 0, a count that is 0 in its low 32 bits, and a count of 2^32 - 1. -/
theorem witness_Waiting :
    let f := frond [0, 0x100000000, 0xFFFFFFFF]
    AtIssue (at_ f) f p ∧ f.wait = .run ∧ srcValB (at_ f) f (.fld (r 0)) = some 0
    ∧ srcValB (at_ f) f (.fld (r 1)) = some 0x100000000 ∧ (0x100000000#64).setWidth 32 = 0#32
    ∧ srcValB (at_ f) f (.fld (r 2)) = some 0xFFFFFFFF ∧ (0xFFFFFFFF#64).setWidth 32 ≠ 0#32
    ∧ ∃ t g, completes (at_ f) f f p = .next t ∧ t.issuing = some g :=
  ⟨atIssue_of _ _ _ (by decide +kernel), by decide +kernel, by decide +kernel, by decide +kernel, by decide +kernel,
    by decide +kernel, by decide +kernel, _, _, rfl, rfl⟩

/-! ## Witnesses: numbers and vectors -/

theorem witness_FloatScalarWords :
    let f := frond [0, 0x3F800000, 0x7FC00000]
    AtIssue (at_ f) f p ∧ dstOk f (r 3) = true ∧ srcVal (at_ f) f (r 1) = some 0x3F800000
    ∧ srcValB (at_ f) f (.fld (r 2)) = some 0x7FC00000 ∧ srcVal (at_ f) f (r 2) = some 0x7FC00000
    ∧ srcValB (at_ f) f (.wide 0x80000001) = some 0xFFFFFFFF80000001 :=
  ⟨atIssue_of _ _ _ (by decide +kernel), by decide +kernel⟩

/-- Patterns of each case: a number and a number, a quiet and a signalling NaN, a negative number, and NaNs in both
places. -/
theorem witness_FloatOrder :
    (0x7F800000 < (0x7FC00001#32 &&& 0x7FFFFFFF).toNat) ∧ (0x7F800000 < (0x7F800001#32 &&& 0x7FFFFFFF).toNat)
    ∧ ¬ (0x7F800000 < (0x7F800000#32 &&& 0x7FFFFFFF).toNat)
    ∧ (0x80000001#32).msb = true ∧ 0x80000000 < (0x80000001#32).toNat ∧ (0xFF800000#32).toNat ≤ 0xFF800000
    ∧ (0x00000001#32 &&& 0x7FFFFFFF).toNat ≠ 0 ∧ (0x7F7FFFFF#32 &&& 0x7FFFFFFF).toNat < 0x7F800000
    ∧ 4 < 5 ∧ 8191 < 8192 := by decide

/-- Finite values of each case: the greatest, one that rounds up, one that turns into 1/2 of a power of 2 on either side, the ends
of `vfex2`. -/
theorem witness_Roundings :
    let finite (x : BitVec 32) : Bool := decide ((x &&& 0x7FFFFFFF).toNat < 0x7F800000)
    let units (x : BitVec 32) : Nat := f32Units (x &&& 0x7FFFFFFF).toNat
    let near (x : BitVec 32) (n : Int) (f : BitVec 32) : Bool :=
      decide (-160 * 2 ^ 149 ≤ f32Signed x ∧ f32Signed x < 128 * 2 ^ 149 ∧ f32Signed x = n * 2 ^ 149 + f32Signed f
        ∧ 2 * (f32Signed f).natAbs ≤ 2 ^ 149 ∧ (2 * (f32Signed f).natAbs = 2 ^ 149 → n % 2 = 0))
    (0x7F800000#32 &&& 0x7FFFFFFF).toNat ≤ 0x7F800000 ∧ 65535 < 65536 ∧ 4 < 5 ∧ 0 < 3
    ∧ ([8, 16, 32, 64].all (fun b => [8, 16, 32, 64].contains b) = true)
    ∧ ([0, 1, 0x80000001, 0x7F7FFFFF, 0xFF7FFFFF, 0x3F800000, 0x43000000, 0xC3210000] : List (BitVec 32)).all finite = true
    ∧ units 1 ≠ 0 ∧ (1#32).msb = false ∧ 128 * 2 ^ 149 ≤ f32Signed 0x43000000 ∧ f32Signed 0xC3210000 < -160 * 2 ^ 149
    ∧ near 0x3F800000 1 0 ∧ near 0x3F000000 0 0x3F000000 ∧ near 0x3FC00000 2 0xBF000000 ∧ near 0xC3200000 (-160) 0
    ∧ near 0x42FFFFFF 128 0xB7000000 := by
  decide +kernel

/-- An argument of `vfrsq` on a power of 4, above and below 1, and one between two of them. -/
theorem witness_Roundings_vfrsq :
    let units (x : BitVec 32) : Nat := f32Units (x &&& 0x7FFFFFFF).toNat
    [(0x3F800000#32, 0x3F800000#32, (0 : Int)), (0x40800000#32, 0x3F800000#32, 1), (0x40000000#32, 0x40000000#32, 0),
      (0x3E800000#32, 0x3F800000#32, -1)].all (fun a =>
        let x := a.1
        let m := a.2.1
        let k := a.2.2
        let step (y : Nat) :=
          (fFma 0 0 0 (fMul 0 0 0 y 0x3F000000).1 (fFma 0 0 0 ((fMul 0 0 0 y m.toNat).1 ^^^ 2 ^ 31) y 0x3F800000).1 y).1
        let y := step (step (step (step (fFma 0 0 0 0xBE200000 m.toNat 0x3F900000).1)))
        decide (x.msb = false ∧ m.msb = false ∧ units x ≠ 0 ∧ 0x3F800000 ≤ m.toNat ∧ m.toNat < 0x40800000
          ∧ units x * 4 ^ (-k).toNat = units m * 4 ^ k.toNat
          ∧ f32Units (BitVec.ofNat 32 (fRsq 0 0 0 x.toNat).1).toNat * 2 ^ k.toNat = f32Units y * 2 ^ (-k).toNat)) = true := by
  decide +kernel

theorem witness_FloatComparisonsAndConversions :
    let f := frond [0, 0x3F800000, 0x40000000]
    AtIssue (at_ f) f p ∧ srcVal (at_ f) f (r 1) = some 0x3F800000 ∧ predOk f 0xB1
    ∧ srcValB (at_ f) f (.fld (r 2)) = some 0x40000000 ∧ dstOk f (r 3) = true ∧ (2#2) ≠ 3
    ∧ (featBits (aside (at_ f)) f.pcid f.jid f.urgent).toNat.testBit 0 = true
    ∧ entryUnused (aside (at_ f)) f.jid 1 = true :=
  ⟨atIssue_of _ _ _ (by decide +kernel), by unfold predOk; decide +kernel⟩

/-- A job with a format in entry 1: `e4m3` (R39, R164). -/
def withFormat (s : State) (e : BitVec 32) : State :=
  { s with jobs := s.jobs.map (fun j => { j with fmts := j.fmts.set 1 e }) }

theorem vectorReady_of (s : State) (f : Frond)
    (hb : ((featBits (aside s) f.pcid f.jid f.urgent).toNat.testBit 1
      && !pipeRefuses (getCore (aside s) f.pcid) s.clk (slotNum f) && (!s.pacing || f.urgent)) = true) :
    VectorReady s f := by
  simp only [Bool.and_eq_true, Bool.not_eq_true', Bool.or_eq_true] at hb
  exact ⟨hb.1.1, hb.1.2, hb.2⟩

/-- A frond with vector registers 1 to 4 filled, and its core's pipe free. -/
def vecs : Frond := frond (List.replicate 8 0 ++ (List.range 32).map (fun i => BitVec.ofNat 64 (0x3F80000040000000 + i)))

theorem vecs_ready : AtIssue (at_ vecs) vecs p ∧ VectorReady (at_ vecs) vecs :=
  ⟨atIssue_of _ _ _ (by decide +kernel), vectorReady_of _ _ (by decide +kernel)⟩

theorem witness_VectorIntegerWords : AtIssue (at_ vecs) vecs p ∧ VectorReady (at_ vecs) vecs
    ∧ srcVec vecs 0x81 = some (vecs.vreg 1) ∧ srcVec vecs 0x8F = some 0 ∧ srcVec vecs 0xD0 = some 0
    ∧ srcVec vecs 0x1FF = some (ofLanes (List.replicate 16 0xFFFFFFFF))
    ∧ srcVecB vecs (.wide 0x80000000) = some (ofLanes (List.replicate 16 0x80000000))
    ∧ dstVecOk vecs 0x8F = true ∧ dstVecOk vecs 0xD0 = true ∧ dstOk vecs (r 7) = true
    ∧ srcVal (at_ vecs) vecs (r 0) = some 0 ∧ srcValB (at_ vecs) vecs (.fld 0x10F) = some 15 :=
  ⟨vecs_ready.1, vecs_ready.2, by decide +kernel⟩

theorem witness_VectorFloatWords : AtIssue (at_ vecs) vecs p ∧ VectorReady (at_ vecs) vecs
    ∧ srcVec vecs 0x81 = some (vecs.vreg 1) ∧ srcVecB vecs (.fld 0x82) = some (vecs.vreg 2)
    ∧ srcVec vecs 0x83 = some (vecs.vreg 3) ∧ dstVecOk vecs 0x84 = true ∧ dstOk vecs (r 7) = true
    ∧ srcVal (at_ vecs) vecs (r 7) = some 0 :=
  ⟨vecs_ready.1, vecs_ready.2, by decide +kernel⟩

/-- With a usable format, and with an unused one. -/
theorem witness_PackingWords :
    let s := withFormat (at_ vecs) 0x00090798
    AtIssue s vecs p ∧ VectorReady s vecs ∧ srcVec vecs 0x81 = some (vecs.vreg 1) ∧ dstVecOk vecs 0x82 = true
    ∧ srcVal s vecs (r 0) = some 0 ∧ srcVec vecs 0x82 = some (vecs.vreg 2)
    ∧ ((1#4) ≠ 0 ∧ entryUnused (aside s) vecs.jid (1#4).toNat = false)
    ∧ ((2#4) ≠ 0 ∧ entryUnused (aside s) vecs.jid (2#4).toNat = true)
    ∧ (featBits (aside s) vecs.pcid vecs.jid vecs.urgent).toNat.testBit 0 = true :=
  ⟨atIssue_of _ _ _ (by decide +kernel), vectorReady_of _ _ (by decide +kernel), by decide +kernel⟩

/-- The operands of a pair of two-source halves, and of a `mad` beside a `vffma`. -/
theorem witness_PairWords :
    let f := vecs
    let v : VHalf := { vop := 0x43, vd := 4, va := 1, vb := 2, vc := 3, ty := 0, rm := 0 }
    AtIssue (at_ f) f p ∧ VectorReady (at_ f) f
    ∧ PairReads (at_ f) f { sop := 0, sd := 3, sa := 1, sb := 0x105 } v 0 5 0 (f.vreg 1) (f.vreg 2) (f.vreg 3)
    ∧ PairReads (at_ f) f { sop := 34, sd := 3, sa := 1, sb := 0x105 } v 0 5 0 (f.vreg 1) (f.vreg 2) (f.vreg 3)
    ∧ PairReads (at_ f) f { sop := 22, sd := 3, sa := 1, sb := 0 } { v with vop := 0x4C, vb := 0, vc := 0 }
        0 9 9 (f.vreg 1) 0 0
    ∧ sopOk (0#7).toNat = true ∧ sopOk (34#7).toNat = true :=
  ⟨vecs_ready.1, vecs_ready.2, by unfold PairReads; decide +kernel, by unfold PairReads; decide +kernel,
    by unfold PairReads; decide +kernel, by decide +kernel⟩

/-! ## Witnesses: memory and synchronising words -/

/-- An element at a place of its own, at an address of memory. -/
def vaElem (va : Nat) (place : Place) (size lane : Nat) : Elem :=
  { place := place, va := va, size := size, lane := lane, coding := .raw, val := 0, performed := false, applied := false
    cnt := none }

/-- An element in the local store of core 0. -/
def lsElem (off size lane : Nat) : Elem := vaElem (windowBase + off) (.ls off) size lane

/-- A frond with an offset in `g5`, a value in `g6` and a stride in `g7`. -/
def mem : Frond := frond [0, 0, 0, 0, 0, 0x1000, 77, 8]

/-- What a word of `mem` starts from. -/
def memCtx : Ctx := startOf (at_ mem) mem

theorem mayAccess_of (s : State) (f : Frond)
    (hb : (!acquiring (aside s) f.uid && decide (f.outs.length < 8)) = true) : MayAccess s f := by
  simp only [Bool.and_eq_true, Bool.not_eq_true', decide_eq_true_eq] at hb
  exact hb

theorem released_of (s : State) (f : Frond) (on : Nat → Bool) (scope : Nat)
    (hb : (f.outs.isEmpty && released (aside s) f.uid on scope) = true) : Released s f on scope := by
  simp only [Bool.and_eq_true, List.isEmpty_iff] at hb
  exact hb

/-- A word load at the last word of the local store, a vector load and a strided one. -/
theorem witness_LoadsStart :
    let m : MemFn := { mty := 2, l := true, raw := false, ord := 0 }
    let one := [lsElem 0x1004 4 0]
    let many := (List.range 16).map (fun l => lsElem (0x1000 + 4 * l) 4 l)
    let apart := (List.range 16).map (fun l => lsElem (0x1000 + 8 * l) 4 l)
    AtIssue (at_ mem) mem p ∧ MayAccess (at_ mem) mem ∧ srcVal (at_ mem) mem (r 5) = some 0x1000
    ∧ resOk mem (r 8) = true ∧ resOk mem 0xD0 = true ∧ dstVecOk mem 0x81 = true ∧ srcVal (at_ mem) mem (r 7) = some 8
    ∧ Gives (elementsOf m.mty.toNat m.raw m.l false none (fun _ => [(0, addressOf 0x1000 4)])) memCtx one memCtx
    ∧ Gives (serveWalk p one) memCtx false memCtx
    ∧ Gives (elementsOf m.mty.toNat m.raw m.l false none
        (fun n => (List.range 16).map (fun l => (l, (addressOf 0x1000 0 + l * n) % 2 ^ 64)))) memCtx many memCtx
    ∧ Gives (serveWalk p many) memCtx false memCtx
    ∧ Gives (elementsOf m.mty.toNat m.raw m.l false none
        (fun _ => (List.range 16).map (fun l => (l, (addressOf 0x1000 0 + l * 8) % 2 ^ 64)))) memCtx apart memCtx
    ∧ Gives (serveWalk p apart) memCtx false memCtx := by
  and_intros
  all_goals
    first
    | decide +kernel
    | exact atIssue_of _ _ _ (by decide +kernel)
    | exact mayAccess_of _ _ (by decide +kernel)
    | exact gives_of _ _ _ _ (by decide +kernel)

/-- A plain store and a release at system scope; a vector store and a strided one. -/
theorem witness_StoresStart :
    let m : MemFn := { mty := 2, l := true, raw := false, ord := 6 }
    let one := [lsElem 0x1004 4 0]
    let many := (List.range 16).map (fun l => lsElem (0x1000 + 4 * l) 4 l)
    let apart := (List.range 16).map (fun l => lsElem (0x1000 + 8 * l) 4 l)
    AtIssue (at_ mem) mem p ∧ acquiring (aside (at_ mem)) mem.uid = false ∧ srcVal (at_ mem) mem (r 5) = some 0x1000
    ∧ m.ord ≠ 0 ∧ Released (at_ mem) mem onCORE (m.ord.toNat - 1) ∧ srcVal (at_ mem) mem (r 6) = some 77
    ∧ srcVal (at_ mem) mem (r 7) = some 8 ∧ srcVec mem 0x81 = some 0
    ∧ Gives (elementsOf m.mty.toNat m.raw m.l true none (fun _ => [(0, addressOf 0x1000 4)])) memCtx one memCtx
    ∧ Gives (serveWalk p one) memCtx false memCtx ∧ Gives (waitClock one) memCtx () memCtx
    ∧ Gives (elementsOf m.mty.toNat m.raw m.l true none
        (fun n => (List.range 16).map (fun l => (l, (addressOf 0x1000 0 + l * n) % 2 ^ 64)))) memCtx many memCtx
    ∧ Gives (serveWalk p many) memCtx false memCtx ∧ Gives (waitClock many) memCtx () memCtx
    ∧ Gives (elementsOf m.mty.toNat m.raw m.l true none
        (fun _ => (List.range 16).map (fun l => (l, (addressOf 0x1000 0 + l * 8) % 2 ^ 64)))) memCtx apart memCtx
    ∧ Gives (serveWalk p apart) memCtx false memCtx ∧ Gives (waitClock apart) memCtx () memCtx := by
  and_intros
  all_goals
    first
    | decide +kernel
    | exact atIssue_of _ _ _ (by decide +kernel)
    | exact released_of _ _ _ _ (by decide +kernel)
    | exact gives_of _ _ _ _ (by decide +kernel)

/-- The last word in reach, the first out of reach and a misaligned one; a window address; and for `lsfmt` an address of
no region, a run past the local store, a run into a carrel, and one that it may name. -/
theorem witness_LocalStore :
    let f := frond [0, 0x4000, 0x50000, 0x1]
    AtIssue (at_ f) f p ∧ acquiring (aside (at_ f)) f.uid = false ∧ (2 < 8)
    ∧ (0x5FFFC + 2 ^ (2 % 4) ≤ 0x60000 ∧ 0x5FFFC % 2 ^ (2 % 4) = 0) ∧ 0x60000 < 0x5FFFD + 2 ^ (2 % 4)
    ∧ (0x5FFF8 + 8 ≤ 0x60000 ∧ 0x5FFF8 % 8 = 0) ∧ 0x60000 < 0x5FFF9 + 8 ∧ inWindow 0x1000 = false
    ∧ windowOk (aside (at_ f)) f.jid (windowBase + 8) = some (0, 8) ∧ inWindow (windowBase + 8) = true
    ∧ (windowBase + 8) % 8 = 0
    ∧ srcVal (at_ f) f (r 1) = some 0x4000 ∧ srcVal (at_ f) f (r 2) = some 0x50000 ∧ srcVal (at_ f) f (r 3) = some 1
    ∧ (getCore (aside (at_ f)) f.pcid).carrels.length = 4
    ∧ 0x4000 % 0x4000 = 0 ∧ 0x4000 / 0x4000 + ((18#5).toNat + 1) ≤ 24 - 4
    ∧ 24 - 4 < 0x4000 / 0x4000 + ((19#5).toNat + 1) ∧ 0x4000 / 0x4000 + ((19#5).toNat + 1) ≤ 24
    ∧ 24 < 0x50000 / 0x4000 + ((4#5).toNat + 1) ∧ 1 % 0x4000 ≠ 0
    ∧ localPending (aside (at_ f)) f.uid f.pcid = false ∧ mapWf 0 (at_ f).fmtMap :=
  ⟨atIssue_of _ _ _ (by decide +kernel), by decide +kernel⟩

/-- A flight of a frond: a load of the local store that has not been performed. -/
def loadFlight (f : Frond) : Flight :=
  { id := 90, uid := f.uid, jid := f.jid, path := pathCORE, pcid := f.pcid, dest := .g 9, op := .load 2 false
    elems := [lsElem 0x1000 4 0], piece := false, issued := 990, due := 990, back := 12, done := none
    acq := none, view := none, tries := 0, first := none, frozen := 0, failed := none, blocks := none }

/-- With the frond's own load on its way, `lsfmt` waits. -/
theorem witness_LocalStore_waits :
    let f := { frond [0, 0x4000] with outs := [{ id := 90, dest := .g 9 }] }
    let s := { at_ f with flights := [loadFlight f] }
    AtIssue s f p ∧ acquiring (aside s) f.uid = false ∧ srcVal s f (r 1) = some 0x4000
    ∧ localPending (aside s) f.uid f.pcid = true :=
  ⟨atIssue_of _ _ _ (by decide +kernel), by decide +kernel⟩

/-- A block of a WALK page that the frond's own core holds, and a place off WALK pages. -/
def walkElem (block off pa : Nat) : Elem :=
  vaElem (block * blockSize + off) (.walk 1 block off pa) 1 0

/-- A page of 2 MiB at VA 0x200000, on HBM at 0x400000. -/
def page (walk wr : Bool) : Trans :=
  { die := 0, jid := 1, va := 0x200000, size := 0x200000, pa := 0x400000, host := false, wr := wr, walk := walk
    tier := false, fcode := 0, spl := false, cnt := false }

/-- A machine whose translation store holds the page, for a job with core 0 as its walk-core set. -/
def paged (s : State) (walk : Bool) : State :=
  { s with tstore := [page walk true], jobs := s.jobs.map (fun j => { j with wset := [0] }) }

/-- The block of VA 0x200000 resident in carrel 0 of core 0, with a pin count. -/
def resident (s : State) (pins : Nat) (others : List Carrel) : State :=
  { s with cores := s.cores.map (fun c => { c with carrels :=
      { Carrel.none with state := .resident, jid := 1, block := 0x80, pa := 0x400000, pins := pins } :: others }) }

/-- A frond with an address on the page in `g5`. -/
def onPage : Frond := { frond [0, 0, 0, 0, 0, 0x200004, 77] with rooted := false }

/-- `hold` and `pin` of a resident block on a WALK page; off WALK pages; the bounds of a pin count. -/
theorem witness_ResidencyWords :
    let s := resident (paged (at_ onPage) true) 0 [Carrel.none]
    let e := walkElem 0x80 4 0x400000
    let c := startOf s onPage
    let t := (ExceptT.run (serveWalk p [e]) c).2
    let off := paged (at_ onPage) false
    let e' := vaElem 0x200004 (.hbm 0x400004) 1 0
    AtIssue s onPage p ∧ MayAccess s onPage ∧ srcVal s onPage (r 5) = some 0x200004
    ∧ Gives (residencySite (addressOf 0x200004 0)) c e c ∧ Gives (serveWalk p [e]) c false { t with flags := 0 }
    ∧ predOk onPage 0xB1 ∧ (findJob (aside s) 1).bind (fun j => homeCore j 0x80) = some onPage.pcid
    ∧ Gives (residencySite (addressOf 0x200004 0)) (startOf off onPage) e' (startOf off onPage)
    ∧ residentAt s 1 0x80 = some (0, 0) ∧ residentAt s 1 0x81 = none
    ∧ ((getCore s 0).carrels[0]?).map (fun x => x.pins) = some 0
    ∧ (getCore s 0).carrels.zipIdx.any (fun x => x.2 != 0 && x.1.pins == 0) = true
    ∧ ((getCore (resident s 255 []) 0).carrels[0]?).map (fun x => x.pins) = some 255
    ∧ (getCore (resident s 255 []) 0).carrels.zipIdx.any (fun x => x.2 != 0 && x.1.pins == 0) = false := by
  and_intros
  all_goals
    first
    | decide +kernel
    | exact atIssue_of _ _ _ (by decide +kernel)
    | exact mayAccess_of _ _ (by decide +kernel)
    | exact gives_of _ _ _ _ (by decide +kernel)
    | (unfold predOk; decide +kernel)

/-- A frond that waits at the port of a block of its own, for it is rooted. -/
theorem witness_ResidencyWords_rooted :
    let f := { onPage with rooted := true }
    let s := paged (at_ f) true
    let e := walkElem 0x80 4 0x400000
    AtIssue s f p ∧ MayAccess s f ∧ Gives (residencySite (addressOf 0x200004 0)) (startOf s f) e (startOf s f)
    ∧ Gives (serveWalk p [e]) (startOf s f) true (startOf s f) := by
  and_intros
  all_goals
    first
    | decide +kernel
    | exact atIssue_of _ _ _ (by decide +kernel)
    | exact mayAccess_of _ _ (by decide +kernel)
    | exact gives_of _ _ _ _ (by decide +kernel)

/-- The greatest count of a barrier word, the first one past it, and the bounds of `bar`. -/
theorem witness_SyncWords :
    let f := frond [0, 0, 0, 0, 0x1000, 0x7FFFFFFFFFFF, 0x800000000000, 0xFFFFFF, 0x1000000]
    let s := at_ f
    let e := lsElem 0x1008 8 0
    AtIssue s f p ∧ MayAccess s f ∧ srcVal s f (r 4) = some 0x1000
    ∧ srcVal s f (r 5) = some 0x7FFFFFFFFFFF ∧ (0x7FFFFFFFFFFF#64).toNat < 2 ^ 47
    ∧ srcVal s f (r 6) = some 0x800000000000 ∧ 2 ^ 47 ≤ (0x800000000000#64).toNat
    ∧ srcVal s f (r 7) = some 0xFFFFFF ∧ (0xFFFFFF#64).toNat < 2 ^ 24
    ∧ srcVal s f (r 8) = some 0x1000000 ∧ 2 ^ 24 ≤ (0x1000000#64).toNat
    ∧ Gives (syncSite true (addressOf 0x1000 8) 0) (startOf s f) e (startOf s f)
    ∧ Gives (waitClock [e]) (startOf s f) () (startOf s f)
    ∧ resOk f (r 9) = true ∧ Released s f onCORE (4#3).toNat := by
  and_intros
  all_goals
    first
    | decide +kernel
    | exact atIssue_of _ _ _ (by decide +kernel)
    | exact mayAccess_of _ _ (by decide +kernel)
    | exact released_of _ _ _ _ (by decide +kernel)
    | exact gives_of _ _ _ _ (by decide +kernel)

/-- A release with a result outstanding waits. -/
theorem witness_SyncWords_waits :
    let f := { frond [0, 0, 0, 0, 0x1000] with outs := [{ id := 90, dest := .g 9 }] }
    let s := { at_ f with flights := [loadFlight f] }
    AtIssue s f p ∧ MayAccess s f ∧ srcVal s f (r 4) = some 0x1000 ∧ f.outs ≠ []
    ∧ Gives (syncSite true (addressOf 0x1000 8) 0) (startOf s f)
        (lsElem 0x1008 8 0) (startOf s f)
    ∧ Gives (waitClock [lsElem 0x1008 8 0]) (startOf s f) () (startOf s f) := by
  and_intros
  all_goals
    first
    | decide +kernel
    | exact atIssue_of _ _ _ (by decide +kernel)
    | exact mayAccess_of _ _ (by decide +kernel)
    | exact gives_of _ _ _ _ (by decide +kernel)

/-- An atomic at an own-core offset that acquires and releases. -/
theorem witness_AtomicsAndFences :
    let f := frond [0, 0, 0, 3, 0x1000]
    let s := at_ f
    let m : AtomFn := { ty := 1, ord := 3, l := true, scope := 5 }
    let e := lsElem 0x1008 8 0
    AtIssue s f p ∧ MayAccess s f ∧ resOk f 0xD0 = true ∧ resOk f (r 9) = true ∧ srcVal s f (r 4) = some 0x1000
    ∧ srcVal s f (r 3) = some 3 ∧ srcVal s f (r 9) = some 0 ∧ m.ord.toNat.testBit 1 = true
    ∧ Released s f onCoreShip m.scope.toNat
    ∧ Gives (atomicSite m.l (addressOf 0x1000 8) 8) (startOf s f) (e, pathCORE) (startOf s f)
    ∧ Gives (serveWalk p [e]) (startOf s f) false (startOf s f)
    ∧ Gives (waitClock [e]) (startOf s f) () (startOf s f)
    ∧ acquiring (aside s) f.uid = false ∧ loadsLanded (aside s) f.uid onCORE = true
    ∧ released (aside s) f.uid onCORE (5#3).toNat = true
    ∧ released (aside s) f.uid (fun n => (0x3F#6).toNat.testBit n) (5#3).toNat = true
    ∧ copiesDone (aside s) f.uid = true ∧ matrixQuiet (aside s) f.uid = true := by
  and_intros
  all_goals
    first
    | decide +kernel
    | exact atIssue_of _ _ _ (by decide +kernel)
    | exact mayAccess_of _ _ (by decide +kernel)
    | exact released_of _ _ _ _ (by decide +kernel)
    | exact gives_of _ _ _ _ (by decide +kernel)

/-- With a load of its own on its way, a frond's acquiring `fence` is not ready. -/
theorem witness_AtomicsAndFences_waits :
    let f := { frond [] with outs := [{ id := 90, dest := .g 9 }] }
    let s := { at_ f with flights := [loadFlight f] }
    AtIssue s f p ∧ acquiring (aside s) f.uid = false ∧ (3#2).toNat.testBit 0 = true
    ∧ loadsLanded (aside s) f.uid onCORE = false ∧ released (aside s) f.uid (fun n => (0x3E#6).toNat.testBit n) 3 = true
    ∧ released (aside s) f.uid (fun n => (1#6).toNat.testBit n) 3 = false :=
  ⟨atIssue_of _ _ _ (by decide +kernel), by decide +kernel⟩

/-- Addresses that are all the same are all translated to the same place. -/
theorem placesOf_same (l w : Bool) (a : Nat) (q : Place × Nat × Option Bool) (c : Ctx) (h : Gives (placeAt l a w) c q c) :
    ∀ n, Gives (placesOf l w (List.replicate n a)) c (List.replicate n q) c := by
  intro n
  induction n with
  | zero => rfl
  | succ n ih =>
    unfold Gives at *
    simp only [List.replicate_succ, placesOf, run_bind, h, ih]
    rfl

/-- Elements through a format code that all lie at one address pass their checks. -/
theorem elementsSized_same (code a : Nat) (ss : List (Nat × Nat)) (q : Place × Nat × Option Bool) (c : Ctx)
    (hs : ss.map (·.2) = List.replicate ss.length a) (hf : formBad c false a 1 = false)
    (hp : Gives (placeAt false a false) c q c) (h0 : code ≠ 0) (he : Gives (checkEntry code) c () c) :
    ∃ es, Gives (elementsSized 1 true false false code ss) c es c := by
  have hq := placesOf_same false false a q c hp ss.length
  have hfind : (List.replicate ss.length a).find? (fun a => formBad c false a 1) = none := by
    rw [List.find?_eq_none]
    intro x hx
    rw [List.eq_of_mem_replicate hx, hf]
    decide
  have hfil : (List.replicate ss.length a).filter (fun a => a % 1 != 0) = [] := by simp [Nat.mod_one]
  unfold Gives at *
  simp only [elementsSized, run_bind, hs, checkForms, run_get, hfind, run_pure, checkAlign, hfil, hq, if_true, h0, if_false,
    he]
  exact ⟨_, rfl⟩

/-- Addresses that are all the same, on a page that may be written, pass the checks of a store. -/
theorem storeChecks_same (a n : Nat) (t : Trans) (c : Ctx) (hf : formBad c false a 1 = false) (hw : inWindow a = false)
    (ht : Gives (translateAt a false) c t c) (hr : t.wr = true) :
    Gives (checkForms false 1 (List.replicate n a)) c () c ∧ Gives (checkAlign 1 (List.replicate n a)) c () c
    ∧ Gives (checkWritable (List.replicate n a)) c () c := by
  have hfind : (List.replicate n a).find? (fun a => formBad c false a 1) = none := by
    rw [List.find?_eq_none]
    intro x hx
    rw [List.eq_of_mem_replicate hx, hf]
    decide
  refine ⟨?_, ?_, ?_⟩
  · unfold Gives
    simp only [checkForms, run_bind, run_get, hfind, run_pure]
  · unfold Gives
    simp [checkAlign, Nat.mod_one, run_pure]
  · induction n with
    | zero => rfl
    | succ n ih =>
      unfold Gives at *
      have hall : (List.replicate n a).find? (fun a => formBad c false a 1) = none := by
        rw [List.find?_eq_none]
        intro x hx
        rw [List.eq_of_mem_replicate hx, hf]
        decide
      simp only [List.replicate_succ, checkWritable, run_bind, hw, Bool.not_false, if_true, ht, hr, Bool.not_true,
        run_trapIf, Bool.false_eq_true, if_false, ih hall]

/-- Elements of a view without strides all lie at its base. -/
theorem tileSites_same (d : BitVec 512) (x : Word) (h : ∀ k, k < 4 → viewStr d k = 0) :
    (tileSites d x).map (·.2) = List.replicate (tileSites d x).length (viewBase d) := by
  unfold tileSites
  rw [List.map_map, List.length_map, ← List.map_const']
  apply List.map_congr_left
  intro p _
  have h0 : ((viewDims d).map (fun k => ((tileIndex d x k : Int)
      + (if k = 0 then p.2 else if k = 1 then p.1 else 0 : Nat)) * viewStr d k)).sum = 0 := by
    have hl : ∀ k ∈ viewDims d, k < 4 := fun k hk => Nat.lt_of_lt_of_le (List.mem_range.mp hk) (Nat.min_le_left _ _)
    revert hl
    generalize viewDims d = l
    intro hl
    induction l with
    | nil => rfl
    | cons k ks ih =>
      simp only [List.map_cons, List.sum_cons, h k (hl k (List.mem_cons_self ..)), Int.mul_zero, Int.zero_add]
      exact ih (fun j hj => hl j (List.mem_cons_of_mem _ hj))
  simp only [Function.comp_apply, h0, Int.mul_zero, Int.add_zero, Int.toNat_natCast]

/-- A whole-tile view without strides, through a format code, gives its elements. -/
theorem tileElements_same (d : BitVec 512) (x : Word) (ty : Nat) (w : Bool) (c : Ctx) (q : Place × Nat × Option Bool)
    (hr : 2 ≤ viewRank d) (hc : viewFcode d ≠ 0) (hz : viewEsz d = 1) (hd : ∀ k, k < 4 → viewStr d k = 0)
    (hb : (List.range 4).findSome? (fun k => (tileFailure d x k).map (fun i => (i, k))) = none)
    (hf : formBad c false (viewBase d) 1 = false) (hp : Gives (placeAt false (viewBase d) false) c q c)
    (hw : inWindow (viewBase d) = false) (t : Trans) (ht : Gives (translateAt (viewBase d) false) c t c)
    (hwr : t.wr = true) (he : Gives (checkEntry (viewFcode d)) c () c) : ∃ es, Gives (tileElements d x ty w) c es c := by
  obtain ⟨h1, h2, h3⟩ := storeChecks_same (viewBase d) (tileSites d x).length t c hf hw ht hwr
  obtain ⟨es, h⟩ := elementsSized_same (viewFcode d) (viewBase d) (tileSites d x) q c (tileSites_same d x hd) hf hp hc he
  refine ⟨es, ?_⟩
  have hr' : decide (viewRank d < 2) = false := decide_eq_false (by omega)
  unfold Gives at *
  cases w <;>
  simp only [tileElements, run_bind, hr', hb, hz, hc, run_trapIf, run_pure, ne_eq, not_false_eq_true, if_true,
    if_false, bne_self_eq_false, Bool.false_eq_true, tileSites_same d x hd, h1, h2, h3, h]

/-! ## Witnesses: views and engine words -/

/-- A descriptor of one dimension: 16 elements of 4 bytes at 0x200000, mode W, scope die (R40). -/
def flat (org : Nat) : BitVec 512 :=
  BitVec.ofNat 512 (0x200000 + 4 * 2 ^ 64 + 1 * 2 ^ 80 + 7 * 2 ^ 88 + 16 * 2 ^ 128 + 1 * 2 ^ 256 + org * 2 ^ 384)

/-- The same, read-only. -/
def flatRead : BitVec 512 := BitVec.ofNat 512 (0x200000 + 4 * 2 ^ 64 + 1 * 2 ^ 80 + 6 * 2 ^ 88 + 16 * 2 ^ 128 + 1 * 2 ^ 256)

/-- A frond with live views in `w0`, `w1`, and none in `w2`. -/
def viewer (g : List Word) : Frond := { frond g with views := [some (flat 0), some flatRead, none, none] }

/-- Retiring, reading, moving and binding: live views and free registers, moves within and out of bounds, an aligned and
a misaligned descriptor, and one out of reach. -/
theorem witness_ViewRegisters :
    let f := viewer [0, 15, 16, 0xFFFF, 0x1000, 0x1004, 0x60000, 0x200040]
    let s := { paged (at_ f) false with catalogue := [{ die := 0, jid := 1, uid := f.uid, fid := 0, w := 0,
                                                        foot := footOf (flat 0), write := true, scope := 3 }] }
    let c : Ctx := { startOf s f with f := rootedAs f }
    AtIssue s f p ∧ Gives (placeAt false 0x200040 false) c (.hbm 0x400040, 0, none) c
    ∧ objOk 0xA0 0xA0 0xA3 ∧ objOk 0xA3 0xA0 0xA3
    ∧ acquiring (aside s) f.uid = false ∧ viewOf f 0 = some (flat 0) ∧ viewOf f 2 = none
    ∧ viewReleased (aside s) f 0 (flat 0) = true
    ∧ (∀ g ∈ s.fronds, g.uid ≠ f.uid) ∧ (∀ b ∈ s.binds, b.uid ≠ f.uid) ∧ dstOk f (r 9) = true
    ∧ viewEmpty (flat 0) = false ∧ 0 ≤ viewLow (flat 0) ∧ viewHigh (flat 0) < 2 ^ 56 ∧ viewRank (flat 0) ≤ 4 ∧ 0 < viewEsz (flat 0)
    ∧ viewEmpty (BitVec.ofNat 512 (0x200000 + 4 * 2 ^ 64 + 1 * 2 ^ 80)) = true
    ∧ srcVal s f (r 1) = some 15 ∧ srcVal s f (r 2) = some 16 ∧ srcVal s f (r 3) = some 0xFFFF
    ∧ (0 ≤ (viewOrg (flat 0) 0 : Int) + 15 ∧ (viewOrg (flat 0) 0 : Int) + 15 < viewExt (flat 0) 0)
    ∧ (viewExt (flat 0) 0 : Int) ≤ viewOrg (flat 0) 0 + 16 ∧ (0xFFFF#16).toInt = -1
    ∧ srcVal s f (r 4) = some 0x1000 ∧ 0x1000 % 64 = 0 ∧ srcVal s f (r 5) = some 0x1004 ∧ 0x1004 % 64 ≠ 0
    ∧ srcVal s f (r 6) = some 0x60000 ∧ 0x60000 < 0x60000 + 64 ∧ 0x5FFC0 + 64 ≤ 0x60000
    ∧ srcVal s f (r 7) = some 0x200040 ∧ inWindow 0x200040 = false :=
  ⟨atIssue_of _ _ _ (by decide +kernel), gives_of _ _ _ _ (by decide +kernel), by unfold objOk; decide,
    by unfold objOk; decide, by decide +kernel⟩

/-- A view whose store has not been performed keeps `wret` waiting. -/
theorem witness_ViewRegisters_waits :
    let f := viewer []
    let g := { loadFlight f with op := .store, elems := [vaElem 0x1000 (.hbm 0x400000) 4 0] }
    let s := { at_ f with flights := [g] }
    AtIssue s f p ∧ acquiring (aside s) f.uid = false ∧ viewReleased (aside s) f 0 (flat 0) = false :=
  ⟨atIssue_of _ _ _ (by decide +kernel), by decide +kernel⟩

def reader : Frond := viewer [0, 15, 16]
def readerState : State := paged (at_ reader) false
def readerCtx : Ctx := startOf readerState reader

/-- Element `l` of the view, for lane `n`. -/
def viewElem (l n : Nat) : Elem := vaElem (0x200000 + 4 * l) (.hbm (0x400000 + 4 * l)) 4 n

/-- Accesses at the last coordinate, past it, through a register without a view, and a store through a view of
mode R. -/
theorem witness_ViewAccesses :
    AtIssue readerState reader p ∧ objOk 0xA0 0xA0 0xA3 ∧ MayAccess readerState reader
    ∧ (acquiring (aside readerState) reader.uid = false
    ∧ srcVal readerState reader (r 0) = some 0 ∧ srcVal readerState reader (r 1) = some 15
    ∧ srcVal readerState reader (r 2) = some 16
    ∧ viewOf reader 0 = some (flat 0) ∧ viewOf reader 2 = none ∧ viewOf reader 1 = some flatRead
    ∧ viewWrite flatRead = false ∧ viewWrite (flat 0) = true ∧ resOk reader (r 9) = true ∧ dstVecOk reader 0x84 = true
    ∧ srcVec reader 0x84 = some 0
    ∧ (viewOrg (flat 0) 0 + 15 + 0 < viewExt (flat 0) 0) ∧ viewExt (flat 0) 0 ≤ viewOrg (flat 0) 0 + 16 + 0)
    ∧ Gives (waitEngineView (flat 0)) readerCtx () readerCtx
    ∧ Gives (elementsOf 2 false false true (some (viewFcode (flat 0), viewEsz (flat 0))) (fun _ => [(0, 0x20003C)]))
        readerCtx [viewElem 15 0] readerCtx
    ∧ Gives (serveWalk p [viewElem 15 0]) readerCtx false readerCtx
    ∧ Gives (waitClock [viewElem 15 0]) readerCtx () readerCtx
    ∧ Gives (elementsOf 2 false false false (some (viewFcode (flat 0), viewEsz (flat 0)))
        (fun _ => (List.range 16).map (fun l => (l, 0x200000 + 4 * l)))) readerCtx
        ((List.range 16).map (fun l => viewElem l l)) readerCtx
    ∧ Gives (serveWalk p ((List.range 16).map (fun l => viewElem l l))) readerCtx false readerCtx := by
  and_intros
  all_goals
    first
    | decide +kernel
    | exact atIssue_of _ _ _ (by decide +kernel)
    | exact mayAccess_of _ _ (by decide +kernel)
    | exact gives_of _ _ _ _ (by decide +kernel)
    | (unfold objOk; decide +kernel)

theorem engineReady_of (s : State) (f : Frond)
    (hb : ((featBits (aside s) f.pcid f.jid f.urgent).toNat.testBit 0
      && decide ((getEngine (aside s) (tileOf f.pcid)).queue.length < 32)
      && (getEngine (aside s) (tileOf f.pcid)).queue.all (fun w => w.urgent == f.urgent)
      && (getEngine (aside s) (tileOf f.pcid)).holdsFor f.urgent f.jid
      && !acquiring (aside s) f.uid && (!s.pacing || f.urgent)) = true) : EngineReady s f := by
  simp only [Bool.and_eq_true, Bool.not_eq_true', Bool.or_eq_true, decide_eq_true_eq, List.all_eq_true, beq_iff_eq] at hb
  obtain ⟨⟨⟨⟨⟨h1, h2⟩, h3⟩, h4⟩, h5⟩, h6⟩ := hb
  exact ⟨h1, h2, h3, .inl h4, h5, h6⟩

/-- The first word of a job at an engine that holds nothing, and at one that still has a word of another job. -/
theorem witness_EngineWords_first :
    let f := frond []
    let w : EngWord := { id := 50, uid := 9, jid := 2, pcid := 0, urgent := false, cid := 0, seed := 0, stream := 0
                         hints := p, op := .zero 0, fa := 0, fb := 0, fmts := [], checked := true, stored := false, elems := []
                         view := none, due := 1001 }
    let first := updEngine (at_ f) 0 (fun e => { e with mainJob := none })
    let other := updEngine (at_ f) 0 (fun e => { e with mainJob := some 2, queue := [w] })
    (AtIssue first f p ∧ AtIssue other f p) ∧ MayClaim first f ∧ (getEngine (aside first) 0).holdsFor false 1 = false
    ∧ (featBits (aside first) f.pcid f.jid f.urgent).toNat.testBit 0 = true ∧ ¬ MayClaim other f := by
  refine ⟨⟨atIssue_of _ _ _ (by decide +kernel), atIssue_of _ _ _ (by decide +kernel)⟩, ?_⟩
  unfold MayClaim
  decide +kernel

/-- No tile guard, and a guard on bit 9 of mask 1, which is clear. -/
def noGuard : TileGuard := { tge := false, tm := 0, tbit := 0 }
def offGuard : TileGuard := { tge := true, tm := 1, tbit := 9 }

/-- A machine with the local-store regions of its core coded 1, a format of width 8. -/
def coded (s : State) : State := { withFormat s 0x00090798 with fmtMap := [(0, 1)] }

/-- A view of 128 by 128 one-byte elements of format 1, all at 0x200000, for `mld` and `mst`. -/
def tileView : BitVec 512 :=
  BitVec.ofNat 512 (0x200000 + 1 * 2 ^ 64 + 1 * 2 ^ 72 + 2 * 2 ^ 80 + 7 * 2 ^ 88 + (128 + 128 * 2 ^ 32) * 2 ^ 128)

/-- Operand tiles in reach, out of reach and misaligned, of dense and sparse words. -/
theorem witness_EngineWords :
    let f := frond [0, 0, 0, 0, 0x1000, 0x2000, 0x1040]
    let s := coded (at_ f)
    let g := rootedAs f
    let c : Ctx := { startOf s f with f := g }
    let lines := fun x n => (List.range n).map (fun i => x + 128 * i)
    AtIssue s f p ∧ EngineReady s f ∧ tileOn s f noGuard = true ∧ tileOn s f offGuard = false ∧ objOk 0xC3 0xC0 0xC3
    ∧ srcVal s f (r 4) = some 0x1000 ∧ srcVal s f (r 5) = some 0x2000 ∧ srcVal s f (r 6) = some 0x1040
    ∧ 0x1040 % 128 ≠ 0 ∧ (0x5FF80 + 128 * 1 ≤ 0x60000 ∧ 0x5FF80 < 0x60000) ∧ 0x60000 < 0x5FF80 + 128 * 2
    ∧ tileCode c.s g true 0x1000 0 = (1, 0x00090798) ∧ widthClass 0 0x00090798 = 8
    ∧ Gives (reachLines true 0x1000 (tileLineCount 0 1 1 0x00090798 false)) c (lines 0x1000 32) c
    ∧ Gives (reachLines true 0x2000 (tileLineCount 0 1 1 0x00090798 false)) c (lines 0x2000 32) c
    ∧ Gives (reachLines true 0x1000 (tileLineCount 0 1 1 0x00090798 true)) c (lines 0x1000 16) c
    ∧ Gives (checkTile 0 1 (lines 0x1000 32)) c () c ∧ Gives (checkTile 0 1 (lines 0x2000 32)) c () c
    ∧ (∀ i ∈ lines 0x1000 32, wrongSparse c.s false i = false) ∧ (∀ i ∈ lines 0x1000 16, wrongSparse c.s true i = false)
    ∧ resOk f (r 9) = true ∧ f.outs.length < 8 := by
  and_intros
  all_goals
    first
    | decide +kernel
    | exact atIssue_of _ _ _ (by decide +kernel)
    | exact .inl (by decide +kernel)
    | exact gives_of _ _ _ _ (by decide +kernel)
    | (unfold objOk; decide +kernel)

def tiler : Frond := { frond [0, 0, 0, 0, 0x1000, 0x1100, 0, 63, 64] with views := [some tileView, none, none, none] }
def tilerState : State := coded (paged (at_ tiler) false)
def tilerCtx : Ctx := { startOf tilerState tiler with f := rootedAs tiler }

theorem tileView_elements (w : Bool) : ∃ es, Gives (tileElements tileView 0 0 w) tilerCtx es tilerCtx :=
  tileElements_same tileView 0 0 w tilerCtx (.hbm 0x400000, 0, none) (by decide +kernel) (by decide +kernel)
    (by decide +kernel) (by decide +kernel) (by decide +kernel) (by decide +kernel)
    (gives_of _ _ _ _ (by decide +kernel)) (by decide +kernel) (page false true) (gives_of _ _ _ _ (by decide +kernel)) rfl
    (gives_of _ _ _ _ (by decide +kernel))

/-- A view of a whole accumulator, and a target of `msst` with no line, with room, and a resume past its bound. -/
theorem witness_EngineWords_views :
    AtIssue tilerState tiler p ∧ EngineReady tilerState tiler ∧ objOk 0xA0 0xA0 0xA3 ∧ objOk 0xC3 0xC0 0xC3
    ∧ (∃ es, Gives (tileElements tileView 0 0 false) tilerCtx es tilerCtx)
    ∧ (∃ es, Gives (tileElements tileView 0 0 true) tilerCtx es tilerCtx)
    ∧ Gives (reachLines true 0x1000 1) tilerCtx [0x1000] tilerCtx
    ∧ Gives (reachLines true 0x1000 (min (64 - 63) ((0x1100 - 0x1000) / 128))) tilerCtx [0x1000] tilerCtx
    ∧ Gives (checkEntry 1) tilerCtx () tilerCtx
    ∧ tileOn tilerState tiler noGuard = true ∧ viewOf tiler 0 = some tileView ∧ viewWrite tileView = true
    ∧ srcVal tilerState tiler (r 4) = some 0x1000 ∧ srcVal tilerState tiler (r 5) = some 0x1100
    ∧ srcVal tilerState tiler (r 6) = some 0 ∧ srcVal tilerState tiler (r 7) = some 63
    ∧ srcVal tilerState tiler (r 8) = some 64 ∧ 0x1000 ≤ 0x1100 ∧ (63 ≤ 63 ∧ 63 < 64)
    ∧ regionCode tilerCtx.s 0x1000 = 1 ∧ regionCode tilerCtx.s 0x4000 = 0 :=
  ⟨atIssue_of _ _ _ (by decide +kernel), engineReady_of _ _ (by decide +kernel),
    by unfold objOk; decide, by unfold objOk; decide, tileView_elements false, tileView_elements true,
    gives_of _ _ _ _ (by decide +kernel), gives_of _ _ _ _ (by decide +kernel), gives_of _ _ _ _ (by decide +kernel),
    by decide +kernel⟩

/-- A quiet engine and one that still has a word of the frond. -/
theorem witness_TileMasks :
    let f := frond [0, 5]
    let s := at_ f
    let w : EngWord := { id := 50, uid := f.uid, jid := 1, pcid := 0, urgent := false, cid := 0, seed := 0, stream := 0
                         hints := p, op := .zero 0, fa := 0, fb := 0, fmts := [], checked := true, stored := false, elems := []
                         view := none, due := 1001 }
    let busy := updEngine s 0 (fun e => { e with queue := [w] })
    AtIssue s f p ∧ EngineReady s f ∧ (featBits (aside s) f.pcid f.jid f.urgent).toNat.testBit 0 = true
    ∧ acquiring (aside s) f.uid = false ∧ matrixQuiet (aside s) f.uid = true ∧ objOk 0xC4 0xC4 0xCB ∧ objOk 0xCB 0xC4 0xCB
    ∧ srcVal s f (r 1) = some 5 ∧ f.outs.length < 8 ∧ resOk f (r 9) = true ∧ predOk f 0xB2
    ∧ AtIssue busy f p ∧ acquiring (aside busy) f.uid = false ∧ matrixQuiet (aside busy) f.uid = false := by
  and_intros
  all_goals
    first
    | decide +kernel
    | exact atIssue_of _ _ _ (by decide +kernel)
    | exact .inl (by decide +kernel)
    | (unfold predOk; decide +kernel)
    | (unfold objOk; decide +kernel)

/-! ## Witnesses: copies, queues, channels and semaphores -/

/-- A layout record of job 1: valid, writable, rank 1, 64 bytes of a region of 256 at PA 0x400000 and VA 0x200000 (R36). -/
def record (jid rank : Nat) (write valid : Bool) : BitVec 512 :=
  BitVec.ofNat 512 (jid + rank * 2 ^ 60 + write.toNat * 2 ^ 62 + valid.toNat * 2 ^ 63 + 0x200000 * 2 ^ 64
    + 0x400000 * 2 ^ 128 + 256 * 2 ^ 192 + 64 * 2 ^ 256)

/-- A job with seven handles: one of each reason of R37. -/
def handles (s : State) : State :=
  { s with jobs := s.jobs.map (fun j => { j with
      layn := 8
      layouts := [{ handle := 0, bits := record 1 1 true true }, { handle := 1, bits := record 1 1 true false },
                  { handle := 2, bits := record 7 1 true true }, { handle := 3, bits := record 1 0 true true },
                  { handle := 4, bits := record 1 1 false true }] }) }

/-- A refused handle of each reason, a usable one, and ranges at the end of the local store and past it. -/
theorem witness_CopyWords :
    let f := frond [0, 1, 2, 3, 4, 8, 0x10000, 192, 193, 0x5FFC0, 0x5FFC1, 7]
    let s := handles (at_ f)
    let c := startOf s f
    let reason (x off : Word) (write : Bool) (n h : Nat) : Prop :=
      Stops (useHandle x off.toNat write) c (.trap causeHANDLE (n * 2 ^ 16 + h)) c
    AtIssue s f p ∧ acquiring (aside s) f.uid = false
    ∧ (srcVal s f (r 0) = some 0 ∧ srcVal s f (r 5) = some 8 ∧ srcVal s f (r 6) = some 0x10000
      ∧ srcVal s f (r 7) = some 192 ∧ srcVal s f (r 8) = some 193 ∧ srcVal s f (r 9) = some 0x5FFC0
      ∧ srcVal s f (r 10) = some 0x5FFC1 ∧ (findJob s f.jid).isSome = true)
    ∧ Gives (useHandle 0 192 true) c (record 1 1 true true) c
    ∧ reason 0x10000 0 false 6 0 ∧ reason 8 0 false 0 8 ∧ reason 7 0 false 1 7 ∧ reason 1 0 false 1 1
    ∧ reason 2 0 false 2 2 ∧ reason 3 0 false 3 3 ∧ reason 4 0 true 4 4 ∧ reason 0 193 false 5 0
    ∧ (0x5FFC0 + 64 ≤ 0x60000 ∧ 0x60000 < 0x5FFC1 + 64 ∧ 0x5FFF8 + 8 ≤ 0x60000) := by
  and_intros
  all_goals
    first
    | decide +kernel
    | exact atIssue_of _ _ _ (by decide +kernel)
    | exact gives_of _ _ _ _ (by decide +kernel)
    | exact stops_of _ _ _ _ (by decide +kernel)

/-- A copy out of a local store of die 1, of `n` rows of 8 bytes that follow one another in die 0. -/
def rowsCopy (n : Nat) : Copy :=
  { id := 60, uid := 9, jid := 1, pcid := 512, out := true, pa := 0x400000, va := 0x200000, ext0 := 8, e1 := n, e2 := 1
    str1 := 8, str2 := 0, ls := 512 * 2 ^ 20, lines := [], bar := none, failed := none, due := 1000, clock := [0] }

/-- One of 2^30 rows. -/
def bigCopy : Copy := rowsCopy (2 ^ 30)

/-- A list without repeats is no longer than one that holds all of it. -/
theorem length_le_of_subset {l m : List Nat} (hl : l.Nodup) (h : ∀ x ∈ l, x ∈ m) : l.length ≤ m.length := by
  induction l generalizing m with
  | nil => exact Nat.zero_le _
  | cons a l ih =>
    rw [List.nodup_cons] at hl
    have hm := h a (List.mem_cons_self ..)
    have hi := ih (m := m.erase a) hl.2 (fun x hx =>
      (List.mem_erase_of_ne (by rintro rfl; exact hl.1 hx)).2 (h x (List.mem_cons_of_mem _ hx)))
    rw [List.length_erase_of_mem hm] at hi
    have := List.length_pos_of_mem hm
    rw [List.length_cons]
    omega

/-- The pieces of a copy out are those of its bytes. -/
theorem mem_pieces (h : Nat → Nat) (ts acc : List Nat) (x : Nat) :
    x ∈ ts.foldl (fun acc t => setAdd (h t) acc) acc ↔ x ∈ acc ∨ ∃ t ∈ ts, x = h t := by
  induction ts generalizing acc with
  | nil => simp
  | cons t ts ih =>
    rw [List.foldl_cons, ih, setAdd_mem]
    simp only [List.mem_cons]
    constructor
    · rintro (⟨rfl | h⟩ | ⟨t', h, e⟩)
      · exact .inr ⟨t, .inl rfl, rfl⟩
      · exact .inl ‹_›
      · exact .inr ⟨t', .inr h, e⟩
    · rintro (h | ⟨t', rfl | h, e⟩)
      · exact .inl (.inr h)
      · exact .inl (.inl e)
      · exact .inr ⟨t', h, e⟩

/-- Every row of that copy is bound for die 0. -/
theorem rowsCopy_mem (s : State) (hp : s.mgmt.pkgnum = 0) (n k : Nat) (hn : n ≤ 2 ^ 30) (hk : k < n) :
    0x80000 + k ∈ (copyLeft (rowsCopy n)).filter (fun t => copyDie s (rowsCopy n) t == some 0) := by
  rw [List.mem_filter]
  constructor
  · unfold copyLeft
    rw [if_pos (show (rowsCopy n).out = true from rfl), mem_pieces]
    refine .inr ⟨8 * k, List.mem_filter.2 ⟨?_, rfl⟩, ?_⟩
    · simp only [List.mem_range, copyBytes, rowsCopy]; omega
    · simp only [copyOff, shapeOff, rowsCopy]
      rw [Nat.mul_div_cancel_left k (by decide), Nat.div_eq_of_lt hk, Nat.mod_eq_of_lt hk]
      omega
  · have hd : diePa (8 * (0x80000 + k)) = 0 := by
      have hs : stackOf (8 * (0x80000 + k)) = 0 := by unfold stackOf; omega
      unfold diePa
      rw [hs]
      decide
    have hk : pkgOf (8 * (0x80000 + k)) = s.mgmt.pkgnum := by rw [hp]; unfold pkgOf; omega
    unfold copyDie otherDie diePlace
    have hs : dieOf (rowsCopy n).pcid = 1 := by show dieOf 512 = 1; decide
    simp only [hk, hd, hs, if_true]
    decide

/-- Every row of that copy counts against die 1 (R326). -/
theorem clockFull_bigCopy (s : State) (h : s.copies = [bigCopy]) (hp : s.mgmt.pkgnum = 0) : clockFull s 1 0 = true := by
  have hl : 2 ^ 30 ≤ ((copyLeft bigCopy).filter (fun t => copyDie s bigCopy t == some 0)).length := by
    have hnd : (List.range' 0x80000 (2 ^ 30)).Nodup := List.nodup_range'
    have hsub : ∀ x ∈ List.range' 0x80000 (2 ^ 30),
        x ∈ (copyLeft bigCopy).filter (fun t => copyDie s bigCopy t == some 0) := by
      intro x hx
      rw [List.mem_range'_1] at hx
      have hm := rowsCopy_mem s hp (2 ^ 30) (x - 0x80000) (Nat.le_refl _) (by omega)
      rwa [Nat.add_sub_cancel' hx.1] at hm
    simpa only [List.length_range'] using length_le_of_subset hnd hsub
  unfold clockFull unapplied
  rw [decide_eq_true_eq, h]
  have hf : ∀ ks : List Nat, (ks.map (fun _ => (dieOf bigCopy.pcid, bigCopy.clock))).filter (fun u => u.1 == 1) =
      ks.map (fun _ => (dieOf bigCopy.pcid, bigCopy.clock)) := fun ks =>
    List.filter_eq_self.2 (fun a ha => by
      obtain ⟨_, _, rfl⟩ := List.mem_map.1 ha
      decide)
  have hc : bigCopy.clock.isEmpty = false := rfl
  simp only [List.flatMap_cons, List.flatMap_nil, List.append_nil, List.filter_append, List.length_append, hc,
    Bool.false_eq_true, if_false, hf, List.length_map]
  omega

/-- A die that has too many stores to the die of one of some places stops (R326). -/
theorem clockStops_of {s : State} {die d : Nat} {q : Place} {ps : List Place} (hq : q ∈ ps) (ho : otherDie s die q = some d)
    (hf : clockFull s die d = true) : clockStops s die ps = true := by
  unfold clockStops
  exact List.any_eq_true.2 ⟨q, hq, by rw [ho]; exact hf⟩

/-- A copy out that must wait for the stores of its die, one that need not, and local-store ranges through the window. -/
theorem witness_CopyWords_clock :
    let f := { frond [0, 192] with pcid := 512 }
    let s := handles (at_ f)
    let full := { s with copies := [bigCopy] }
    let places := (List.range 8).map (fun t => Place.hbm (0x400000 + 192 + 8 * t))
    let near := windowOk (aside (handles (at_ (frond [])))) 1
    AtIssue s f p ∧ AtIssue full f p ∧ clockStops (aside s) (dieOf f.pcid) places = false
    ∧ clockStops (aside full) (dieOf f.pcid) places = true ∧ f.pcid = 512 ∧ near (windowBase + 0x5FFC0) = some (0, 0x5FFC0)
    ∧ near (windowBase + 0x5FFC1) = some (0, 0x5FFC1) ∧ near (windowBase + 2 ^ 20) = none := by
  refine ⟨atIssue_of _ _ _ (by decide +kernel), atIssue_of _ _ _ (by decide +kernel), by decide +kernel, ?_, by decide +kernel⟩
  exact clockStops_of (d := 0) (List.mem_map.2 ⟨0, by decide, rfl⟩) (by decide +kernel) (clockFull_bigCopy _ rfl rfl)

/-- A queue of 8-byte elements in two segments, the first on core 0. -/
def queue (esz : Nat) (closed : Bool) (one two : List QElem) (segn : Nat) : Queue :=
  { va := 0x9000, esz := esz, segn := segn, cons := 0, prod := 0, sva := 0, slen := 0, closed := closed, accepted := 4
    segs := [{ pcid := some 0, accepting := true, off := 0x40000, head := 0, elems := one },
             { pcid := some 1, accepting := true, off := 0x40000, head := 0, elems := two }]
    streamed := 0 }

/-- A machine whose stage reads and writes the queue through port 0. -/
def queued_ (s : State) (q : Queue) : State :=
  { s with jobs := s.jobs.map (fun j => { j with pipes := j.pipes.map (fun x => { x with queues := [q] }) }) }

/-- An element of 8 bytes. -/
def elem8 (n : Byte) : QElem := { bytes := n :: List.replicate 7 0, num := 0 }

/-- A copy into a queue whose element size divides the record, and one whose does not. -/
theorem witness_CopyWords_queue :
    let f := frond [0]
    let s := queued_ (handles (at_ f)) (queue 3 false [] [] 4)
    let odd := queued_ (handles (at_ f)) (queue 7 false [] [] 4)
    AtIssue s f p ∧ acquiring (aside s) f.uid = false ∧ srcVal s f (r 0) = some 0 ∧ objOk 0x9C 0x9C 0x9F
    ∧ portQueueOf (aside s) f 0x9C = some (0, queue 3 false [] [] 4) ∧ 64 % 2 ^ 3 = 0
    ∧ portQueueOf (aside odd) f 0x9C = some (0, queue 7 false [] [] 4) ∧ 64 % 2 ^ 7 ≠ 0 :=
  ⟨atIssue_of _ _ _ (by decide +kernel), by unfold objOk; decide +kernel⟩

/-- Lanes of a gather and a scatter on a page of memory, of a scatter-add in the local store, and a shipped word; all
with an empty and a full mask. -/
theorem witness_IndexedWords :
    let f := frond [0, 0x200000, 0x1000, 3, 0x5FFFC]
    let s := paged (at_ f) false
    let c := startOf s f
    let lanes := fun (m : BitVec 16) => (List.range 16).filter (fun l => m.getLsbD l)
    let es := (lanes 0x8001).map (fun l => vaElem 0x200000 (.hbm 0x400000) 4 l)
    AtIssue s f p ∧ acquiring (aside s) f.uid = false
    ∧ (srcVal s f (r 1) = some 0x200000 ∧ srcVal s f (r 2) = some 0x1000 ∧ srcVal s f (r 3) = some 3
      ∧ srcVec f 0x84 = some 0 ∧ dstVecOk f 0x85 = true ∧ f.outs.length < 8 ∧ resOk f (r 9) = true
      ∧ lanes 0 = [] ∧ lanes 0x8001 = [0, 15] ∧ (0x5FFFC + 4 ≤ 0x60000 ∧ 0x5FFFC % 4 = 0)
      ∧ (featBits (aside s) f.pcid f.jid f.urgent).toNat.testBit 3 = true)
    ∧ Gives (elementsOf 2 false false false none (fun _ => [(0, 0x200000), (15, 0x200000)])) c es c
    ∧ Gives (elementsOf 2 false false true none (fun _ => [(0, 0x200000), (15, 0x200000)])) c es c
    ∧ Gives (waitClock es) c () c
    ∧ Gives (shipSite 0x200000 8) c (vaElem 0x200000 (.hbm 0x400000) 8 0) c
    ∧ Gives (waitClock [vaElem 0x200000 (.hbm 0x400000) 8 0]) c () c := by
  and_intros
  all_goals
    first
    | decide +kernel
    | exact atIssue_of _ _ _ (by decide +kernel)
    | exact gives_of _ _ _ _ (by decide +kernel)

/-- An open phase of the same target and copy, one that differs, and none. -/
theorem witness_IndexedWords_rbar :
    let f := frond [0, 0x200000, 0x1000]
    let s := paged (at_ f) false
    let ph : Phase := { id := 60, jid := 1, pl := 0, stage := 0, scope := 3, f32 := false, opener := 1, target := 0x200000
                        places := [.hbm 0x400000], copy := 0x1000, n := 1, parts := [0, 1], arrived := [1]
                        waiters := [], due := 1000 }
    let c := startOf s f
    AtIssue s f p ∧ acquiring (aside s) f.uid = false
    ∧ (srcVal s f (r 1) = some 0x200000 ∧ srcVal s f (r 2) = some 0x1000
      ∧ released (aside s) f.uid onCoreReduce 3 = true ∧ phaseOf (aside s) f = none
      ∧ phaseOf (aside { s with phases := [ph] }) f = some ph
      ∧ phaseOf (aside { s with phases := [{ ph with copy := 0x2000 }] }) f = some { ph with copy := 0x2000 })
    ∧ Gives (elementsSized 4 false true true 0 [(0, 0x1000)]) c [lsElem 0x1000 4 0] c
    ∧ Gives (elementsSized 4 false false true 0 [(0, 0x200000)]) c
        [vaElem 0x200000 (.hbm 0x400000) 4 0] c := by
  and_intros
  all_goals
    first
    | decide +kernel
    | exact atIssue_of _ _ _ (by decide +kernel)
    | exact gives_of _ _ _ _ (by decide +kernel)

/-- Phases whose merge may take its clock, of which the frond's arrival is the last or not, and one whose merge must wait. -/
theorem witness_IndexedWords_clock :
    let f := { frond [0, 0x200000, 0x1000] with pcid := 512 }
    let s := paged (at_ f) false
    let full := { s with copies := [bigCopy] }
    let ph : Phase := { id := 60, jid := 1, pl := 0, stage := 0, scope := 3, f32 := false, opener := 513, target := 0x200000
                        places := [.hbm 0x400000], copy := 0x1000, n := 1, parts := [512, 513], arrived := [513]
                        waiters := [], due := 1000 }
    AtIssue full f p ∧ phaseOf (aside { full with phases := [ph] }) f = some ph
    ∧ mergeStops (aside { s with phases := [ph] }) ph = false
    ∧ (∀ k ∈ ph.parts, k ∈ setAdd f.pcid ph.arrived) ∧ (mergeLeft ph).map (mergeDies s ph) = [[0]] ∧ ph.clock = []
    ∧ mergeStops (aside { full with phases := [ph] }) ph = true := by
  refine ⟨atIssue_of _ _ _ (by decide +kernel), by decide +kernel, by decide +kernel, by decide +kernel, by decide +kernel, rfl, ?_⟩
  exact clockStops_of (d := 0) (q := .hbm 0x400000) (by decide) (by decide +kernel) (clockFull_bigCopy _ rfl rfl)

/-- Queues: full, with room in each segment, empty, with an element of the popping core and with none of it, closed. -/
theorem witness_QueueWords :
    let f := frond [0, 0x1000, 0x5FFF8, 0x5FFF9]
    let full := queued_ (at_ f) (queue 3 false [elem8 1] [elem8 2] 1)
    let room := queued_ (at_ f) (queue 3 false [elem8 1] [] 2)
    let empty := queued_ (at_ f) (queue 3 false [] [] 2)
    let shut := queued_ (at_ f) (queue 3 true [] [] 2)
    AtIssue full f p ∧ AtIssue room f p ∧ AtIssue empty f p ∧ AtIssue shut f p
    ∧ (∀ bytes, f.feed ≠ some (0, bytes)) ∧ predOk f 0xB1 ∧ objOk 0x9C 0x9C 0x9F ∧ objOk 0x98 0x98 0x9B ∧ acquiring (aside room) f.uid = false
    ∧ theQueue full 1 0 0 = some (queue 3 false [elem8 1] [elem8 2] 1)
    ∧ portQueueOf (aside room) f 0x9C = some (0, queue 3 false [elem8 1] [] 2)
    ∧ portQueueOf (aside room) f 0x98 = some (0, queue 3 false [elem8 1] [] 2)
    ∧ srcVal room f (r 2) = some 0x5FFF8 ∧ (0x5FFF8 + 2 ^ 3 ≤ 0x60000 ∧ 0x5FFF8 % 8 = 0) ∧ 0x60000 < 0x5FFF9 + 2 ^ 3
    ∧ localPending (aside room) f.uid f.pcid = false ∧ arrived (aside room) f.uid room.fresh (.ls 0x1000) 8 = true
    ∧ released (aside room) f.uid onCORE scopeP = true
    ∧ pushElem (aside full) 1 0 0 (List.replicate 8 0) = none
    ∧ (pushElem (aside room) 1 0 0 (List.replicate 8 0)).isSome = true
    ∧ (popElem (aside room) 1 0 0 0).isSome = true ∧ popElem (aside empty) 1 0 0 0 = none
    ∧ popElem (aside shut) 1 0 0 0 = none ∧ (peekElem (aside room) 1 0 0 0).isSome = true
    ∧ resOk f (r 9) = true ∧ f.outs.length < 8
    ∧ (settleJob (closeQueue { aside room with issuing := some f } f.jid f.pl 0) f.jid).issuing = some f
    ∧ mapWf 0 (aside room).ls ∧ Undisturbed (aside room) (.ls (2 ^ 20 + 0x40000)) (2 ^ 3) := by
  and_intros
  all_goals
    first
    | decide +kernel
    | exact atIssue_of _ _ _ (by decide +kernel)
    | exact undisturbed_of _ _ _ (by decide +kernel)
    | exact fun _ h => nomatch h
    | (unfold predOk; decide +kernel)
    | (unfold objOk; decide +kernel)

/-- A channel port. -/
def chan (st : ChanState) (peer : Option (Nat × Nat)) (send recv : List Flit) : Chan :=
  { state := st, key := 5, peer := peer, send := send, recv := recv }

/-- A frond with a port of each state: unbound, binding, bound, closed. -/
def talker (g : List Word) : Frond :=
  { frond g with chans := [Chan.unboundPort, chan .binding none [] [],
                           chan .bound (some (77, 3)) [] [{ wide := false, bits := 9 }], chan .closed none [] []]
                          ++ List.replicate 4 Chan.unboundPort }

/-- Its peer, with its port 3 bound to port 2. -/
def peer : Frond := { frond [] with uid := 77, chans := (List.replicate 8 Chan.unboundPort).set 3 (chan .bound (some (0, 2)) [] []) }

/-- Binding, unbinding and branching: each port state, a key that pairs, one that another port holds, a full directory. -/
theorem witness_ChannelWords :
    let f := talker [0, 5, 14, 23]
    let s := { at_ f with fronds := [peer] }
    let e : DirEntry := { die := 14 % 9, jid := 1, key := 14, uid := 77, port := 1 }
    let t := { s with directory := [e] }
    let own := { s with directory := [{ e with uid := f.uid }] }
    let full := { s with directory := List.replicate 1024 { e with key := 32 } }
    AtIssue s f p ∧ AtIssue t f p ∧ AtIssue full f p ∧ objOk 0x90 0x90 0x97 ∧ objOk 0x97 0x90 0x97
    ∧ acquiring (aside s) f.uid = false ∧ dstOk f (r 9) = true ∧ srcVal s f (r 0) = some 0
    ∧ (∀ x ∈ s.fronds, x.uid ≠ f.uid) ∧ (chanOf f 0).state ≠ .bound ∧ (chanOf f 1).state = .binding
    ∧ (chanOf f 2).state = .bound ∧ (chanOf f 2).peer = some (77, 3) ∧ 77 ≠ f.uid ∧ (chanOf f 3).state = .closed
    ∧ (∀ x, findFrond s 77 = some x → 3 < x.chans.length)
    ∧ srcVal s f (r 1) = some 5 ∧ (∃ x ∈ f :: s.fronds, x.jid = f.jid ∧ ∃ c ∈ x.chans, c.state = .bound ∧ c.key = 5)
    ∧ srcVal s f (r 2) = some 14 ∧ (¬ ∃ x ∈ f :: s.fronds, x.jid = f.jid ∧ ∃ c ∈ x.chans, c.state = .bound ∧ c.key = 14)
    ∧ t.directory.find? (fun x => x.die == 14 % 9 && x.jid == 1 && x.key == 14) = some e ∧ e.uid ≠ f.uid
    ∧ own.directory.find? (fun x => x.die == 14 % 9 && x.jid == 1 && x.key == 14) = some { e with uid := f.uid }
    ∧ srcVal s f (r 3) = some 23 ∧ full.directory.find? (fun x => x.die == 23 % 9 && x.jid == 1 && x.key == 23) = none
    ∧ 1024 ≤ (full.directory.filter (fun x => x.die == 23 % 9)).length
    ∧ (chanOf f 2).recv ≠ [] ∧ (chanOf f 1).recv = [] :=
  ⟨atIssue_of _ _ _ (by decide +kernel), atIssue_of _ _ _ (by decide +kernel), atIssue_of _ _ _ (by decide +kernel),
    by unfold objOk; decide +kernel⟩

/-- A semaphore of cluster 0x12 with a count of 3, one with a waiter, and names outside the run. -/
theorem witness_ChannelWords_semaphores :
    let f := frond [0, 0x1200, 0x1201, 0x1202, 0x10000, 3, 4]
    let w : SemWait := { index := 1, uid := 50, n := 9, hints := p }
    let run : SemRun := { cluster := 0x12, jid := 1, base := 0, size := 2, counts := [3, 3], waiters := [w] }
    let s := { at_ f with sems := [run], cores := [placedCore 1, { placedCore 1 with pcid := 32 * 0x12 }] }
    AtIssue s f p ∧ acquiring (aside s) f.uid = false ∧ srcVal s f (r 1) = some 0x1200 ∧ srcVal s f (r 2) = some 0x1201
    ∧ srcVal s f (r 3) = some 0x1202 ∧ srcVal s f (r 4) = some 0x10000 ∧ srcVal s f (r 5) = some 3
    ∧ srcVal s f (r 6) = some 4 ∧ findRun s 0x12 1 = some run ∧ findRun s 0 1 = none
    ∧ holdsCluster (aside s) 0x12 1 = true ∧ holdsCluster (aside s) 0x13 1 = false
    ∧ 0x1200 / 2 ^ 12 % 16 * 16 + 0x1200 / 2 ^ 8 % 16 = 0x12 ∧ (0x1200 < 2 ^ 16 ∧ 0x1200 % 256 < 2) ∧ 2 ≤ 0x1202 % 256
    ∧ 2 ^ 16 ≤ 0x10000 ∧ (∀ x ∈ run.waiters, x.index ≠ 0) ∧ ¬ (∀ x ∈ run.waiters, x.index ≠ 1)
    ∧ run.counts.getD 0 0 = 3 ∧ released (aside s) f.uid onCORE 3 = true :=
  ⟨atIssue_of _ _ _ (by decide +kernel), by decide +kernel⟩

/-- A store of the frond that has not been performed keeps a `sems` waiting. -/
theorem witness_ChannelWords_waits :
    let f := frond []
    let g := { loadFlight f with op := .store, elems := [vaElem 0x1000 (.hbm 0x400000) 4 0] }
    let s := { at_ f with flights := [g] }
    AtIssue s f p ∧ released (aside s) f.uid onCORE 3 = false ∧ acquiring (aside s) f.uid = false
    ∧ srcVal s f (r 0) = some 0 := ⟨atIssue_of _ _ _ (by decide +kernel), by decide +kernel⟩

/-! ## Witnesses: spawning, traps and the system -/

/-- Room in a deque, a full deque of 256 entries, an urgent frond, and a join word. -/
theorem witness_SpawnWords :
    let f := frond [0, 0x1000, 2, 3]
    let s := at_ f
    let u := { f with urgent := true }
    let full := { s with cores := s.cores.map (fun c => { c with bot := 256 }) }
    let c := startOf s f
    let e := lsElem 0x1000 8 0
    let m : Ctx := { c with f := { f with errWait := false } }
    AtIssue s f p ∧ AtIssue full f p ∧ AtIssue (at_ u) u p
    ∧ (srcVal s f (r 1) = some 0x1000 ∧ srcVal s f (r 2) = some 2 ∧ srcVal s f (r 3) = some 3
      ∧ ((getCore (aside s) 0).bot + 2 ^ 16 - (getCore (aside s) 0).top) % 2 ^ 16 < (getCore (aside s) 0).dequeLen / 32
      ∧ (getCore (aside full) 0).dequeLen / 32 ≤ ((getCore (aside full) 0).bot + 2 ^ 16 - (getCore (aside full) 0).top) % 2 ^ 16
      ∧ u.urgent = true ∧ mapWf 0 s.ls)
    ∧ Gives (atomicSite true 0x1000 8) c (e, pathCORE) c ∧ Gives (waitClock [e]) m () m
    ∧ walkBlocks [e] = [] ∧ walkBlocks [{ e with place := .walk 1 0x80 0 0x400000 }] = [0x80] := by
  and_intros
  all_goals
    first
    | decide +kernel
    | exact atIssue_of _ _ _ (by decide +kernel)
    | exact gives_of _ _ _ _ (by decide +kernel)

/-- Ends: a result outstanding, a STOREERR pending, the same inside a handler, and neither. -/
theorem witness_SpawnWords_ends :
    let f := frond []
    let out := { f with outs := [{ id := 90, dest := .g 9 }] }
    let err := { f with storeErrs := [7] }
    let hnd := { err with hnd := true }
    AtIssue (at_ out) out p ∧ AtIssue (at_ err) err p ∧ AtIssue (at_ hnd) hnd p ∧ AtIssue (at_ f) f p
    ∧ out.outs ≠ [] ∧ err.outs = [] ∧ err.hnd = false ∧ err.storeErrs = 7 :: [] ∧ (hnd.hnd = true ∨ hnd.storeErrs = [])
    ∧ f.storeErrs = [] ∧ (∀ w, w < 4 → viewOf f w = none) ∧ (∀ x ∈ (at_ err).fronds, x.uid ≠ err.uid) := by
  and_intros
  all_goals
    first
    | decide +kernel
    | exact atIssue_of _ _ _ (by decide +kernel)

/-- A machine whose stage has a trap handler. -/
def withHandler (s : State) (traph : Nat) : State :=
  { s with jobs := s.jobs.map (fun j => { j with pipes := j.pipes.map (fun x =>
      { x with stages := x.stages.map (fun g => { g with traph := traph }) }) }) }

/-- With a handler, without one, inside a handler; a cause of each kind; and `rfe` to an aligned and a misaligned PC. -/
theorem witness_TrapAndReturn :
    let f := frond []
    let s := withHandler (at_ f) 0x8000
    let inside := { f with hnd := true, epc := 0x2000 }
    let bad := { f with hnd := true, epc := 0x2002 }
    AtIssue s f p ∧ AtIssue (at_ inside) inside p ∧ AtIssue (at_ bad) bad p
    ∧ f.hnd = false ∧ traphOf s f = 0x8000 ∧ traphOf (at_ f) f = 0 ∧ inside.hnd = true
    ∧ (causeUSER ≠ 0x01 ∧ causeUSER ≠ 0x04 ∧ causeUSER ≠ 0x0F)
    ∧ inside.epc.toNat % 4 = 0 ∧ bad.epc.toNat % 4 ≠ 0 := by
  and_intros
  all_goals
    first
    | decide +kernel
    | exact atIssue_of _ _ _ (by decide +kernel)

/-- A frond of a compute core, and control fronds with and without a pending event. -/
theorem witness_SystemWords :
    let f := frond [0, 5]
    let c := { f with control := true }
    let ev := { at_ c with mgmt := { (at_ c).mgmt with events := [4] } }
    AtIssue (at_ f) f p ∧ AtIssue (at_ c) c p ∧ AtIssue ev c p ∧ resOk f (r 9) = true ∧ srcVal (at_ f) f (r 1) = some 5
    ∧ f.control = false ∧ c.control = true ∧ ev.mgmt.events.getD (dieOf c.pcid) 0 ≠ 0
    ∧ (at_ c).mgmt.events.getD (dieOf c.pcid) 0 = 0 := by
  and_intros
  all_goals
    first
    | decide +kernel
    | exact atIssue_of _ _ _ (by decide +kernel)

/-- A live job and none; each control word at its bounds; and each phase of R383. -/
theorem witness_ControlWords :
    let f := { frond [0, 1, 99, 4800000, 65535, 0x100000000, 30, 0x1000] with control := true }
    let s := at_ f
    let phase := fun (x : JobPhase) => { s with jobs := s.jobs.map (fun j => { j with phase := x }) }
    AtIssue s f p ∧ f.control = true ∧ srcVal s f (r 1) = some 1 ∧ srcVal s f (r 2) = some 99
    ∧ (findJob s 1).map (fun j => j.live) = some true ∧ findJob s 99 = none
    ∧ srcVal s f (r 3) = some 4800000 ∧ srcVal s f (r 4) = some 65535 ∧ srcVal s f (r 5) = some 0x100000000
    ∧ srcVal s f (r 6) = some 30 ∧ srcVal s f (r 7) = some 0x1000 ∧ (0x1000 < 2 ^ 52 ∧ 0x1000 % 4096 = 0)
    ∧ (findJob s 1).map (fun j => (j.phase, j.urgent)) = some (.running, false)
    ∧ (findJob (phase (.suspended 0)) 1).map (fun j => (j.live, j.phase)) = some (true, .suspended 0)
    ∧ (findJob (phase (.suspending 0)) 1).map (fun j => (j.live, j.phase)) = some (true, .suspending 0)
    ∧ (findJob (phase (.resuming 0)) 1).map (fun j => (j.live, j.phase)) = some (true, .resuming 0)
    ∧ dieWord 0 = false ∧ isCore 0 = true ∧ resOk f (r 9) = true :=
  ⟨atIssue_of _ _ _ (by decide +kernel), by decide +kernel⟩

/-- A Halted frond of the job, seen from a control frond and from a frond of its supervisor; with a result outstanding;
and a name that no Halted frond has. -/
theorem witness_ControlWords_window :
    let f := { frond [0, 0x1000000000007, 0x1000000000008, 0x2000, 0x2002] with control := true }
    let y := { frond [] with uid := 50, fid := 7, wait := .halted, halt := some { cause := 2, info := 0, pc := 0, word := 0 } }
    let z := { y with outs := [{ id := 90, dest := .g 9 }] }
    let s := { at_ f with fronds := [y] }
    let t := { at_ f with fronds := [z] }
    let named (s : State) (x : Nat) := s.fronds.find? (fun y => y.jid == x / 2 ^ 48 && y.fid == x % 2 ^ 48 && y.wait == .halted)
    AtIssue s f p ∧ AtIssue t f p ∧ (srcVal s f (r 1) = some 0x1000000000007 ∧ srcVal s f (r 2) = some 0x1000000000008
    ∧ named s 0x1000000000007 = some y ∧ named t 0x1000000000007 = some z ∧ named s 0x1000000000008 = none
    ∧ y.outs = [] ∧ z.outs ≠ [] ∧ f.control = true ∧ resOk f (r 9) = true ∧ f.outs.length < 8 ∧ y.halt.isSome = true
    ∧ (∀ g ∈ s.fronds, markedEnd g = false) ∧ (∀ g ∈ s.fronds, g.uid = y.uid → g = y) ∧ y.regs = 128
    ∧ srcVal s f (r 3) = some 0x2000 ∧ 0x2000 % 4 = 0 ∧ srcVal s f (r 4) = some 0x2002 ∧ 0x2002 % 4 ≠ 0)
    ∧ ∃ u, completesWith s f f (updFrond (aside s) y.uid (fun g => { g with wait := .exiting })) p = .next u :=
  ⟨atIssue_of _ _ _ (by decide +kernel), atIssue_of _ _ _ (by decide +kernel), by decide +kernel, _, rfl⟩

/-- A false guard, with its predicate outstanding or not; operand fields at the bounds of each reason; and cores without
the vector unit, the engine or the shipping path. -/
theorem witness_GuardsAndAdmission :
    let f := { frond [] with regs := 32 }
    let h : Hints := { p with gq := 1 }
    let lost := { at_ f with cores := (at_ f).cores.map (fun c => { c with lost := 15 }) }
    (hintsIn (.add h false 3 1 (.fld 2)) = some (h, false) ∧ hintsIn (.msync h) = some (h, true)
      ∧ f.pred h.gq.toNat = h.gn ∧ f.held = [] ∧ f.heldH = [] ∧ f.wait = .run
      ∧ (∀ x ∈ (at_ f).fronds, markedEnd x = false))
    ∧ AtIssue (at_ f) f p ∧ AtIssue lost f p
    ∧ (f.regs ≤ (32#9).toNat ∧ (32#9).toNat < 0x80) ∧ (0xA4 ≤ (0xA4#9).toNat ∧ (0xFF#9).toNat ≤ 0xFF)
    ∧ (0xB0 ≤ (0xCB#9).toNat ∧ (0xCB#9).toNat ≤ 0xCB) ∧ portQueueOf (aside (at_ f)) f 0x98 = none
    ∧ (featBits (aside lost) f.pcid f.jid f.urgent).toNat.testBit 1 = false
    ∧ (featBits (aside lost) f.pcid f.jid f.urgent).toNat.testBit 0 = false
    ∧ (featBits (aside lost) f.pcid f.jid f.urgent).toNat.testBit 3 = false := by
  and_intros
  all_goals
    first
    | decide +kernel
    | exact atIssue_of _ _ _ (by decide +kernel)

/-- Ports of each state, a held operand, a queue that gives an element, one that is empty, closed, full or has room, and
an element of the feed. -/
theorem witness_ScalarOperands :
    let f := talker []
    let s := queued_ (at_ f) (queue 3 false [elem8 1] [elem8 2] 1)
    let held := { f with held := [{ field := 1, bits := 9 }] }
    (chanOf f (0x90 - 0x90)).state = .unbound ∧ (chanOf f (0x91 - 0x90)).recv = []
    ∧ (chanOf f (0x91 - 0x90)).state = .binding ∧ (chanOf f (0x92 - 0x90)).recv = { wide := false, bits := 9 } :: []
    ∧ (chanOf f (0x92 - 0x90)).state ≠ .unbound
    ∧ (chanOf f (0x93 - 0x90)).recv = [] ∧ (chanOf f (0x93 - 0x90)).state = .closed ∧ (chanOf f (0x92 - 0x90)).send.length < 8
    ∧ heldOf f 1 = none ∧ heldOf held 1 = some 9
    ∧ portQueueOf s f 0x98 = some (0, queue 3 false [elem8 1] [elem8 2] 1)
    ∧ portQueueOf s f 0x9C = some (0, queue 3 false [elem8 1] [elem8 2] 1)
    ∧ (∀ bytes, f.feed ≠ some (0, bytes))
    ∧ (popElem s f.jid f.pl 0 f.pcid).isSome = true
    ∧ popElem (queued_ (at_ f) (queue 3 true [] [] 1)) f.jid f.pl 0 f.pcid = none
    ∧ portQueueOf (queued_ (at_ f) (queue 3 true [] [] 1)) f 0x98 = some (0, queue 3 true [] [] 1)
    ∧ popElem (queued_ (at_ f) (queue 3 false [] [] 1)) f.jid f.pl 0 f.pcid = none
    ∧ pushElem s f.jid f.pl 0 (natBytes 8 7) = none
    ∧ (pushElem (queued_ (at_ f) (queue 3 false [] [] 1)) f.jid f.pl 0 (natBytes 8 7)).isSome = true
    ∧ released s f.uid onCORE scopeP = true
    ∧ released { s with flights := [{ loadFlight f with op := .store, elems := [lsElem 0x1000 4 0] }] } f.uid onCORE scopeP = false := by
  and_intros
  all_goals
    first
    | decide +kernel
    | exact fun _ h => nomatch h

/-- The special operands: a core of the job, a stage, a loader and an urgent context, fewer than 16 results and 8 levels. -/
theorem witness_ScalarOperands_special :
    let f := frond []
    let s := at_ f
    let u := { f with urgent := true }
    let x : Urgent := { jid := 1, pl := 0, stage := 0, t := none, args := 0x3C0, top := 0x1000, begin_ := 0, lo := 0, hi := 1 }
    (∃ j, findJob s f.jid = some j ∧ j.cores[0]? = some f.pcid ∧ ∀ k, k < 0 → j.cores[k]? ≠ some f.pcid)
    ∧ (stageOf s f).isSome = true ∧ f.outs.length < 16 ∧ f.loops.length < 8 ∧ f.urgent = false ∧ u.urgent = true
    ∧ (getCore { at_ u with cores := (at_ u).cores.map (fun c => { c with urgent := some x }) } u.pcid).urgent = some x :=
  ⟨⟨_, rfl, by decide +kernel, fun k h => absurd h (Nat.not_lt_zero k)⟩, by decide +kernel⟩

/-- Ports in vector positions: a flit of 512 bits and one of 64, a queue of 64-byte elements with one to take, and one with room;
a frond that was started with an element, and a port whose send queue is full. -/
theorem witness_ScalarOperands_wide :
    let f := { talker [] with chans := [chan .bound (some (77, 3)) [] [{ wide := true, bits := 2 ^ 511 }],
                                       chan .bound (some (77, 3)) (List.replicate 8 { wide := true, bits := 1 }) [{ wide := false, bits := 9 }]]
                                       ++ List.replicate 6 Chan.unboundPort }
    let fed := { f with feed := some (0, List.replicate 64 7) }
    let e : QElem := { bytes := List.replicate 64 7, num := 0 }
    let q := queue 6 false [] [] 4
    let s := queued_ (at_ f) q
    let t := queued_ (at_ f) (queue 6 false [e] [] 4)
    (chanOf f (0x90 - 0x90)).recv = { wide := true, bits := 2 ^ 511 } :: [] ∧ (chanOf f (0x90 - 0x90)).state = .bound
    ∧ (chanOf f (0x91 - 0x90)).recv = { wide := false, bits := 9 } :: [] ∧ 8 ≤ (chanOf f (0x91 - 0x90)).send.length
    ∧ heldOf f 1 = none ∧ fed.feed = some (0, List.replicate 64 7)
    ∧ portQueueOf s f 0x9C = some (0, q) ∧ portQueueOf t f 0x98 = some (0, queue 6 false [e] [] 4)
    ∧ (popElem t f.jid f.pl 0 f.pcid).isSome = true
    ∧ (pushElem s f.jid f.pl 0 (natBytes 64 (2 ^ 511))).isSome = true := by decide +kernel

/-- A channel port as both sources and as the destination. -/
theorem witness_WordsOverAnyOperands :
    let c := chan .bound (some (77, 3)) [] [{ wide := false, bits := 9 }, { wide := false, bits := 4 }]
    let f := { frond [] with chans := c :: List.replicate 7 Chan.unboundPort }
    let s := at_ f
    let f1 := holdOperand (setChan f 0 { c with recv := [{ wide := false, bits := 4 }] }) 1 9
    let f2 := holdOperand (setChan f1 0 { c with recv := [] }) 2 4
    AtIssue s f p ∧ fieldReason (aside s) f { pos := 0, kind := .gw, value := 0x90 } = none
    ∧ fieldReason (aside s) f { pos := 1, kind := .g, value := 0x90 } = none
    ∧ Gives (readG 1 0x90) (startOf s f) 9 { startOf s f with f := f1 }
    ∧ fieldReason (aside s) f { pos := 2, kind := .g, value := 0x90 } = none
    ∧ Gives (readG 2 0x90) { startOf s f with f := f1 } 4 { startOf s f with f := f2 }
    ∧ Gives (writeG 0x90 13) { startOf s f with f := f2 } ()
        { startOf s f with f := setChan f2 0 { chanOf f2 0 with send := [{ wide := false, bits := 13 }] } } := by
  and_intros
  all_goals
    first
    | decide +kernel
    | exact atIssue_of _ _ _ (by decide +kernel)
    | exact gives_of _ _ _ _ (by decide +kernel)

theorem witness_RegisterWordFrame : AtIssue (at_ two) two p ∧ endsPass two = false
    ∧ srcVal (at_ two) two (r 1) = some 5 ∧ srcValB (at_ two) two (.fld (r 2)) = some 7
    ∧ (∀ g ∈ (at_ two).fronds, g.uid ≠ two.uid) ∧ operandOf (r 127) = .reg 127 ∧ 127 < two.regs
    ∧ outReg two 127 = false ∧ predOk two 0xB1 :=
  ⟨atIssue_of _ _ _ (by decide +kernel), by unfold predOk; decide +kernel⟩

/-- The state in which a placed word is the next step. -/
theorem witness_StepRunsWord :
    let s := State.reset.withFetchWord 96 0x000000003008080000000000
    let f := placedFrond State.reset 1
    (nextIssue s = some f ∧ nextCause s f = none ∧ f.pc + 12 ≤ 2 ^ 56 ∧ absentLine s f = none
    ∧ fetchedWord s f = some 0x000000003008080000000000)
    ∧ decodeNat 0x000000003008080000000000 = .ok (.add p false 3 1 (.fld 2)) :=
  ⟨by decide +kernel, reads_of _ _ (by decide +kernel)⟩

/-- A state whose only turn is the end of a sleep that is due. -/
theorem witness_StepRunsWord_event :
    let f := { frond [] with wait := .sleep 900 }
    let s := { event .none with fronds := [f] }
    nextIssue s = none ∧ turns s = [.event { ev := .sleepEnd, subject := .frond f.uid }] := by decide +kernel

theorem witness_WordsRoundTrip : (hintsIn (.li p 1 40) = some (p, false) ∧ wellFormed (.li p 1 40) = true
    ∧ hintsIn (.msync p) = some (p, true) ∧ wellFormed (.msync p) = true ∧ 0x020000003008080000000000 < 2 ^ 96)
    ∧ decodeNat 0x020000003008080000000000 = .ok (.add { p with gq := 1 } false 3 1 (.fld 2)) :=
  ⟨by decide +kernel, reads_of _ _ (by decide +kernel)⟩

/-- A step from reset, and one from a state with memory listed. -/
theorem witness_MemoryCanonicalKept :
    let s := (at_ (frond [])).withFetchWord 96 0x000000003008080000000000
    Memory.wf { s with ls := [(5, 7)], hbm := [(0, 1), (9, 2)], poison := [3] }
    ∧ (stateOf (step { s with ls := [(5, 7)], hbm := [(0, 1), (9, 2)], poison := [3] })).isSome = true := by
  unfold Memory.wf
  decide +kernel

/-! ## Witnesses: events -/

/-- A flight with one element at a place, and a machine that holds it. -/
def oneFlight (op : FlightOp) (q : Place) (v : Nat) : Flight :=
  { loadFlight (frond []) with id := 60, op := op, dest := .none, issued := 100, due := 200, acq := none, elems := [{ lsElem 0x1000 8 0 with place := q, val := v }] }

def flying (g : Flight) : State := { event (.element g.id 0) with fronds := [frond []], flights := [g] }

/-- A store at home, one bound for another die, and a read-modify-write. -/
theorem witness_StoresPerformed :
    let near := oneFlight .store (.ls 0x1000) 77
    let far := { near with elems := [{ lsElem 0x1000 8 0 with
      place := .ls (0x1000 + 2 ^ 20 * 512), val := 77, clock := List.replicate 9 0 }] }
    let add := oneFlight (.rmw 0 true 5 0 false) (.ls 0x1000) 0
    (∀ g ∈ [near, far, add], ∃ e,
      let s := flying g
      s.subject = .element g.id 0 ∧ findFlight s g.id = some g ∧ g.elems[0]? = some e ∧ g.piece = false
      ∧ e.performed = false ∧ 0 < e.size ∧ (e.cnt = none ∨ Silent s) ∧ markedIn s (resolve s e.place) e.size = false ∧ Memory.wf s
      ∧ mayPerformAll s g [0] = true ∧ Undisturbed s (resolve s e.place) e.size)
    ∧ near.elems.map (crossDie (flying near) near) = [none]
    ∧ far.elems.map (fun e => (crossDie (flying far) far e).map (clockReady (flying far) 0 e.clock)) = [some true]
    ∧ readPlace (flying add) (.ls 0x1000) 8 = some 0 ∧ routineStep [] 0 true 64 0 5 0 = some (some 5, 0) := by
  refine ⟨?_, by decide +kernel⟩
  intro g hg
  simp only [List.mem_cons, List.not_mem_nil, or_false] at hg
  rcases hg with rfl | rfl | rfl <;>
    exact ⟨_, by decide +kernel, by decide +kernel, rfl, by decide +kernel, by decide +kernel, by decide +kernel,
      .inl rfl, by decide +kernel, by unfold Memory.wf; decide +kernel, by decide +kernel,
      undisturbed_of _ _ _ (by decide +kernel)⟩

/-- A store through a leaf with CNT = 1, one through a format code of each kind, and one of an accumulator's element as it is
and as `f16`. -/
theorem witness_StoresPerformed_coded :
    let one := vaElem 0x200000 (.hbm 0x400000) 1 0
    let store := fun (e : Elem) => { oneFlight .store (.hbm 0x400000) 0 with elems := [{ e with val := 0x3F800000 }], fmts := [0, 0x00090798] }
    let gs := [store { one with cnt := some false }, store { one with coding := .fixed 1 }, store { one with coding := .place 1 },
               store { one with coding := .acc 1 0 2 4 0 8191 }, store { one with coding := .acc 0 0 2 0 0 0, size := 4 },
               store { one with coding := .acc 0 0 2 0 1 0, size := 2 }]
    (∀ g ∈ gs, ∃ e, let s := flying g
      s.subject = .element g.id 0 ∧ findFlight s g.id = some g ∧ g.elems[0]? = some e ∧ g.piece = false
      ∧ e.performed = false ∧ 0 < e.size ∧ Silent s ∧ markedIn s (resolve s e.place) e.size = false ∧ Memory.wf s
      ∧ mayPerformAll s g [0] = true ∧ Undisturbed s (resolve s e.place) e.size ∧ crossDie s g e = none)
    ∧ (0x00090798#32).toNat % 16 ≠ 0 := by
  refine ⟨?_, by decide⟩
  intro g hg
  simp only [List.mem_cons, List.not_mem_nil, or_false] at hg
  rcases hg with rfl | rfl | rfl | rfl | rfl | rfl <;>
    exact ⟨_, by decide +kernel, by decide +kernel, rfl, by decide +kernel, by decide +kernel, by decide +kernel,
      by unfold Silent; decide +kernel, by decide +kernel, by unfold Memory.wf; decide +kernel, by decide +kernel,
      undisturbed_of _ _ _ (by decide +kernel), by decide +kernel⟩

/-- A `vst` of three elements, two of them in one piece, at home and bound for another die. -/
theorem witness_StoresPerformed_piece :
    let es := fun (base : Nat) => (List.range 3).map (fun l =>
      { vaElem (windowBase + base + 4 * l) (.ls (base + 4 * l)) 4 l with val := 5, clock := List.replicate 9 0 })
    let vst := fun (base : Nat) => { oneFlight .store (.ls base) 0 with elems := es base, piece := true }
    let ok := fun (g : Flight) => ∃ e, let s := flying g
      s.subject = .element g.id 0 ∧ findFlight s g.id = some g ∧ g.elems[0]? = some e ∧ g.op = .store ∧ g.piece = true
      ∧ (g.elems.filter (fun x => x.va / 8 == e.va / 8)).length = 2
      ∧ (∀ x ∈ g.elems.filter (fun x => x.va / 8 == e.va / 8), x.performed = false ∧ 0 < x.size ∧ x.cnt = none
        ∧ (∀ a b c d, x.place ≠ .walk a b c d) ∧ markedIn s (resolve s x.place) x.size = false
        ∧ Undisturbed s (resolve s x.place) x.size)
      ∧ Memory.wf s ∧ mayPerformAll s g (pieceOf g 0) = true
    (ok (vst 0x1000) ∧ ok (vst (512 * 2 ^ 20)))
    ∧ (vst 0x1000).elems.map (crossDie (flying (vst 0x1000)) (vst 0x1000)) = [none, none, none]
    ∧ (let g := vst (512 * 2 ^ 20)
       g.elems.map (fun e => (crossDie (flying g) g e).map (clockReady (flying g) (dieOf g.pcid) e.clock)) = [some true, some true, some true]) := by
  refine ⟨⟨?_, ?_⟩, by decide +kernel, by decide +kernel⟩ <;>
    refine ⟨_, by decide +kernel, by decide +kernel, rfl, by decide +kernel, by decide +kernel, by decide +kernel, ?_,
      by unfold Memory.wf; decide +kernel, by decide +kernel⟩ <;>
    (intro x hx
     have hx := (List.mem_filter.1 hx).1
     simp only [List.mem_map, List.mem_range] at hx
     obtain ⟨l, hl, rfl⟩ := hx
     have hl : l = 0 ∨ l = 1 ∨ l = 2 := by omega
     rcases hl with rfl | rfl | rfl <;>
       exact ⟨by decide +kernel, by decide +kernel, rfl, (fun _ _ _ _ h => by cases h), by decide +kernel,
         undisturbed_of _ _ _ (by decide +kernel)⟩)

/-- A flight of `two`-like fronds that has been answered, and the machine in which its answer is at hand. -/
def answeredFlight (op : FlightOp) (d : Dest) (v : Nat) (failed : Option Cause) (blocks : Option Hints) : Flight :=
  { oneFlight op (.ls 0x1000) v with dest := d, done := some 900, failed := failed, blocks := blocks }

def landing (g : Flight) : State := { event (.object g.id) with fronds := [frond []], flights := [g] }

/-- Acknowledgements, and results that land, fail, wait and join. -/
theorem witness_AnswersLand :
    let fault : Cause := { code := causeDATAFAULT, info := 64 }
    let ship : Cause := { code := causeSHIPERR, info := 5 }
    let acks := [answeredFlight .store .none 1 none none, answeredFlight (.scadd true) .none 1 none none,
                 answeredFlight (.sync .sto 7) .none 1 none (some p)]
    let load := answeredFlight (.load 3 false) (.g 9) 1 none none
    let results := [load, { load with failed := some fault }, { load with failed := some fault, blocks := some p },
                    { load with failed := some ship, blocks := some p }, { load with blocks := some p },
                    answeredFlight .join .none 1 none (some p), answeredFlight .join .none 0 none (some p)]
    (∀ g ∈ acks ++ results, (landing g).subject = .object g.id ∧ findFlight (landing g) g.id = some g ∧ g.done = some 900
      ∧ 900 ≤ (landing g).clk ∧ barLater (landing g) g = false)
    ∧ (∀ g ∈ results, lands g = true ∧ landsLater (landing g) g = false
      ∧ bindLater (landing g) g = false)
    ∧ fault.code = causeDATAFAULT ∧ ship.code ≠ causeDATAFAULT ∧ 1 < 2 ^ (8 * 2 ^ (3 % 4)) := by decide +kernel

/-- A descriptor with its base, element size, rank, mode and scope, and the extents, strides and origins of its dimensions (R42). -/
def viewBits (base esz rank : Nat) (write : Bool) (scope : Nat) (ext str org : List Nat) : Nat :=
  let words (lo : Nat) (l : List Nat) : Nat := (l.zipIdx.map (fun x => x.1 % 2 ^ 32 * 2 ^ (lo + 32 * x.2))).sum
  base + esz * 2 ^ 64 + rank * 2 ^ 80 + write.toNat * 2 ^ 88 + scope * 2 ^ 89 + words 128 ext + words 256 str + words 384 org

/-- The answer of a `wbind` that has read a descriptor. -/
def bindFlight (d : Nat) : Flight := answeredFlight (.bind 1) .none d none (some p)

/-- The entry of a view of another frond in the catalogue of a die, on 4 bytes. -/
def entry (die lo : Nat) : CatEntry :=
  { die := die, jid := 1, uid := 9, fid := 9, w := 0, foot := { lo := lo, hi := lo + 3, step := 0, off := 0, esz := 4 }
    write := true, scope := 3 }

/-- Descriptors of each case, of a flat view and of one whose footprint has three homes from die 2 on. -/
theorem witness_AnswersLand_wbind :
    let flatD := viewBits 0x200000 4 1 true 3 [16] [1] [0]
    let three := viewBits (3 * 2 ^ 30) 4 2 true 3 [16, 3] [2 ^ 32 - 1, 2 ^ 28] [0]
    let bad := [viewBits 0x200000 4 0 true 3 [] [] [], viewBits 0x200000 4 5 true 3 [1] [1] [0],
                viewBits 0x200000 3 1 true 3 [1] [1] [0], viewBits 0x200000 4 1 true 6 [1] [1] [0],
                viewBits 0x200000 4 1 true 3 [1, 1] [1] [0], viewBits 0x200000 4 1 true 3 [4] [1] [4]]
    let odd := viewBits 0x200002 4 1 true 3 [4] [1] [3]
    let empty := viewBits 0x200000 4 2 true 3 [16, 0] [1] [0]
    let high := viewBits (2 ^ 56 - 4) 4 1 true 3 [2] [1] [0]
    let top := viewBits (2 ^ 56 - 4) 4 1 true 3 [1] [1] [0]
    let low := viewBits 0 4 1 true 3 [2] [2 ^ 32 - 1] [0]
    let v := BitVec.ofNat 512
    let holds (d : Nat) (x : CatEntry) : Bool := mayMeet x.foot (footOf (v d))
    (∀ d ∈ bad ++ [flatD, three, odd, empty, high, low], let g := bindFlight d
      (landing g).subject = .object g.id ∧ findFlight (landing g) g.id = some g ∧ g.done = some 900 ∧ 900 ≤ (landing g).clk
      ∧ landsLater (landing g) g = false ∧ bindLater (landing g) g = false ∧ g.blocks = some p ∧ g.failed = none
      ∧ g.elems.length = 1 ∧ (findFrond (gone (landing g) g) g.uid).isSome = true)
    ∧ bad.map (fun d => viewCheck (v d)) = List.replicate 6 (some { code := causeOPERAND, info := operandInfo 5 0xE 0 })
    ∧ viewBase (v odd) % viewEsz (v odd) = 2 ∧ viewExt (v empty) 1 = 0
    ∧ 2 ^ 56 ≤ viewHigh (v high) ∧ viewHigh (v top) = 2 ^ 56 - 1 ∧ viewLow (v low) = -4 ∧ viewLow (v flatD) = 0x200000
    ∧ [flatD, three, top].map (fun d => viewCheck (v d)) = [none, none, none] ∧ viewLow (v three) = 3 * 2 ^ 30 - 60
    ∧ holds flatD (entry 0 0x20003C) = true ∧ holds flatD (entry 0 0x200040) = false ∧ holds three (entry 4 (4 * 2 ^ 30)) = true
    ∧ holds three (entry 2 0x300000) = false
    ∧ viewRank (v flatD) = 1 ∧ 0x20003C + 3 = viewBase (v flatD) + 4 * (15 * 1) + 3 ∧ 15 < viewExt (v flatD) 0 := by
  decide +kernel

/-- A sleep that is due, a service, an event and a timeout that `idle` waits for, an operation to send again, one past its
timeout, and a flit at the head of a queue. -/
theorem witness_WaitsEnd :
    let s := fun (w : Wait) => { event (.frond 1) with fronds := [{ frond [] with wait := w }] }
    let op := { oneFlight (.sync .lde 0) (.ls 0x1000) 0 with first := some 100 }
    let again := { s (.resend 1000 op.id) with flights := [op] }
    let late := { event (.object op.id) with fronds := [frond []], flights := [op], clk := 100 + 2 ^ 24 }
    let f := { talker [] with wait := .chan 2 }
    let flit : Chan := chan .bound (some (f.uid, 2)) [{ wide := false, bits := 9 }] []
    let u := { peer with chans := (List.replicate 8 Chan.unboundPort).set 3 flit }
    let port := { event (.port f.uid 2) with fronds := [f, u] }
    (findFrond (s (.sleep 1000)) 1).map (fun x => x.wait) = some (.sleep 1000) ∧ 1000 ≤ (s (.sleep 1000)).clk
    ∧ (findFrond (s (.sys 2 3 (.g 1) p)) 1).isSome = true ∧ (findJob (s (.sys 2 3 (.g 1) p)) 1).isSome = true
    ∧ pendingEvents (s .run) 0 = 0 ∧ pendingEvents { s .run with mgmt := { Mgmt.reset with events := [4] } } 0 ≠ 0
    ∧ (some 1000).any (fun t => t ≤ (s .run).clk) = true
    ∧ (∀ x ∈ again.fronds, mayRun again x = true ∧ isFrozen again x = false ∧ arrived again x.uid op.id (.ls 0x1000) 8 = true
      ∧ urgentWaits again (.ls 0x1000) = false) ∧ mayRun (s (.sys 2 3 (.g 1) p)) (frond []) = true
    ∧ findFlight again op.id = some op ∧ syncOf op = some (.lde, 0, 0x1000)
    ∧ findFlight late op.id = some op ∧ limited .lde = true ∧ (∀ e ∈ op.elems, e.performed = false)
    ∧ (findJob late op.jid).map (fun j => decide (100 + op.frozen + j.fet ≤ late.clk)) = some true
    ∧ findFrond port f.uid = some f ∧ findFrond port u.uid = some u ∧ u.uid ≠ f.uid ∧ f.chans.length = 8
    ∧ u.chans.length = 8 ∧ (∀ o ∈ port.orphans, o.1 ≠ f.uid) ∧ (chanOf f 2).state = .bound
    ∧ (chanOf f 2).peer = some (u.uid, 3) ∧ (chanOf u 3).send = [{ wide := false, bits := 9 }]
    ∧ (chanOf f 2).recv.length < 8 := by decide +kernel

/-- A machine whose interface 0 has the tables of PASID 0 at 0x10000 in host memory: a page of 2^30 bytes at VA 0 and
PA 0, and nothing else (R217, R218). -/
def tabled (s : State) : State :=
  { s with
      aqis := s.aqis.modify 0 (fun a => { a with
        pasids := a.pasids.set 0 { root := 0x10000, valid := true, nest := false, pasid := 0 } })
      host := [(0x10000, 0x01), (0x10001, 0x10), (0x10002, 0x01), (0x11000, 0x01), (0x11001, 0x20), (0x11002, 0x01),
               (0x12000, 0x07)] }

/-- A code line on its way with a frond that waits, and page walks: of a job that has gone, with a leaf for fronds and for
a fill, and with a fault. -/
theorem witness_CodeAndPagesArrive :
    let x : IFill := { tile := 0, jid := 1, line := 0x200000, due := 900 }
    let s := { paged (event (.iline 0 1 0x200000)) false with
                fronds := [{ frond [] with pc := 0x200000, wait := .icache }], ifills := [x] }
    let w : Walk := { id := 60, die := 0, jid := 1, va := 0x200000, write := false, fault := none, fill := none, due := 900 }
    let t := fun (w : Walk) => { tabled (event (.object 60)) with walks := [w] }
    let walks := [w, { w with fill := some 0 }, { w with va := 2 ^ 30 }, { w with jid := 7 }]
    s.ifills.find? (fun y => y.tile == x.tile && y.jid == x.jid && y.line == x.line) = some x ∧ x.due ≤ s.clk
    ∧ (match readCode s x.got (tileDie 0) 1 0x200000 with
      | some (.ok b) => decide (b.length = 128)
      | _ => false) = true
    ∧ (∀ f ∈ s.fronds, f.jid = 1 ∧ tileOf f.pcid = 0 ∧ f.wait = .icache)
    ∧ (∀ w ∈ walks, (t w).walks.find? (fun y => y.id == w.id) = some w ∧ w.fault = none ∧ w.due ≤ (t w).clk)
    ∧ walks.map (fun w => (findJob (t w) w.jid).isSome) = [true, true, true, false]
    ∧ walks.map (fun w => match translatePasid (t w) { aqi := 0, pasid := 0, pent := 0 } w.va w.write with
        | .ok l => l.size
        | .error k => k) = [2 ^ 30, 2 ^ 30, 0, 2 ^ 30] := by decide +kernel

/-- A fill of block 0x80 of job 1 into carrel 0 of core 0, whose block lies at PA 0x400000. -/
def filling (lines : List Nat) (failed : Option Nat) : Fill :=
  { jid := 1, block := 0x80, carrel := 0, lines := lines, failed := failed, ready := true, due := 900 }

/-- Core 0 with a hold queue of the parked frond of the tests, and that fill. -/
def withFill (s : State) (x : Option Fill) : State :=
  { s with
      fronds := [{ frond [] with wait := .park 0 0x80 0 }]
      cores := s.cores.map (fun c => { c with
        fill := x, holds := [{ jid := 1, block := 0x80, waiters := [{ uid := 1, proxy := none, placed := 500, frozen := 0 }] }]
        carrels := { Carrel.none with state := .filling, jid := 1, block := 0x80, pa := 0x400000 } :: List.replicate 3 Carrel.none }) }

/-- A queue to pick for an empty carrel; the last line of a block, readable and with each granule marked; a block whose lines
have all landed, and one that has failed, each with a waiting frond. -/
theorem witness_BlocksFill :
    let pick := withFill (event (.core 0)) none
    let line := { withFill (event (.line 0 127)) (some (filling [127] none)) with clk := 4000 }
    let landed := withFill (event (.core 0)) (some (filling [] none))
    let failed := withFill (event (.core 0)) (some (filling [3] (some 0x200040)))
    let pa := 0x400000 + 128 * 127
    (getCore pick 0).fill = none ∧ (getCore pick 0).pickFrom ≤ pick.clk ∧ (pickQueue pick (getCore pick 0)).isSome = true ∧ availableCarrels pick (getCore pick 0) ≠ []
    ∧ ((getCore line 0).carrels[0]?).map (fun k => k.pa) = some 0x400000 ∧ 127 ∈ (filling [127] none).lines
    ∧ lineTime line (filling [127] none) 0x400000 ≤ line.clk ∧ arrivedAt line (0 * 2 ^ 20 + carrelOff 0 + 128 * 127) 128 = false
    ∧ poisoned line pa = false ∧ poisoned line (pa + 64) = false
    ∧ poisoned { line with poison := [pa / 64] } pa = true ∧ poisoned { line with poison := [pa / 64 + 1] } (pa + 64) = true
    ∧ Memory.wf line ∧ Undisturbed line (.ls (0 * 2 ^ 20 + carrelOff 0 + 128 * 127)) 128
    ∧ (getCore landed 0).fill = some (filling [] none) ∧ (filling [] none).ready = true ∧ 900 ≤ landed.clk
    ∧ (getCore failed 0).fill = some (filling [3] (some 0x200040)) ∧ 0 < (getCore failed 0).carrels.length
    ∧ (findFrond landed 1).isSome = true ∧ (findFrond failed 1).isSome = true := by
  and_intros
  all_goals
    first
    | decide +kernel
    | exact undisturbed_of _ _ _ (by decide +kernel)
    | (unfold Memory.wf; decide +kernel)

/-- A copy of one row of 64 bytes. -/
def oneCopy (out : Bool) (lines : List Nat) : Copy :=
  { id := 60, uid := 1, jid := 1, pcid := 0, out := out, pa := 0x400000, va := 0x200000, ext0 := 64, e1 := 1, e2 := 1
    str1 := 0, str2 := 0, ls := 0x1000, lines := lines, bar := none, failed := none, due := 900 }

/-- A copy in whose lines have all landed, one whose line arrives, and a copy out; a `cpyq` into an open and a closed queue;
a phase whose participants have arrived; a source that pushes; and a sink within its length and at its end. -/
theorem witness_BulkMoves :
    let s := fun (c : Copy) => { event (.object 60) with copies := [c] }
    let arriving := { event (.element 60 32) with copies := [oneCopy false [32]] }
    let q := queue 3 false [] [] 4
    let qs := fun (q : Queue) (o : Subject) => tabled (queued_ (event o) q)
    let k : CopyQ :=
      { id := 60, uid := 1, jid := 1, pcid := 0, pl := 0, stage := 0, q := 0, pa := 0x400000, va := 0x200000, ext0 := 64, e1 := 1
        e2 := 1, str1 := 0, str2 := 0, pos := 0, due := 900 }
    let x : Phase :=
      { id := 60, jid := 1, pl := 0, stage := 0, scope := 0, f32 := false, opener := 0, target := 0x200000, places := [.hbm 0x400000]
        copy := 0x1000, n := 1, parts := [0], arrived := [0], waiters := [(1, p)], due := 900 }
    let source := { q with prod := 0xF, sva := 0x200000, slen := 8 }
    let sink := { q with cons := 0xF, sva := 0x200000, slen := 8
                         segs := [{ pcid := none, accepting := true, off := 0, head := 0, elems := [elem8 1] }] }
    let full := { sink with streamed := 8 }
    let o : Subject := .queue 1 0 0
    (∀ c ∈ [oneCopy false [], oneCopy true []], (s c).copies.find? (fun k => k.id == c.id) = some c ∧ c.due ≤ (s c).clk
      ∧ c.lines = [] ∧ c.bar = none ∧ c.failed = none)
    ∧ outReady (s (oneCopy true [])) (oneCopy true []) = true ∧ copyNowhere (oneCopy true []) = false ∧ mapWf 0 (s (oneCopy true [])).hbm
    ∧ copyBytes (oneCopy true []) ≠ 0 ∧ barrierReady (s (oneCopy true [])) (oneCopy true []) = true
    ∧ failedGranules (s (oneCopy true [])) (oneCopy true []) = []
    ∧ 0x80007 ∈ copyLeft (oneCopy true []) ∧ pieceReady (s (oneCopy true [])) (oneCopy true []) 0x80007 = true
    ∧ (∀ t ∈ pieceBytes (oneCopy true []) 0x80007, poisoned (s (oneCopy true [])) (0x400000 + copyOff (oneCopy true []) t) = false)
    ∧ (pieceBytes (oneCopy true []) 0x80007).length = 8
    ∧ 32 ∈ (oneCopy false [32]).lines ∧ copyNowhere (oneCopy false [32]) = false
    ∧ lineHeld arriving (oneCopy false [32]) 32 = false ∧ (oneCopy false [32]).due ≤ arriving.clk
    ∧ barrierReady (s { oneCopy false [] with bar := some 0x2000 }) { oneCopy false [] with bar := some 0x2000 } = true
    ∧ theQueue { qs q (.object 60) with copyqs := [k] } 1 0 0 = some q
    ∧ copyqHeld { qs q (.object 60) with copyqs := [k] } k (2 ^ q.esz) = false ∧ k.pos + 2 ^ q.esz ≤ k.e2 * k.e1 * k.ext0
    ∧ ringReached { qs q (.object 60) with copyqs := [k] } q = false ∧ ringReached (qs source o) source = false
    ∧ (findJob { qs q (.object 60) with copyqs := [k] } 1).map (fun j => j.live) = some true
    ∧ paExists (k.pa + shapeOff k.ext0 k.e1 k.str1 k.str2 k.pos) = true
    ∧ (theQueue { qs { q with closed := true } (.object 60) with copyqs := [k] } 1 0 0).map (fun q => q.closed) = some true
    ∧ (pushElem { qs q (.object 60) with copyqs := [k] } 1 0 0 (natBytes 8 7)).isSome = true
    ∧ mergeReady { event (.object 60) with phases := [x] } x = true
    ∧ (findJob (qs source o) 1).bind (fun j => (streamPlace (qs source o) j source.sva false).map (fun r => r.1))
        = some (.hbm 0x200000)
    ∧ landedAll (qs source o) (.hbm 0x200000) (2 ^ source.esz) = true
    ∧ (findJob (qs source o) 1).map (fun j => streamServed (qs source o) j (.hbm 0x200000)) = some true ∧ (pushElem (qs source o) 1 0 0 (natBytes 8 7)).isSome = true
    ∧ theQueue (qs sink o) 1 0 0 = some sink ∧ full.slen ≤ full.streamed ∧ sink.streamed < sink.slen
    ∧ (findJob (qs sink o) 1).map streamRuns = some true
    ∧ ((findJob (qs sink o) 1).bind (fun j => sinkWrite (qs sink o) j sink (elem8 1).bytes)).isSome = true := by
  decide +kernel

/-- Bytes of a shape with three planes of two rows; the last piece of a copy in read ahead, with nothing before it, and that of a
copy out; a line that arrives, with a granule of its region marked and with none, whose 64 bytes lie at 0x1000. -/
theorem witness_BulkMoves_bytes :
    let s := fun (c : Copy) => { event (.object 60) with copies := [c] }
    let arriving := { event (.element 60 32) with copies := [oneCopy false [32]] }
    let marked := { arriving with poison := [0x10000] }
    let shape := { oneCopy false [] with ext0 := 8, e1 := 2, e2 := 3, str1 := 64, str2 := 256 }
    let ahead := fun (c : Copy) (k : Nat) => (List.range (copyBytes c)).filter (fun t => copyPiece c t == k && copyUndone c t && !hasGot c.got t)
    (2 < shape.e2 ∧ 1 < shape.e1 ∧ 7 < shape.ext0)
    ∧ (∀ c ∈ [oneCopy false [32], oneCopy true []], (s c).copies.find? (fun x => x.id == c.id) = some c ∧ c.due ≤ (s c).clk
      ∧ copyNowhere c = false ∧ givesWay (s c) c.uid (.ls c.ls) = false)
    ∧ (ahead (oneCopy false [32]) 0x80007).length = 8 ∧ fetchHeld (s (oneCopy false [32])) (oneCopy false [32]) (ahead (oneCopy false [32]) 0x80007) = false
    ∧ (∀ t ∈ ahead (oneCopy false [32]) 0x80007, (sourceByte (s (oneCopy false [32])) (oneCopy false [32]) t).isSome = true)
    ∧ (ahead (oneCopy true []) 0x207).length = 8 ∧ fetchHeld (s (oneCopy true [])) (oneCopy true []) (ahead (oneCopy true []) 0x207) = false
    ∧ (∀ t ∈ ahead (oneCopy true []) 0x207, (sourceByte (s (oneCopy true [])) (oneCopy true []) t).isSome = true)
    ∧ (∀ x ∈ [arriving, marked], lineHeld x (oneCopy false [32]) 32 = false ∧ mapWf 0 x.ls ∧ Silent x ∧ Undisturbed x (.ls (128 * 32)) 128)
    ∧ copyPart (oneCopy false [32]) 32 = (0x1000, 64) ∧ poisoned marked (0x400000 + copyOff (oneCopy false [32]) 0) = true
    ∧ Silent (s (oneCopy true [])) := by
  and_intros
  all_goals
    first
    | decide +kernel
    | (unfold Silent; decide +kernel)
    | (intro x hx
       simp only [List.mem_cons, List.not_mem_nil, or_false] at hx
       rcases hx with rfl | rfl <;>
         exact ⟨by decide +kernel, by decide +kernel, by unfold Silent; decide +kernel, undisturbed_of _ _ _ (by decide +kernel)⟩)

/-- An engine word of the tests, and the tile that has it. -/
def engWord (op : EngOp) (checked stored : Bool) : EngWord :=
  { id := 60, uid := 1, jid := 1, pcid := 0, urgent := false, cid := 0, seed := 0, stream := 0, hints := p, op := op
    fa := 0x00090798, fb := 0x00090798, fmts := [], checked := checked, stored := stored, elems := [], view := none, due := 900 }

def engineOf (o : Subject) (w : EngWord) (gs : List Flight) : State :=
  let s := event o
  { s with engines := s.engines.map (fun e => { e with queue := [w] }), flights := gs, fronds := [frond []] }

/-- Operand reads that are performed: whole, with an uncorrectable granule, and with a sparse line that is not in form. -/
theorem witness_EngineCheckPoints :
    let mma := fun (sparse : Bool) => engWord (.mma 3 sparse 0 0 1 0 8 1 1) false false
    let sst := fun (r : Nat) => engWord (.sst 3 0 1 0 r 1) false false
    let reads : Flight := { oneFlight (.operand 60) (.ls 0x1000) 0 with elems := [] }
    let one : Flight := { reads with elems := [{ lsElem 0x1000 128 0 with performed := true, val := 1 }] }
    let at_ := fun (w : EngWord) (g : Flight) => engineOf (.engineWord 0 60) w [g]
    (∀ w ∈ [mma false, mma true, engWord (.load 3 0) false false], ∀ g ∈ [reads, one],
      findWord (at_ w g) 0 60 = some w ∧ w.checked = false ∧ findFlight (at_ w g) w.id = some g
      ∧ ∀ e ∈ g.elems, e.performed = true)
    ∧ reads.failed = none ∧ ({ one with failed := some { code := causeDATAFAULT, info := 64 } } : Flight).failed.isSome = true
    ∧ sparseFault 8 [] 0 = none ∧ (sparseFault 8 [1] 0).isSome = true
    ∧ (∀ n ∈ [62, 63], findWord (engineOf (.engineWord 0 60) (sst n) []) 0 60 = some (sst n)
      ∧ earlierWords (engineOf (.engineWord 0 60) (sst n) []) 0 60 = []) ∧ 62 + 1 ≤ 63 ∧ 64 ≤ 63 + 1
    ∧ packFault (sst 63) EngSet.clear 3 0 1 0 63 = none := by decide +kernel

/-- A word of each kind at the head of its engine's queue. -/
theorem witness_EngineWordsComplete :
    let at_ := fun (w : EngWord) => engineOf (.engine 0 false) w [oneFlight (.operand 60) (.ls 0x1000) 0]
    ∀ op ∈ ([.zero 3, .add 3 0 0, .load 3 0, .mma 3 false 0 0 1 0 8 1 1, .clear 3, .stat 3, .store 0 0 0] : List EngOp),
      let w := engWord op true true
      (at_ w).subject = .engine 0 w.urgent ∧ (getEngine (at_ w) 0).queue = [w] ∧ w.checked = true ∧ w.due ≤ (at_ w).clk
      ∧ mapWf 0 ((getEngine (at_ w) 0).set w.urgent).acc ∧ (findFlight (at_ w) w.id).isSome = true
      ∧ storesDone { at_ w with flights := [] } w.id = true := by decide +kernel

/-- Two cores of a job bound to its stage, with an entry in the deque of core `at_`: a range or a spawn (R73, R74). -/
def deques (s : State) (at_ kind lo hi : Nat) : State :=
  let two := { s with
    jobs := s.jobs.map (fun j => { j with cores := [0, 1] })
    cores := [placedCore 1, { placedCore 1 with pcid := 1 }] }
  let c := getCore two at_
  setCore { two with ls := writeNat two.ls (dequeAddr c 0) 32 (sporeBits kind 0x1000 lo hi 0) } { c with bot := 1 }

/-- A frond on a ready list; deques with a spawn, one item and a longer range; an urgent context with an item; a thief at an
idle and at a busy victim; a compare-and-swap over one item, over a range, and too late, in a cycle in which the victim has
placed another frond; what a thief has taken, which reaches it; and the end of a rest. -/
theorem witness_FrondsStart :
    let ready := { event (.bank 0 false) with fronds := [{ frond [] with loc := .ready }] }
    let main := fun (kind hi : Nat) => deques (event (.bank 0 false)) 0 kind 4 hi
    let u : Urgent := { jid := 1, pl := 0, stage := 0, t := none, args := 0, top := 0, begin_ := 0, lo := 3, hi := 4 }
    let shadow := updCore (event (.bank 0 true)) 0 (fun c => { c with urgent := some u })
    let thief := deques (event (.core 0)) 1 2 4 8
    let cas := fun (kind hi tag : Nat) => updCore (updCore (deques (event (.core 0)) 1 kind 4 hi) 0 (fun c =>
      { c with steal := .swapping 0 [] 1 tag 0 1000 })) 1 (fun c => { c with placedAt := some 1000 })
    let carries := updCore (deques (event (.core 0)) 1 2 4 8) 0 (fun c => { c with steal := .carrying 5 3 1000 })
    let starts (s : State) (urgent : Bool) : Prop := (freePlace s 0 urgent 128).isSome = true
      ∧ ((findJob s 1).map (fun j => j.phase)) = some .running ∧ mayPlace s 0 urgent = true
    let b : Bind := { jid := 1, pl := 0, stage := 0 }
    (readyList ready 0 false).map (fun f => f.regs) = [128] ∧ starts ready false
    ∧ (∀ s ∈ [main 1 0, main 2 5, main 2 6], starts s false ∧ (getCore s 0).bind = some b ∧ readyList s 0 false = []
      ∧ ((findJob s 1).bind (fun j => j.stage? 0 0)).isSome = true
      ∧ movedOn (getCore s 0) = false ∧ dequeNonempty (getCore s 0) = true ∧ (getCore s 0).swapAt ≠ some s.clk
      ∧ takeable s (sporeAt s (getCore s 0) (bottomIndex (getCore s 0))) = true)
    ∧ [main 1 0, main 2 5, main 2 6].map (fun s => let x := sporeAt s (getCore s 0) 0; (x.kind, x.a0, x.a1))
        = [(1, 4, 0), (2, 4, 5), (2, 4, 6)]
    ∧ starts shadow true ∧ (getCore shadow 0).urgent = some u ∧ u.lo < u.hi
    ∧ maySteal thief 0 = some b ∧ nextVictim thief (getCore thief 0) b = some (0, 1, []) ∧ stealDue (getCore thief 0).steal ≤ thief.clk
    ∧ dequeNonempty (getCore thief 1) = true ∧ (getCore thief 1).bind = some b
    ∧ dequeNonempty (getCore (updCore thief 1 (fun c => { c with bot := 0 })) 1) = false
    ∧ (∀ s ∈ [cas 1 0 0, cas 2 5 0, cas 2 6 0, cas 2 6 7], (getCore s 0).steal ≠ .idle
      ∧ dequeCount (getCore s 0) < dequeCap (getCore s 0) ∧ startMain s 1 = none)
    ∧ (getCore (cas 2 6 0) 1).tag = 0 ∧ (∀ f ∈ ready.fronds, f.notBefore ≤ ready.clk)
    ∧ (getCore carries 0).steal = .carrying 5 3 1000 ∧ 1000 ≤ carries.clk ∧ dequeCount (getCore carries 0) < dequeCap (getCore carries 0)
    ∧ 1000 ≤ (updCore (event (.core 0)) 0 (fun c => { c with steal := .resting 1000 })).clk := by decide +kernel

/-- An interval that has ended; a move that takes effect; a draining core that passes an entry on; and a drained core,
whose new stage has no arguments, and has some. -/
theorem witness_CoresAndFrondsMove :
    let at_ := fun (m : Option Move) (s : State) => updCore s 0 (fun c => { c with move := m })
    let m : Move := { stage := 0, at_ := 1000, began := false }
    let b : Bind := { jid := 1, pl := 0, stage := 0 }
    let pipe := { event (.pipe 1 0) with clk := 2 ^ 30 }
    let move := at_ (some m) (event (.core 0))
    let pass := at_ (some { m with began := true }) (deques (event (.core 0)) 0 2 4 8)
    let bare := at_ (some { m with began := true }) (event (.core 0))
    let armed := { bare with jobs := bare.jobs.map (fun j => { j with pipes := j.pipes.map (fun p => { p with
      stages := p.stages.map (fun g => { g with args := [1, 2] }) }) }) }
    (findJob pipe 1).map (fun j => (j.pipes[0]?).map (fun q => decide (nextInterval q ≤ pipe.clk))) = some (some true)
    ∧ (findJob pipe 1).map (fun j => (j.cores, j.phase)) = some ([0], .running)
    ∧ (getCore move 0).move = some m ∧ (getCore move 0).bind = some b ∧ m.at_ ≤ move.clk
    ∧ (getCore pass 0).bind = some b ∧ transferTo pass b = some 1 ∧ movedOn (getCore pass 0) = true
    ∧ dequeNonempty (getCore pass 0) = true ∧ dequeCount (getCore pass 1) < dequeCap (getCore pass 1)
    ∧ (getCore bare 0).move = some { m with began := true } ∧ (getCore bare 0).bind = some b
    ∧ (findJob bare 1).map (fun j => ((j.stage? 0 0).isSome, j.phase)) = some (true, .running)
    ∧ ((findJob bare 1).bind (fun j => j.pipes[0]?)).map (drainedCore bare (getCore bare 0) b) = some true
    ∧ reachesUrgent (getCore bare 0) (areaEnds (placedWordJob State.reset 1)
        ((placedWordJob State.reset 1).pipes.headD { stages := [], queues := [], bint := 0, himark := 0, lomark := 0, moves := 0
                                                     asked := [], placedAt := 0, intervals := 0 }) placedStage).1 0 = false
    ∧ ((findJob armed 1).bind (fun j => (j.stage? 0 0).map (fun g => g.args))) = some [1, 2]
    ∧ ((findJob armed 1).bind (fun j => j.pipes[0]?)).map (drainedCore armed (getCore armed 0) b) = some true
    ∧ (findJob armed 1).map (fun j => arrivedAt armed (0 * 2 ^ 20 + argsOff j) 2) = some false := by decide +kernel

/-- Fronds that leave for a block's home and for a feature, that lack the feature everywhere, and that arrive: without a
block, with it resident, with room in the hold storage, and with none. -/
theorem witness_CoresAndFrondsMove_fronds :
    let at_ := fun (f : Frond) => { paged (deques (event (.frond 1)) 1 2 4 8) true with fronds := [f] }
    let f := { frond [] with rooted := false }
    let leaving := { f with pcid := 1, wait := .migrate 0x80 }
    let arriving := fun (b : Option Nat) => { f with loc := .transit 900 b }
    let full := updCore (at_ (arriving (some 0x80))) 0 (fun c => { c with holdLen := 0 })
    let lacking := { f with wait := .feature 0 }
    let some_ := updCore (at_ lacking) 0 (fun c => { c with lost := 15 })
    let none_ := updCore some_ 1 (fun c => { c with lost := 15 })
    findFrond (at_ leaving) 1 = some leaving
    ∧ (findJob (at_ leaving) 1).bind (fun j => homeCore j 0x80) = some 0 ∧ hasStores (at_ leaving) 1 = false
    ∧ (getCore (at_ leaving) 1).fwd.length + leaving.outs.length ≤ 32 ∧ (getCore (at_ leaving) 1).fwd.length < 32
    ∧ goneNow (at_ (arriving (some 0x80))) 1 0x80 = false
    ∧ (arriving none).loc = .transit 900 none ∧ 900 ≤ (at_ f).clk
    ∧ findCarrel (getCore (resident (at_ (arriving (some 0x80))) 0 []) 0) .resident 1 0x80 = some 0
    ∧ findCarrel (getCore (at_ (arriving (some 0x80))) 0) .resident 1 0x80 = none
    ∧ holdsUsed (at_ (arriving (some 0x80))) 0 < (getCore (at_ (arriving (some 0x80))) 0).holdLen / 256
    ∧ noHoldEntry (at_ (arriving (some 0x80))) (arriving (some 0x80)) 0x80 = false
    ∧ (getCore full 0).holdLen / 256 ≤ holdsUsed full 0
    ∧ (∀ x ∈ [leaving, lacking], mayRun (at_ x) x = true ∧ isFrozen (at_ x) x = false)
    ∧ noHoldEntry (updCore (at_ (arriving (some 0x80))) 0 (fun c => { c with
        holds := List.replicate 512 { jid := 2, block := 0, waiters := [] } })) (arriving (some 0x80)) 0x80 = true
    ∧ featureCores some_ lacking 0 = [1] ∧ featureCores none_ lacking 0 = [] ∧ heldCount lacking = 0
    ∧ heldCount { lacking with held := [{ field := 1, bits := 9 }] } ≠ 0 := by decide +kernel

/-- Causes at a frond: with a handler, inside one, and without; a late one, a deferred one at a marked word, an unlisted
encoding; a halted frond without a supervisor; and a message whose slot is empty, and one whose slot no core has. -/
theorem witness_CausesTaken :
    let s := fun (f : Frond) => { event (.frond 1) with
      fronds := [f], ilines := [{ tile := 0, jid := 1, line := 0x1000, bytes := natBytes 12 0x010000000000000000000000 }] }
    let bad := fun (f : Frond) => { s f with ilines := [{ tile := 0, jid := 1, line := 0x1000, bytes := natBytes 12 0 }] }
    let c : Cause := { code := causeALIGN, info := 3 }
    let f := pendCause (frond []) c
    let inside := pendCause { frond [] with hnd := true } c
    let late := { f with late := [c] }
    let store := { frond [] with storeErrs := [5] }
    let waited := { store with errWait := true }
    let back := { store with errBack := some store.pc }
    let m : Msg := { slot := windowBase + 0x1000, pcid := 0, bits := 0 }
    let slot := fun (m : Msg) => { event (.element 1 0) with
      jobs := [{ placedWordJob State.reset 1 with msgs := [m] }], empties := [0x200] }
    nextCause (s f) f = some (c, dropCause f) ∧ wordCause f = some c ∧ handlerCause c.code = true
    ∧ traphOf (withHandler (s f) 0x2000) f ≠ 0 ∧ traphOf (s f) f = 0 ∧ c.code ≠ causeFEATURE
    ∧ nextCause (s inside) inside = some (c, dropCause inside) ∧ wordCause (frond []) = none ∧ late.late = [c]
    ∧ (∀ x ∈ [store, waited, back], x.late = [] ∧ x.storeErrs = [5] ∧ x.hnd = false)
    ∧ fetchedWord (s store) store = some 0x010000000000000000000000 ∧ eligibleWord 0x010000000000000000000000 = true
    ∧ (0xC10000000000000000000000 : Nat).testBit 88 = true ∧ (illegalReason 0xC10000000000000000000000).isSome = true
    ∧ fetchedWord (bad (frond [])) (frond []) = some 0 ∧ refusesAs [(0, (illegalReason 0).getD 0)] = true
    ∧ mayRun (s { frond [] with wait := .halted }) { frond [] with wait := .halted } = true
    ∧ slotOf (s { frond [] with wait := .halted }) { frond [] with wait := .halted } = none
    ∧ (findJob (slot m) 1).map (fun j => (j.phase, j.msgs[0]?)) = some (.running, some m)
    ∧ windowOk (slot m) 1 m.slot = some (0, 0x1000) ∧ 0x1000 % 8 = 0 ∧ syncFull (slot m) (0 * 2 ^ 20 + 0x1000) = false
    ∧ slotTakes (slot m) (0 * 2 ^ 20 + 0x1000) = true
    ∧ Undisturbed (slot m) (.ls (0 * 2 ^ 20 + 0x1000)) 64 ∧ Memory.wf (slot m)
    ∧ windowOk (slot { m with slot := windowBase + 2 ^ 30 }) 1 (windowBase + 2 ^ 30) = none := by
  and_intros
  all_goals
    first
    | decide +kernel
    | exact undisturbed_of _ _ _ (by decide +kernel)
    | (unfold Memory.wf; decide +kernel)

/-- A request that reaches its core, a context without fronds and items whose stage has completed and has not, and the end
of a quantum. -/
theorem witness_UrgentSwaps :
    let u : Urgent := { jid := 1, pl := 0, stage := 0, t := none, args := 0, top := 0, begin_ := 0, lo := 4, hi := 4 }
    let at_ := fun (o : Subject) (u : Urgent) => { updCore (event o) 0 (fun c => { c with urgent := some u }) with
      swaps := [{ pcid := 0, jid := 1 }] }
    let s := at_ (.swap 0 1) u
    let idle := at_ (.core 0) { u with t := some 500 }
    let done : State := { idle with jobs := idle.jobs.map (fun j => { j with pipes := j.pipes.map (fun q => { q with
      stages := q.stages.map (fun g => { g with completed := true }) }) }) }
    let last := { idle with clk := 500 + 4800000, fronds := [{ frond [] with urgent := true }] }
    (getCore s 0).urgent = some u ∧ s.swaps.any (fun x => x.pcid == 0 && x.jid == u.jid) = true
    ∧ (∀ b, (getCore s 0).swapBack = some b → b + 48 ≤ s.clk)
    ∧ urgentLeft idle 0 = false ∧ urgentOver idle { u with t := some 500 } = false
    ∧ urgentLeft done 0 = false ∧ urgentOver done { u with t := some 500 } = true
    ∧ quantumEnd last { u with t := some 500 } = some (500 + 4800000) ∧ urgentLeft last 0 = true
    ∧ (findJob last 1).map (fun j => j.live) = some true :=
  ⟨by decide +kernel, by decide +kernel, fun b h => (by have : (none : Option Nat) = some b := h; cases this), by decide +kernel⟩

/-! ### Jobs, packets, the host and the part -/

/-- Fields, each with the bit at which it stands. -/
def fields (l : List (Nat × Nat)) : Nat := l.foldl (fun a x => a + x.1 * 2 ^ x.2) 0

/-- The bytes other than 0 of a job's control block at 0x1000 (R18, R22): LAYN is 8, and its pipeline is at 0x1100. -/
def jobBlock : List (Nat × Byte) :=
  [(4096, 240), (4097, 15), (4098, 255), (4099, 255), (4100, 255), (4101, 255), (4102, 255), (4103, 255), (4113, 17),
   (4128, 255), (4129, 255), (4130, 255), (4131, 255), (4132, 255), (4133, 255), (4134, 255), (4135, 255),
   (4136, 255), (4137, 255), (4138, 255), (4139, 255), (4140, 255), (4141, 255), (4142, 255), (4143, 255),
   (4144, 255), (4145, 255), (4146, 255), (4147, 255), (4148, 255), (4149, 255), (4150, 255), (4151, 255),
   (4152, 255), (4153, 255), (4154, 255), (4155, 255), (4156, 255), (4157, 255), (4158, 255), (4159, 255),
   (4160, 255), (4161, 255), (4162, 255), (4163, 255), (4164, 255), (4165, 255), (4166, 255), (4167, 255),
   (4168, 255), (4169, 255), (4170, 255), (4171, 255), (4172, 255), (4173, 255), (4174, 255), (4175, 255),
   (4178, 255), (4240, 8)]

/-- The same of its pipeline (R20, R23), of the one stage at 0x1200. -/
def pipeBlock : List (Nat × Byte) :=
  [(4352, 241), (4353, 15), (4354, 255), (4355, 255), (4356, 255), (4357, 255), (4358, 255), (4359, 255), (4361, 16),
   (4369, 18), (4384, 255), (4385, 255), (4386, 255), (4387, 255), (4388, 255), (4389, 255), (4390, 255),
   (4391, 255), (4392, 255), (4393, 255), (4394, 255), (4395, 255), (4396, 255), (4397, 255), (4398, 255),
   (4399, 255), (4400, 255), (4401, 255), (4402, 255), (4403, 255), (4404, 255), (4405, 255), (4406, 255),
   (4407, 255), (4408, 255), (4409, 255), (4410, 255), (4411, 255), (4412, 255), (4413, 255), (4414, 255),
   (4415, 255), (4416, 255), (4417, 255), (4418, 255), (4419, 255), (4420, 255), (4421, 255), (4422, 255),
   (4423, 255), (4424, 255), (4425, 255), (4426, 255), (4427, 255), (4428, 255), (4429, 255), (4430, 255),
   (4431, 255), (4434, 255), (4488, 64)]

/-- The same of its stage (R21, R23), of one item at 0x4000. -/
def stageBlock : List (Nat × Byte) :=
  [(4608, 242), (4609, 15), (4610, 255), (4611, 255), (4612, 255), (4613, 255), (4614, 255), (4615, 255), (4617, 17),
   (4640, 255), (4641, 255), (4642, 255), (4643, 255), (4644, 255), (4645, 255), (4646, 255), (4647, 255),
   (4648, 255), (4649, 255), (4650, 255), (4651, 255), (4652, 255), (4653, 255), (4654, 255), (4655, 255),
   (4656, 255), (4657, 255), (4658, 255), (4659, 255), (4660, 255), (4661, 255), (4662, 255), (4663, 255),
   (4664, 255), (4665, 255), (4666, 255), (4667, 255), (4668, 255), (4669, 255), (4670, 255), (4671, 255),
   (4672, 255), (4673, 255), (4674, 255), (4675, 255), (4676, 255), (4677, 255), (4678, 255), (4679, 255),
   (4680, 255), (4681, 255), (4682, 255), (4683, 255), (4684, 255), (4685, 255), (4686, 255), (4687, 255),
   (4690, 255), (4737, 64), (4744, 1), (4752, 1), (4760, 1)]

/-- A packet of interface 0, by its 64 bytes. -/
def packet (bits : Nat) : Packet :=
  { bytes := natBytes 64 bits, off := 0, pasid := 0, at_ := 10, order := 1, pent := 0, job := none }

/-- A machine whose interface 0, privileged or not, has that packet first, with the control blocks in memory and a second job
that is open. -/
def taking (priv : Bool) (x : Packet) : State :=
  let s := tabled (event (.aqi 0))
  { s with
      aqis := s.aqis.modify 0 (fun a => { a with en := true, priv := priv, ordinary := if x.off = 0 then [x] else [], ahead := if x.off = 0 then [] else [x] })
      hbm := jobBlock ++ pipeBlock ++ stageBlock
      jobs := s.jobs ++ [{ placedWordJob s 2 with phase := .open_, layn := 8 }] }


def opPacket (o jid : Nat) (l : List (Nat × Nat)) : Packet := packet (fields ((o, 0) :: (jid, 128) :: l))
def intakePacket (go : Nat) : Packet := packet (fields [(1, 0), (2 * go, 8), (0x1000, 128)])
def layoutPacket (jid first : Nat) : Packet := opPacket 3 jid [(first, 144), (4, 160), (0x2000, 192)]
def cancelPacket (jid : Nat) : Packet := { opPacket 5 jid [] with off := 0x200 }
def formatPacket (jid entry : Nat) : Packet := opPacket 4 jid [(1, 144), (1, 152), (entry, 192)]

/-- The packet is the next of its interface, and the part is operational. -/
def comes (x : Packet) : Prop :=
  ((taking true x).aqis[0]?).map nextPacket = some (some x) ∧ (taking true x).mgmt.state = .operational
  ∧ recordOwed (taking true x) 0 = false

/-- What an INTAKE comes to, with 0 for a job. -/
def intakeOutcome (x : Packet) : Nat :=
  match (intakeJob (taking true x) 0 x).2 with
  | .ok _ => 0
  | .error st => st

/-- A record on its way to host memory, of a packet of interface 0, with the pieces that are still to be written before the
last; and a CRA in memory. -/
def owing (left : List Nat) (vec : Option Nat) : State :=
  { taking true (intakePacket 0) with records := [{
      place := .host 0x8000, bits := 2 ^ 255 + 7, left := left, va := 0x8000, aqi := 0, pasid := 0, vec := vec, tag := 3, jid := 1
      packet := true }] }

theorem witness_PacketsTakeEffect_records :
    (owing [1, 2, 3] none).subject = .aqi 0 ∧ recordOwed (owing [1, 2, 3] none) 0 = true
    ∧ (∀ left ∈ [[1, 2, 3], [2], []], ∀ vec ∈ [none, some 5], ((owing left vec).records.map (fun w => (w.left, w.vec, w.place)))
      = [(left, vec, .host 0x8000)] ∧ Memory.wf (owing left vec)) ∧ 0 ∉ [2]
    ∧ (∀ a b c d, Place.host 0x8000 ≠ .walk a b c d)
    ∧ markedIn { owing [] none with hbm := [], poison := [0x10000] } (placePlus (.hbm 0x400000) 8) 8 = true
    ∧ 0x8000 < 2 ^ 56 ∧ (match translatePasid (taking true (intakePacket 0)) ((intakePacket 0).space 0) 0x8000 true with
      | .ok l => !l.host && decide (l.pa + 0x8000 % l.size = 0x8000)
      | .error _ => false) = true := by
  and_intros
  all_goals
    first
    | decide +kernel
    | exact fun _ _ _ _ h => nomatch h

/-- An INTAKE that makes a job, with and without GO, and an unassigned OP, which fails. -/
theorem witness_PacketsTakeEffect_intake : comes (intakePacket 0) ∧ comes (intakePacket 1) ∧ intakeOutcome (opPacket 7 1 []) = 1
    ∧ comes (opPacket 7 1 []) ∧ intakeOutcome (intakePacket 0) = 0
    ∧ (intakePacket 0).go = false ∧ (intakePacket 1).go = true := by
  unfold comes
  decide +kernel

/-- A START of an open job, and one of a job that runs. -/
theorem witness_PacketsTakeEffect_start : comes (opPacket 2 2 []) ∧ comes (opPacket 2 1 [])
    ∧ startStatus (taking true (opPacket 2 2 [])) 0 (opPacket 2 2 []) = none
    ∧ startStatus (taking true (opPacket 2 1 [])) 0 (opPacket 2 1 []) = some 0x0A := by
  unfold comes
  decide +kernel

/-- A LAYOUT in form, within and past the eight entries of its job, one of a job that does not live, and one out of form. -/
theorem witness_PacketsTakeEffect_layout : comes (layoutPacket 2 4) ∧ comes (layoutPacket 2 5) ∧ comes (opPacket 3 2 [])
    ∧ headerOk (layoutPacket 2 4) [0] false = true ∧ bytesAt (layoutPacket 2 4).bytes 20 4 = 4
    ∧ bytesAt (layoutPacket 2 4).bytes 24 8 % 64 = 0 ∧ zeroBytes (layoutPacket 2 4).bytes 32 64 = true
    ∧ bytesAt (opPacket 3 2 []).bytes 20 4 = 0 ∧ (liveJob (taking true (layoutPacket 2 4)) 2).map (fun j => j.layn) = some 8
    ∧ liveJob (taking true (layoutPacket 3 0)) 3 = none ∧ 4 + 4 ≤ 8 ∧ 8 < 5 + 4 := by
  unfold comes
  decide +kernel

/-- A FORMAT of entry 1, in form and out of form, and one of a job that does not live. -/
theorem witness_PacketsTakeEffect_format : comes (formatPacket 2 0x00090798) ∧ comes (formatPacket 2 1)
    ∧ headerOk (formatPacket 2 1) [0] false = true ∧ bytesAt (formatPacket 2 1).bytes 18 1 = 1
    ∧ bytesAt (formatPacket 2 1).bytes 19 1 = 1 ∧ zeroBytes (formatPacket 2 1).bytes 20 24 = true
    ∧ zeroBytes (formatPacket 2 1).bytes 28 64 = true ∧ formatBad 0x00090798 = false ∧ formatBad 1 = true
    ∧ (liveJob (taking true (formatPacket 2 1)) 2).isSome = true ∧ liveJob (taking true (formatPacket 3 1)) 3 = none := by
  unfold comes
  decide +kernel

/-- A CANCEL of an open job, of one that runs, and of none. -/
theorem witness_PacketsTakeEffect_cancel : comes (cancelPacket 2) ∧ comes (cancelPacket 1) ∧ comes (cancelPacket 9)
    ∧ headerOk (cancelPacket 2) [0x200] false = true ∧ zeroBytes (cancelPacket 2).bytes 18 64 = true
    ∧ (liveJob (taking false (cancelPacket 2)) 2).map (fun j => (j.phase, j.aqi, j.pasid)) = some (.open_, 0, 0)
    ∧ (liveJob (taking false (cancelPacket 1)) 1).map (fun j => (j.phase, j.aqi, j.pasid)) = some (.running, 0, 0)
    ∧ liveJob (taking true (cancelPacket 9)) 9 = none ∧ (cancelPacket 2).pasid = 0 := by
  unfold comes
  decide +kernel

/-- The job of the tests in another phase, on a machine with one subject. -/
def jobIn (o : Subject) (g : Job → Job) : State := { event o with jobs := (event o).jobs.map g }

/-- The same machine with its cores free. -/
def freed (s : State) : State := { s with cores := [], engines := [] }

/-- A job to place on core 0, ordinary or urgent, and a machine with it alone. -/
def waitingJob (u : Bool) : Job := { placedWordJob State.reset 1 with phase := .waiting, urgent := u }
def waitingState (u : Bool) : State := { freed (event (.placement 1 [[[0]]])) with jobs := [waitingJob u] }

theorem witness_JobsLive_placement : ∀ u ∈ [false, true],
    findJob (waitingState u) 1 = some (waitingJob u) ∧ (waitingJob u).phase = .waiting ∧ (waitingJob u).urgent = u
    ∧ (waitingState u).mgmt.state = .operational ∧ let b := placedBudget (waitingState u) (waitingJob u)
    planFits (planOf b [[[0]]]) = true ∧ (∀ k ∈ (waitingState u).jobs, placedBefore k b = false)
    ∧ planFree (waitingState u) b (planOf b [[[0]]]) = true ∧ urgentFree (waitingState u) b (planOf b [[[0]]]) = true := by
  decide +kernel

/-- Firmware marks units of a core that is bound. -/
theorem witness_JobsLive_units : (event (.units 0 6)).mgmt.state = .operational ∧ isCore 0 = true
    ∧ ∃ c ∈ (event (.units 0 6)).cores, c.pcid = 0 := by decide +kernel

/-- A retiring job that is quiet, a hang with and without a supervisor, a drained job, and one to resume on core 5. -/
theorem witness_JobsLive :
    let o : Subject := .job 1
    let retiring := jobIn o (fun j => { j with phase := .retiring (some 0) })
    let hung := { jobIn o (fun j => { j with hangk := 9, progress := 0 }) with clk := 512 }
    let slot := windowBase + 0x1000
    let told := { jobIn o (fun j => { j with hangk := 9, progress := 0, supv := slot }) with clk := 512 }
    let suspending := jobIn o (fun j => { j with phase := .suspending 0x400000 })
    let image : Image := { jid := 1, addr := 0x400000, cores := [], fronds := [], ls := [], empties := [], fmts := []
                           engines := [], sems := [], job := none, flights := [], phases := [], copyqs := [], catalogue := []
                           binds := [], directory := [] }
    let old : Job := { placedWordJob State.reset 1 with snapshot := [5] }
    let early := { image with addr := 0x800000, job := some old }
    let resuming := { freed (jobIn o (fun j => { j with phase := .resuming 0x400000 })) with images := [image] }
    let back := rollBack { resuming with images := [early, image] } early
    (findJob retiring 1).map (fun j => (j.phase, jobQuiet retiring j)) = some (.retiring (some 0), true)
    ∧ (findJob hung 1).map (fun j => (hangDue hung j, supervisorSlot hung 1 j.supv)) = some (true, none)
    ∧ (findJob told 1).map (fun j => (hangDue told j, supervisorSlot told 1 j.supv)) = some (true, some slot)
    ∧ (findJob suspending 1).map (fun j => (j.phase, drained suspending j)) = some (.suspending 0x400000, true)
    ∧ paExists 0x400000 = true ∧ (findJob resuming 1).map (fun j => j.phase) = some (.resuming 0x400000)
    ∧ imageAt resuming 1 0x400000 = some image ∧ isLatest resuming image = true
    ∧ imageAt { resuming with images := [early, image] } 1 0x800000 = some early
    ∧ isLatest { resuming with images := [early, image] } early = false ∧ early.job = some old ∧ old.jid = 1
    ∧ (findJob back 1).map (fun k => (k.snapshot, tableReads back 0x800000 k.cores.length,
      coresFree back k early (imageCores back 0x800000 k.cores.length),
      (restoreRuns k.cores (imageCores back 0x800000 k.cores.length) early.sems back).isSome)) = some ([5], true, true, true)
    ∧ tableReads resuming 0x400000 1 = true
    ∧ (findJob resuming 1).map (fun j => coresFree resuming j image (imageCores resuming 0x400000 j.cores.length)) = some true
    ∧ (restoreRuns [0] (imageCores resuming 0x400000 1) image.sems resuming).isSome = true := by decide +kernel

/-- A checkpoint image of a job of a failed package, whose names are new here. -/
theorem witness_JobsLive_spare :
    let j : Job := { placedWordJob State.reset 1 with jid := 7, phase := .running }
    let img : Image := { jid := 7, addr := 0x400000, cores := [], fronds := [], ls := [], empties := [], fmts := []
                         engines := [], sems := [], job := some j, flights := [], phases := [], copyqs := [], catalogue := []
                         binds := [], directory := [] }
    (event (.spare img)).subject = .spare img ∧ mayTakeOver (event (.spare img)) img = true ∧ img.job = some j := by decide +kernel

/-- A notify page of an interface that is disabled, has room, and has none; its status block; a posted write; a revocation;
a register of each block; and a read and a write of device memory at the end of a granule. -/
theorem witness_HostRequests :
    let entry : PasidEntry := { root := 0x10000, valid := true, nest := false, pasid := 0 }
    let on := fun (a : Aqi) => { a with en := true, pasids := a.pasids.set 0 entry }
    let s := fun (o : Subject) (g : Aqi → Aqi) => { event o with aqis := (event o).aqis.modify 0 g }
    let a := on (Aqi.reset 0)
    let full := { a with ordinary := List.replicate 32 (packet 1) }
    let data := List.replicate 64 (0 : Byte)
    let o : Subject := .notify 0 0 64 false (some 0) data
    let access := fun (write : Bool) => event (.hostAccess write (0x100000000000 + 60) 4 [1, 2, 3, 4])
    (event o).mgmt.dark = false ∧ (event o).aqis[0]? = some (Aqi.reset 0) ∧ (Aqi.reset 0).n = 0 ∧ (Aqi.reset 0).en = false
    ∧ (s o on).aqis[0]? = some a ∧ a.en = true ∧ pasidEntry a 0 = some 0 ∧ data.length = 64 ∧ a.ordinary.length < 32
    ∧ 32 ≤ full.ordinary.length ∧ pasidEntry full 0 = some 0 ∧ a.ahead.length < 4
    ∧ (revokes a 0x100 0).isSome = true
    ∧ inHdm (access true) (0x100000000000 + 60) = true ∧ (0x100000000000 + 60) / 64 = (0x100000000000 + 60 + 4 - 1) / 64
    ∧ poisoned (access true) (hdmPa (access true) (0x100000000000 + 60)) = false ∧ mapWf 0 (access true).hbm
    ∧ inHdm (access true) 0x10000 = false ∧ inHdm (access true) 0xFFFFFFFFFFFF = false := by
  decide +kernel

/-- A bring-up that succeeds and one that each check ends; power, a detector, a stack and a port at the end of their ranges. -/
theorem witness_PartAndMailbox :
    let b : BringUp := { fuseOk := true, linkOk := true, bistOk := true, stacksOk := true, dieLinksOk := true
                         portsDown := [], enginesFailed := [] }
    (∀ x ∈ [b, { b with fuseOk := false }, { b with linkOk := false }, { b with bistOk := false }, { b with stacksOk := false },
      { b with dieLinksOk := false }, { b with portsDown := [(8, 15)] }], bringUpOk x = true)
    ∧ (event (.watts 65535)).mgmt.dark = false ∧ 65535 < 65536 ∧ (event .none).fusedOff = []
    ∧ (2 < 3 ∧ 23 < 24 ∧ 23 ∉ (event .none).refresh ∧ 8 < 9 ∧ 15 < 16 ∧ (8, 15) ∉ (event .none).portsDown)
    ∧ failedReplays (setReplays (event .none) 8 15 7) 8 15 < 8 ∧ failedReplays (setReplays (event (.narel 8 15)) 8 15 8) 8 15 = 8
    ∧ localPa (event (.granule 0x400040)) 0x400040 = true
    ∧ isCore ((3 * 2 ^ 20 + 0x5FFC0) / 2 ^ 20) = true ∧ (3 * 2 ^ 20 + 0x5FFC0) % 2 ^ 20 < 0x60000 := by
  decide +kernel

/-- A command in performance, by its code, its three operands, and a byte of its header that must be 0. -/
def command (code x y z bad : Nat) : State :=
  let s := event .none
  { s with mgmt := { s.mgmt with
      busy := true, cmd := natBytes 64 (fields [(code, 0), (bad, 8), (x, 64), (y, 128), (z, 192)]) } }

/-- A command whose subject is no granule. -/
theorem witness_PartAndMailbox_subject :
    ∀ a, (command 7 0x400000 0 0 0).subject ≠ .granule a ∧ (command 7 0x400000 0 0 0).subject ≠ .lsGranule a :=
  fun _ => ⟨nofun, nofun⟩

/-- Each command, in form and out of form, with operands at the ends of their ranges; whether a firmware image is accepted
rests on the key in the fuses, an opaque constant of Config. -/
theorem witness_PartAndMailbox_commands :
    let fault : Walk := { id := 60, die := 0, jid := 1, va := 0x200000, write := false, fault := some 0, fill := none, due := 900 }
    let xlans := { command 6 1 0x200000 1 0 with walks := [fault] }
    (∀ c ∈ [0, 1, 2, 3, 4, 5, 6, 7, 8, 9, 10], (command c 0 0 0 0).mgmt.dark = false ∧ (command c 0 0 0 0).mgmt.busy = true
      ∧ (command c 0 0 0 0).mgmt.answer = none ∧ cmdCode (command c 0 0 0 0) = c
      ∧ earlyStatus (command c 0 0 0 0) = none ∧ earlyStatus (command c 0 0 0 1) = some 1
      ∧ (command c 0 0 0 0).mgmt.state ≠ .safe)
    ∧ (command 2 0 0 0 0).mgmt.erased = false ∧ 6 ≤ (command 2 0 0 0 0).mgmt.step ∧ Mgmt.reset.step < 6
    ∧ (∀ j ∈ { command 2 0 0 0 0 with jobs := [] }.jobs, j.live = false) ∧ (∃ j ∈ (command 2 0 0 0 0).jobs, j.live = true)
    ∧ readHostBytes (command 2 0 1 0 0) 0 1 = some [0] ∧ imageOk [0] = false
    ∧ (command 4 2047 0 0 0).mgmt.placedAny = false ∧ cmdOp (command 4 2047 0 0 0) 0 ≤ 2047 ∧ 2047 < cmdOp (command 4 2048 0 0 0) 0
    ∧ (command 5 1 (2 ^ 56 - 1) 0 0).mgmt.inval = none ∧ cmdOp (command 5 1 (2 ^ 56 - 1) 0 0) 1 < 2 ^ 56
    ∧ (liveJob (command 5 1 (2 ^ 56 - 1) 0 0) 1).isSome = true ∧ 2 ^ 56 ≤ cmdOp (command 5 1 (2 ^ 56) 0 0) 1
    ∧ cmdOp xlans 2 ≤ 1 ∧ faultedWalks xlans 1 0x200000 = [fault] ∧ faultedWalks (command 6 1 0x200000 1 0) 1 0x200000 = []
    ∧ localPa (command 7 0x400000 0 0 0) 0x400000 = true ∧ cmdOp (command 8 23 65535 0 0) 0 < 24
    ∧ cmdOp (command 8 23 65535 0 0) 1 < 65536 ∧ mapWf 0 (command 9 0x400000 0 0 0).counters := by decide +kernel

/-- A subject of each kind, and a state in which its event completes: the ends of the ranges, the packets of each OP, and
commands with an operand at its bound. The states of jobs and swaps are those of the witnesses above. -/
theorem witness_EventsComplete :
    let b : BringUp := { fuseOk := true, linkOk := true, bistOk := true, stacksOk := true, dieLinksOk := true
                         portsDown := [(8, 15)], enginesFailed := [1151] }
    let c := command 4 2047 0 0 0
    let done := { c with mgmt := { c.mgmt with answer := some [] } }
    bringUpOk b = true ∧ (event (.narel 8 15)).mgmt.dark = false ∧ (8, 15) ∉ (event (.narel 8 15)).portsDown
    ∧ failedReplays (event (.replay 8 15 true)) 8 15 < 8 ∧ failedReplays (setReplays (event (.narel 8 15)) 8 15 8) 8 15 = 8
    ∧ (event (.register (.aqi 7) 0 1)).aqis[7]? = some (Aqi.reset 7)
    ∧ c.mgmt.busy = true ∧ c.mgmt.answer = none ∧ earlyStatus c = none ∧ c.mgmt.placedAny = false ∧ cmdOp c 0 < 2048
    ∧ done.mgmt.busy = true ∧ done.mgmt.answer = some []
    ∧ recordOwed (taking true (opPacket 2 2 [])) 0 = false
    ∧ inHdm (event .none) 60 = false ∧ 60 / 64 = (60 + 4 - 1) / 64
    ∧ intakeOutcome (intakePacket 1) = 0 ∧ startStatus (taking true (opPacket 2 2 [])) 0 (opPacket 2 2 []) = none
    ∧ (cancelPacket 1).op = 5 ∧ (layoutPacket 2 4).op = 3 ∧ (formatPacket 2 1).op = 4 := by decide +kernel


/-! ## Single steps

Each theorem runs one word on a small state; the expected result is an example or a table of the rule named, or is worked
out by hand from it. -/

/-- What general register 3 and the flags are after a word that reads `x` in `g1`, `y` in `g2` and `z` in `g3`. -/
def gives3 (i : Instr) (x y z : Word) : Option (Word × BitVec 7) := regFlags (exec i (at_ (frond [0, x, y, z]))) 3

/-- R138: a narrow sum is sign-extended, and no overflow sets a flag. -/
theorem test_add : gives3 (.add p true 3 1 (.fld 2)) 0x7FFFFFFF 1 0 = some (0xFFFFFFFF80000000, 0)
    ∧ gives3 (.add p false 3 1 (.wide 0xFFFFFFFF)) 0 0 0 = some (-1, 0) := by decide +kernel

theorem test_sub : gives3 (.sub p false 3 1 (.fld 2)) 1 2 0 = some (-1, 0) := by decide +kernel
theorem test_mul : gives3 (.mul p true 3 1 (.fld 2)) 0x10000 0x8000 0 = some (0xFFFFFFFF80000000, 0) := by decide +kernel

/-- R138: the high half, of −1 by 2 as signed and as unsigned. -/
theorem test_mulh : gives3 (.mulh p false 3 1 (.fld 2)) (-1) 2 0 = some (-1, 0)
    ∧ gives3 (.mulhn p false 3 1 (.fld 2)) (-1) 2 0 = some (1, 0) := by decide +kernel

/-- R139, R110: DZ is set before D is written, so that a quotient of all ones written to `fst` clears it. -/
theorem test_division_flags : (regFlags (exec (.div p false 0xDC 1 (.fld 2)) (at_ (frond [0, 42, 0]))) 3).map (·.2) = some 0 := by
  decide +kernel

/-- The table of R139, row by row. -/
theorem test_division : gives3 (.div p false 3 1 (.fld 2)) (-7) 2 0 = some (-3, 0)
    ∧ gives3 (.rem p false 3 1 (.fld 2)) (-7) 2 0 = some (-1, 0)
    ∧ gives3 (.divn p false 3 1 (.fld 2)) 0xFFFFFFFFFFFFFFF9 2 0 = some (0x7FFFFFFFFFFFFFFC, 0)
    ∧ gives3 (.remn p false 3 1 (.fld 2)) 0xFFFFFFFFFFFFFFF9 2 0 = some (1, 0)
    ∧ gives3 (.div p false 3 1 (.fld 2)) 42 0 0 = some (0xFFFFFFFFFFFFFFFF, flagDZ)
    ∧ gives3 (.remn p false 3 1 (.fld 2)) 42 0 0 = some (42, flagDZ)
    ∧ gives3 (.div p true 3 1 (.fld 2)) 0x80000000 (-1) 0 = some (0xFFFFFFFF80000000, 0)
    ∧ gives3 (.rem p true 3 1 (.fld 2)) 0x80000000 (-1) 0 = some (0, 0)
    ∧ gives3 (.divn p true 3 1 (.fld 2)) 5 0x100000000 0 = some (0xFFFFFFFFFFFFFFFF, flagDZ) := by decide +kernel

/-- R138: the bitwise words, on 0b1100 and 0b1010. -/
theorem test_bitwise : gives3 (.and p false 3 1 (.fld 2)) 12 10 0 = some (8, 0)
    ∧ gives3 (.or p false 3 1 (.fld 2)) 12 10 0 = some (14, 0) ∧ gives3 (.xor p false 3 1 (.fld 2)) 12 10 0 = some (6, 0)
    ∧ gives3 (.andn p false 3 1 (.fld 2)) 12 10 0 = some (4, 0)
    ∧ gives3 (.orn p false 3 1 (.fld 2)) 12 10 0 = some (-3, 0) := by decide +kernel

/-- R138: a shift by N + 1 is a shift by 1. -/
theorem test_shifts : gives3 (.shl p false 3 1 (.fld 2)) 3 65 0 = some (6, 0)
    ∧ gives3 (.shr p true 3 1 (.fld 2)) 0x80000000 33 0 = some (0x40000000, 0)
    ∧ gives3 (.sar p true 3 1 (.fld 2)) 0x80000000 33 0 = some (0xFFFFFFFFC0000000, 0)
    ∧ gives3 (.rol p false 3 1 (.fld 2)) 0x8000000000000001 65 0 = some (3, 0) := by decide +kernel

/-- R138: −1 is the least signed value here and the greatest unsigned one. -/
theorem test_minmax : gives3 (.min p false 3 1 (.fld 2)) (-1) 1 0 = some (-1, 0)
    ∧ gives3 (.max p false 3 1 (.fld 2)) (-1) 1 0 = some (1, 0) ∧ gives3 (.minn p false 3 1 (.fld 2)) (-1) 1 0 = some (1, 0)
    ∧ gives3 (.maxn p false 3 1 (.fld 2)) (-1) 1 0 = some (-1, 0) := by decide +kernel

/-- R140, with its example of `bswap.w`. -/
theorem test_one_operand : gives3 (.clz p true 3 1) 0 0 0 = some (32, 0) ∧ gives3 (.ctz p false 3 1) 0x50 0 0 = some (4, 0)
    ∧ gives3 (.popc p true 3 1) (-1) 0 0 = some (32, 0) ∧ gives3 (.brev p false 3 1) 1 0 0 = some (0x8000000000000000, 0)
    ∧ gives3 (.bswap p true 3 1) 0x112233448899AABB 0 0 = some (0xFFFFFFFFBBAA9988, 0) := by decide +kernel

/-- R141: the example of `bfx`, and a field of 4 bits at 8 inserted. -/
theorem test_fields : gives3 (.bfx p true 3 1 60 3) 0x9000000000000000 0 0 = some (-7, 0)
    ∧ gives3 (.bfi p 3 1 8 3) 0xFA 0 0xFFFF = some (0xFAFF, 0) := by decide +kernel

/-- R142: `q0` is true, so that `sel` takes A, and B when it is inverted; `mad` reads its old destination. -/
theorem test_moves : gives3 (.sel p 3 1 (.fld 2) 0 false) 5 7 0 = some (5, 0)
    ∧ gives3 (.sel p 3 1 (.fld 2) 0 true) 5 7 0 = some (7, 0) ∧ gives3 (.mov p true 3 1) 0x180000000 0 0 = some (0xFFFFFFFF80000000, 0)
    ∧ gives3 (.sext p 0 3 1) 0x80 0 0 = some (-128, 0) ∧ gives3 (.zext p 1 3 1) (-1) 0 0 = some (0xFFFF, 0)
    ∧ gives3 (.lea p 3 1 2 3 0xFFFFFFFF) 100 2 0 = some (115, 0) ∧ gives3 (.mad p false 3 1 (.fld 2)) 5 7 100 = some (135, 0) := by
  decide +kernel

/-- R143: IMM60 is sign-extended, and `lpc` adds it to the PC of the word itself. -/
theorem test_immediates : gives3 (.li p 3 0x800000000000000) 0 0 0 = some (0xF800000000000000, 0)
    ∧ gives3 (.lpc p 3 0xFFFFFFFFFFFFFF4) 0 0 0 = some (0xFF4, 0) := by decide +kernel

/-- R145, R146: a comparison at 8 bits, signed and unsigned, and a test for no common bit. -/
theorem test_compare : predOf (exec (.cmp p 0xB1 1 (.fld 2) 0 2 0) (at_ (frond [0, 0x1FF, 1]))) 1 = some true
    ∧ predOf (exec (.cmp p 0xB1 1 (.fld 2) 4 2 0) (at_ (frond [0, 0x1FF, 1]))) 1 = some false
    ∧ predOf (exec (.tst p 0xB1 1 (.fld 2) true 0) (at_ (frond [0, 2, 1]))) 1 = some true := by decide +kernel

/-- R147, R148: the examples of `pnot` and `por`, and a value of all predicates of which bit 0 is ignored. -/
theorem test_predicates : predOf (exec (.pnot p 0xB4 0xB0) (at_ { frond [] with preds := 0x10 })) 4 = some false
    ∧ predOf (exec (.por p 0xB4 0xB0 0xB0 false false) (at_ (frond []))) 4 = some true
    ∧ predOf (exec (.pand p 0xB4 0xB0 0xB1 false true) (at_ (frond []))) 4 = some true
    ∧ predOf (exec (.pxor p 0xB4 0xB0 0xB0 false false) (at_ (frond []))) 4 = some false
    ∧ (frondOf (exec (.pset p 1) (at_ (frond [0, 0x10006])))).map (fun f => f.preds.toNat / 2) = some 3
    ∧ reg (exec (.pget p 1) (at_ { frond [] with preds := 6 })) 1 = some 7 := by decide +kernel

/-- R150: a branch of −3 words, a call, and a jump to a misaligned target. -/
theorem test_transfers : pcOf (exec (.br p 0xFFFFFFFD) (at_ (frond []))) = some 0xFDC
    ∧ regFlags (exec (.call p 3 2) (at_ (frond []))) 3 = some (0x100C, 0) ∧ pcOf (exec (.call p 3 2) (at_ (frond []))) = some 0x1018
    ∧ pcOf (exec (.callr p 1 1) (at_ (frond [0, 0x2000]))) = some 0x2000
    ∧ reg (exec (.callr p 1 1) (at_ (frond [0, 0x2000]))) 1 = some 0x100C
    ∧ pcOf (exec (.jmp p 1) (at_ (frond [0, 0x2000]))) = some 0x2000
    ∧ trapOf (exec (.jmp p 1) (at_ (frond [0, 0x2002]))) = some (0x1000, BitVec.ofNat 64 causeALIGN, 0x2002) := by decide +kernel

/-- R152, R153: a count of 0 passes over the body; the last word of a pass goes back; `lexit` leaves the level. -/
theorem test_loops : pcOf (exec (.loop p 1 9 3) (at_ (frond []))) = some 0x1030
    ∧ (frondOf (exec (.loop p 1 9 3) (at_ (frond [0, 4])))).map (fun f => (f.pc, f.loops.map (fun l => (l.start, l.count, l.pass))))
        = some (0x100C, [(0x100C, 4, 1)])
    ∧ (frondOf (exec (.nop p) (at_ { frond [] with loops := [level 0xFF4 2 4 1 9 false] }))).map (fun f =>
        (f.pc, f.loops.map (fun l => l.pass))) = some (0xFF4, [2])
    ∧ (frondOf (exec (.nop p) (at_ { frond [] with loops := [level 0xFF4 2 4 4 9 false] }))).map (fun f => (f.pc, f.loops))
        = some (0x100C, []) := by decide +kernel

/-- R194, R191: 1.5 + 2.25; 1 / 3 to nearest and down; √2; 1 / −0; and 0 × ∞. -/
theorem test_float : gives3 (.fadd p 0 3 1 (.fld 2)) 0x3FC00000 0x40100000 0 = some (0x40700000, 0)
    ∧ gives3 (.fdiv p 0 3 1 (.fld 2)) 0x3F800000 0x40400000 0 = some (0x3EAAAAAB, flagFNX)
    ∧ gives3 (.fdiv p 3 3 1 (.fld 2)) 0x3F800000 0x40400000 0 = some (0x3EAAAAAA, flagFNX)
    ∧ gives3 (.fsqrt p 0 3 1) 0x40000000 0 0 = some (0x3FB504F3, flagFNX)
    ∧ gives3 (.frcp p 0 3 1) 0x80000000 0 0 = some (0xFF800000, flagFDZ)
    ∧ (gives3 (.fmul p 0 3 1 (.fld 2)) 0 0x7F800000 0).map (fun r => r.2) = some flagFNV := by decide +kernel

/-- R192, R194: an integer constant is a bit pattern, and a fused sum rounds once. -/
theorem test_float_more : gives3 (.fadd p 0 3 1 (.wide 1)) 0 0 0 = some (1, 0)
    ∧ gives3 (.ffma p 0 3 1 1 2) 0x3F800001 0xBF800002 0 = some (0x28800000, 0)
    ∧ gives3 (.fsub p 0 3 1 (.fld 1)) 0x3F800000 0 0 = some (0, 0)
    ∧ gives3 (.fmin p false 3 1 (.fld 2)) 0x80000000 0 0 = some (0x80000000, 0)
    ∧ gives3 (.fmax p false 3 1 (.fld 2)) 0x7FC00000 0x3F800000 0 = some (0x3F800000, 0) := by decide +kernel

/-- R196: a quiet NaN is unordered, and only an ordering comparison sets FNV for it. -/
theorem test_fcmp : predOf (exec (.fcmp p 0xB1 1 (.fld 2) 6 0) (at_ (frond [0, 0x7FC00000, 0]))) 1 = some true
    ∧ predOf (exec (.fcmp p 0xB1 1 (.fld 2) 0 0) (at_ (frond [0, 0x80000000, 0]))) 1 = some true
    ∧ (frondOf (exec (.fcmp p 0xB1 1 (.fld 2) 2 0) (at_ (frond [0, 0x7FC00000, 0])))).map (fun f => f.flags) = some flagFNV
    ∧ (frondOf (exec (.fcmp p 0xB1 1 (.fld 2) 0 0) (at_ (frond [0, 0x7FC00000, 0])))).map (fun f => f.flags) = some 0 := by
  decide +kernel

/-- A conversion of `x` from binary32 to format 1, whose entry is `e`, in mode `rnd`. -/
def toCode (e : BitVec 32) (rnd : BitVec 3) (x : Word) : Option (Word × BitVec 7) :=
  regFlags (exec (.fcvt p rnd 3 1 0x08 0x11 false 0) (withFormat (at_ (frond [0, x])) e)) 3

/-- The table of conversions to `e4m3` after R178, row by row, with SAT = 1 and SAT = 0. -/
theorem test_to_e4m3 : toCode 0x002D0798 0 0x43E80000 = some (0x7E, flagFNX) ∧ toCode 0x00290798 0 0x43E80000 = some (0x7E, flagFNX)
    ∧ toCode 0x002D0798 0 0x43E88000 = some (0x7E, flagFOF ||| flagFNX) ∧ toCode 0x00290798 0 0x43E88000 = some (0x7F, flagFOF ||| flagFNX)
    ∧ toCode 0x002D0798 0 0xC3E88000 = some (0xFE, flagFOF ||| flagFNX) ∧ toCode 0x00290798 0 0xC3E88000 = some (0xFF, flagFOF ||| flagFNX)
    ∧ toCode 0x002D0798 1 0x43E88000 = some (0x7E, flagFNX) ∧ toCode 0x00290798 1 0x43E88000 = some (0x7E, flagFNX)
    ∧ toCode 0x002D0798 0 0x7F800000 = some (0x7E, 0) ∧ toCode 0x00290798 0 0x7F800000 = some (0x7F, 0)
    ∧ toCode 0x002D0798 0 0x7FC00000 = some (0x7F, 0) ∧ toCode 0x00290798 0 0x7FC00000 = some (0x7F, 0)
    ∧ toCode 0x00290798 0 0x3A83126F = some (0x01, flagFUF ||| flagFNX) ∧ toCode 0x00210798 0 0x3A83126F = some (0x00, flagFUF ||| flagFNX)
    ∧ toCode 0x00290798 0 0x80000000 = some (0x80, 0) := by decide +kernel

/-- A conversion to binary32 of a code of format 1, whose entry is `e`. -/
def fromCode (e : BitVec 32) (x : Word) : Option Word :=
  reg (exec (.fcvt p 0 3 1 0x11 0x08 false 0) (withFormat (at_ (frond [0, x])) e)) 3

/-- The table of presets of R168: least subnormal, least normal, 1.0 and max of `e4m3`, and `int8`. -/
theorem test_from_code : fromCode 0x00290798 0x01 = some 0x3B000000 ∧ fromCode 0x00290798 0x08 = some 0x3C800000
    ∧ fromCode 0x00290798 0x38 = some 0x3F800000 ∧ fromCode 0x00290798 0x7E = some 0x43E00000
    ∧ fromCode 0x00200618 0x40 = some 0x3F800000 ∧ fromCode 0x00200618 0x80 = some 0xC0000000
    ∧ fromCode 0x000E0266 0x37 = some 0x41F00000 ∧ fromCode 0x000E0266 0x38 = some 0x7F800000 := by decide +kernel

/-- A frond with the lanes of `v1` and `v2` (`g8` to `g23`), each from its index. -/
def lanes (a b : Nat → Nat) : Frond :=
  let pair := fun (x : Nat → Nat) (k : Nat) => BitVec.ofNat 64 (x (2 * k) + 2 ^ 32 * x (2 * k + 1))
  frond (List.replicate 8 0 ++ (List.range 8).map (pair a) ++ (List.range 8).map (pair b))

/-- Lane `l` of `v3` after a vector word. -/
def lane3 (i : Instr) (a b : Nat → Nat) (l : Nat) : Option (BitVec 32) := laneOf (exec i (at_ (lanes a b))) 3 l

/-- R201, R202: each lane by itself. -/
theorem test_vector : lane3 (.vadd p 0x83 0x81 (.fld 0x82)) (fun l => l) (fun _ => 0xFFFFFFFF) 0 = some 0xFFFFFFFF
    ∧ lane3 (.vsar p 0x83 0x81 (.fld 0x82)) (fun _ => 0x80000000) (fun l => l) 15 = some 0xFFFF0000
    ∧ lane3 (.vcmp p true 2 0x83 0x81 (.fld 0x82)) (fun l => l) (fun _ => 3) 2 = some 0xFFFFFFFF
    ∧ lane3 (.vcmp p true 2 0x83 0x81 (.fld 0x82)) (fun l => l) (fun _ => 3) 3 = some 0
    ∧ lane3 (.vperm p 0x83 0x81 0x82) (fun l => 100 + l) (fun l => 16 + 15 - l) 4 = some 111
    ∧ lane3 (.vscan p false 0x83 0x81) (fun l => l + 1) (fun _ => 0) 15 = some 136
    ∧ lane3 (.viota p 0x83 0 (.wide 3)) (fun _ => 0) (fun _ => 0) 5 = some 15 := by decide +kernel

/-- R207, with its two examples of `vfred.add`. -/
theorem test_vfred :
    let f := fun (x : Word) => { lanes (fun l => if l = 0 then 0x4B800000 else 0x3F800000) (fun _ => 0) with
                                  g := (lanes (fun l => if l = 0 then 0x4B800000 else 0x3F800000) (fun _ => 0)).g.set 6 x }
    regFlags (exec (.vfred p 0 0 6 0x81) (at_ (f 0))) 6 = some (0x4B800000, flagFNX)
    ∧ regFlags (exec (.vfred p 0 0 6 0x81) (at_ (f 0x41700000))) 6 = some (0x4B800008, flagFNX) := by decide +kernel

/-- R210, R211, with the two examples of `vfex2`, and 1 / √0. -/
theorem test_vfex2 : lane3 (.vfex2 p 0 0x83 0x81) (fun _ => 0x40400000) (fun _ => 0) 0 = some 0x41000000
    ∧ lane3 (.vfex2 p 0 0x83 0x81) (fun _ => 0xC3150000) (fun _ => 0) 7 = some 1
    ∧ lane3 (.vfrsq p 0 0x83 0x81) (fun _ => 0) (fun _ => 0) 0 = some 0x7F800000 := by decide +kernel

/-- R109: both halves of a P-form word read before either writes. -/
theorem test_pair :
    let f := lanes (fun l => l) (fun l => 10 * l)
    let v : VHalf := { vop := 0x00, vd := 1, va := 1, vb := 2, vc := 0, ty := 0, rm := 0 }
    let o := exec (.addPform p 3 8 24 v) (at_ f)
    laneOf o 1 3 = some 33 ∧ reg o 3 = some 0x100000000 := by decide +kernel

/-- R403, with its example of a record. -/
theorem test_record : natBytes 32 (recordBits
    { status := 0, clamp := true, flt := flagFOF.toNat + flagFNX.toNat, tag := 0x102, jid := 0x42, count := 8, cycles := 90000
      sat := 1, nan := 1 }) = [0x00, 0xA1, 0x02, 0x01, 0x00, 0x00, 0x42, 0x00, 0x08, 0x00, 0x00, 0x00, 0x00, 0x00, 0x90, 0x5F, 0x01,
      0x00, 0x00, 0x00, 0x00, 0x01, 0x00, 0x00, 0x00, 0x00, 0x10, 0x00, 0x00, 0x00, 0x00, 0x00] := by decide +kernel

/-! ### Events, step by step -/

/-- R450, R326: a store of 8 bytes to the local store is performed, little-endian (R4), and its answer sets out. -/
theorem test_store_performed :
    let t := stateOf (exec .storePerformed (flying (oneFlight .store (.ls 0x1000) 0x0102)))
    t.map (fun s => s.ls) = some [(0x1000, 2), (0x1001, 1)] ∧ t.map (fun s => s.flights.map (fun g => g.done.isSome)) = some [true] := by
  decide +kernel

/-- R276: routine 3 stores C only where the word equals B, and returns the old value. -/
theorem test_routines : routineStep [] 3 true 64 7 7 9 = some (some 9, 7) ∧ routineStep [] 3 true 64 8 7 9 = some (none, 8)
    ∧ routineStep [] 1 false 32 0xFFFFFFFF 1 0 = some (some 0xFFFFFFFF, 0xFFFFFFFF)
    ∧ routineStep [] 1 true 32 0xFFFFFFFF 1 0 = some (some 1, 0xFFFFFFFF) ∧ routineStep [] 0 true 32 0xFFFFFFFF 1 0 = some (some 0, 0xFFFFFFFF) := by
  decide +kernel

/-- R249: a signed byte is extended. -/
theorem test_load_extends :
    let g := { answeredFlight (.load 0 false) (.g 9) 0x80 none none with id := 60 }
    let s := { landing g with fronds := [{ frond [] with outs := [{ id := 60, dest := .g 9 }] }] }
    (stateOf (exec .resultLanding s)).map (fun t => t.fronds.map (fun f => (f.reg 9, f.outs))) = some [(0xFFFFFFFFFFFFFF80, [])] := by
  decide +kernel

/-- R345: `lde` takes the word and leaves it empty. -/
theorem test_lde :
    let s := { event .none with ls := [(0x1000, 9)] }
    (syncStep s .lde 0 none 0x1000).map (fun r => (r.1, r.2.empties)) = some (9, [0x200])
    ∧ (syncStep { s with empties := [0x200] } .lde 0 none 0x1000).isNone = true
    ∧ (syncStep { s with empties := [0x200] } .stf 5 none 0x1000).map (fun r => (r.2.ls, r.2.empties)) = some ([(0x1000, 5)], []) := by
  decide +kernel

/-- R355: an addition that brings a posted barrier word to 0 moves its phase on. -/
theorem test_barrier : barrierAdd (barrierAdd 0 (-2) true) 2 false = 1 * 2 ^ 48
    ∧ barrierAdd (barrierAdd 0 (-2) true) 1 false = (2 ^ 48 - 1) + 2 ^ 63 := by decide +kernel

/-- R75, R76: a range of items 4 to 5 leaves item 5 behind, and its frond starts with `g0` and `ix` = 4. -/
theorem test_frond_start : (stateOf (exec .frondStart (deques (event (.bank 0 false)) 0 2 4 6))).map (fun t =>
    (t.fronds.map (fun f => (f.reg 0, f.ix, f.pc)), (sporeAt t (getCore t 0) 0).a0)) = some ([(4, 4, 0x1000)], 5) := by
  decide +kernel

/-- R80, R418: a thief takes the upper half of a range of 4 to 7, which its reply brings to it. -/
theorem test_steal :
    let s := updCore (updCore (deques (event (.core 0)) 1 2 4 8) 0 (fun c => { c with steal := .swapping 0 [] 1 0 0 1000 })) 1
      (fun c => { c with placedAt := some 1000 })
    let t := (stateOf (exec .stealCas s)).bind (fun t => stolenLands { t with clk := t.clk + 32 } 0)
    t.map (fun t => [(getCore t 0), (getCore t 1)].map (fun c =>
      let x := sporeAt t c c.top
      (x.a0, x.a1))) = some [(6, 8), (4, 6)] := by decide +kernel

/-- R81: while the owner may take an entry in the same cycle, a thief's compare-and-swap waits. -/
theorem test_owner_first :
    let s := updCore (deques (event (.core 0)) 1 2 4 8) 0 (fun c => { c with steal := .swapping 0 [] 1 0 0 1000 })
    (stateOf (exec .stealCas s)).isNone = true ∧ (startMain s 1).isSome = true := by decide +kernel

/-- R319: a piece of 8 bytes of a copy out is written to its region before the rest. -/
theorem test_copy_piece :
    let s := { event .none with copies := [oneCopy true []], ls := [(0x1008, 7), (0x1010, 9)] }
    (movePiece s 60 0x80001).map (fun t => (t.hbm, t.copies.map (fun c => c.moved))) = some ([(0x400008, 7)], [[0x80001]]) := by decide +kernel

/-- R441: SHA3-512 of the empty string, as published for FIPS 202, and of 72 zero bytes, which fill its rate (by another
implementation of the standard). -/
theorem test_sha3 :
    bytesNat (sha3 []) = 0x26cd1d2886857501e3d3b6959d1900f558c53a2c40e9e3114cf9f5f13a12b215a6805c47c1dcd1e05958e24f1682c9976e755a18dc67b5c8c59a3aa2cc739fa6
    ∧ bytesNat (sha3 (List.replicate 72 0)) = 0x29cfa72318dfebd45baad98d2c7b6e0e04985b3d2891da569e4bf835843c1d6031183f8b5c6dd8cfefc9f3b9dc909acb86c48a51b547abea672a088add6fd7f8 := by
  decide +kernel

/-- R445: the eighth failed replay of a flit lets its port go down, and one that succeeds ends the count. -/
theorem test_replays :
    let s := fun (x : Subject) (n : Nat) => setReplays (event x) 8 15 n
    (stateOf (exec .narelFlitReplay (s (.replay 8 15 true) 7))).map (fun t => failedReplays t 8 15) = some 8
    ∧ (stateOf (exec .narelFlitReplay (s (.replay 8 15 false) 7))).map (fun t => failedReplays t 8 15) = some 0
    ∧ (stateOf (exec .narelPortDown (s (.narel 8 15) 7))).isNone = true
    ∧ (stateOf (exec .narelPortDown (s (.narel 8 15) 8))).map (fun t => t.portsDown) = some [(8, 15)] := by decide +kernel

/-- R371: a trap enters the handler with the cause, the information and the PC saved. -/
theorem test_handler :
    let f := pendCause (frond []) { code := causeALIGN, info := 3 }
    let s := withHandler { event (.frond 1) with fronds := [f] } 0x2000
    (stateOf (exec .handlerEntry s)).map (fun t => t.fronds.map (fun f => (f.pc, f.epc, f.ecause, f.einfo, f.hnd)))
      = some [(0x2000, 0x1000, BitVec.ofNat 64 causeALIGN, 3, true)] := by decide +kernel

/-- R50: a packet at an interface with room is accepted. -/
theorem test_notify :
    let e : PasidEntry := { root := 0x10000, valid := true, nest := false, pasid := 5 }
    let a := { Aqi.reset 0 with en := true, pasids := (Aqi.reset 0).pasids.set 0 e }
    let s := { event (.notify 0 0 64 false (some 5) (List.replicate 64 0)) with aqis := (event .none).aqis.set 0 a }
    (stateOf (exec .notifyDmwr s)).map (fun t => (t.reply, t.aqis.map (fun a => a.ordinary.length)))
      = some (.accepted, [1, 0, 0, 0, 0, 0, 0, 0]) := by decide +kernel

/-- The first step from a placed `add` runs it. -/
theorem test_step : (stateOf (step (State.reset.withFetchWord 96 0x000000003008080000000000))).map (fun t =>
    t.fronds.map (fun f => (f.pc, f.reg 3))) = some [(0x100C, 0)] := by decide +kernel

end Sys2Proof.Tests
end

section
/-! PROOFS. The value functions of group 0x0 in terms of bit vectors (R136, R138, R139): at a width `n`, each gives the number
of the bit vector that the table of R138 names. -/

namespace Sys2Proof.Machine

/-! ## Numbers and bit vectors -/

theorem signed_toNat {n : Nat} (x : BitVec n) : Nat.signed x.toNat n = x.toInt := by
  have hl : Nat.low x.toNat n = x.toNat := Nat.mod_eq_of_lt x.isLt
  cases n with
  | zero => simp [Nat.signed, BitVec.of_length_zero]
  | succ n =>
    simp only [Nat.signed, hl, BitVec.toInt_eq_toNat_cond, Nat.add_sub_cancel, Nat.pow_succ]
    congr 1
    exact propext (by omega)

theorem wrap_eq_toNat_ofInt (n : Nat) (i : Int) : Int.wrap i n = (BitVec.ofInt n i).toNat := by
  simp [Int.wrap, BitVec.toNat_ofInt]

theorem low_toNat (x : Word) (n : Nat) : Nat.low x.toNat n = (x.setWidth n).toNat := (BitVec.toNat_setWidth n x).symm

/-- A result of `n` bits is written sign-extended (R136). -/
theorem extendTo64_toNat {n : Nat} (r : BitVec n) : extendTo64 n r.toNat = r.signExtend 64 := by
  unfold extendTo64
  rw [signed_toNat]
  rfl

theorem toNat_ofNat_of_le {n k : Nat} (h : k ≤ n) : (BitVec.ofNat n k).toNat = k :=
  (BitVec.toNat_ofNat k n).trans (Nat.mod_eq_of_lt (Nat.lt_of_le_of_lt h n.lt_two_pow_self))

/-! ## The table of R138 -/

section

variable {n : Nat} (x y : BitVec n)

theorem valAdd_toNat : valAdd n x.toNat y.toNat = (x + y).toNat := (BitVec.toNat_add x y).symm

theorem valSub_toNat : valSub n x.toNat y.toNat = (x - y).toNat := by
  unfold valSub
  rw [wrap_eq_toNat_ofInt, Int.sub_eq_add_neg, BitVec.ofInt_add, BitVec.ofInt_neg, BitVec.ofInt_natCast,
    BitVec.ofInt_natCast, BitVec.ofNat_toNat, BitVec.ofNat_toNat, BitVec.setWidth_eq, BitVec.setWidth_eq,
    BitVec.sub_eq_add_neg]

theorem valMul_toNat : valMul n x.toNat y.toNat = (x * y).toNat := (BitVec.toNat_mul x y).symm

/-- The high half of a number of `2 n` bits is the number divided by `2 ^ n`, whichever number of the class is taken. -/
theorem toNat_high_ofInt (z : Int) :
    ((BitVec.ofInt (2 * n) z).extractLsb' n n).toNat = Int.wrap (Int.fdiv z (2 ^ n)) n := by
  have hd : (2 : Int) ^ n ≠ 0 := Int.pow_ne_zero (by decide)
  have hz : z / 2 ^ n = z % 2 ^ (2 * n) / 2 ^ n + z / 2 ^ (2 * n) * 2 ^ n := by
    rw [← Int.add_mul_ediv_right _ _ hd, Int.mul_assoc, ← Int.pow_add, ← Nat.two_mul, Int.emod_add_ediv_mul]
  have hm : 0 ≤ z % 2 ^ (2 * n) := Int.emod_nonneg _ (Int.pow_ne_zero (by decide))
  obtain ⟨m, hm⟩ := Int.eq_ofNat_of_zero_le hm
  rw [BitVec.extractLsb'_toNat, BitVec.toNat_ofInt, Nat.shiftRight_eq_div_pow, Int.wrap,
    Int.fdiv_eq_ediv_of_nonneg _ (Int.pow_nonneg (by decide)), hz, Int.add_mul_emod_self_right, Int.natCast_pow,
    Int.cast_ofNat_Int, hm]
  norm_cast

theorem valMulh_toNat : valMulh n x.toNat y.toNat
    = ((x.signExtend (2 * n) * y.signExtend (2 * n)).extractLsb' n n).toNat := by
  unfold valMulh
  rw [signed_toNat, signed_toNat, ← toNat_high_ofInt, BitVec.ofInt_mul]
  rfl

theorem valMulhn_toNat : valMulhn n x.toNat y.toNat
    = ((x.setWidth (2 * n) * y.setWidth (2 * n)).extractLsb' n n).toNat := by
  have hlt : x.toNat * y.toNat < 2 ^ n * 2 ^ n := Nat.mul_lt_mul'' x.isLt y.isLt
  rw [BitVec.extractLsb'_toNat, BitVec.toNat_mul, BitVec.toNat_setWidth, BitVec.toNat_setWidth,
    ← Nat.mul_mod, Nat.two_mul, Nat.pow_add, Nat.mod_eq_of_lt hlt, Nat.shiftRight_eq_div_pow,
    Nat.mod_eq_of_lt (Nat.div_lt_of_lt_mul hlt)]
  rfl

theorem valAndn_toNat : valAndn n x.toNat y.toNat = (x &&& ~~~y).toNat := by
  rw [BitVec.toNat_and, BitVec.toNat_not]; rfl

theorem valOrn_toNat : valOrn n x.toNat y.toNat = (x ||| ~~~y).toNat := by
  rw [BitVec.toNat_or, BitVec.toNat_not]; rfl

theorem valShl_toNat : valShl n x.toNat y.toNat = (x <<< (y.toNat % n)).toNat := by
  rw [BitVec.toNat_shiftLeft, Nat.shiftLeft_eq]; rfl

theorem valShr_toNat : valShr n x.toNat y.toNat = (x >>> (y.toNat % n)).toNat := by
  rw [BitVec.toNat_ushiftRight, Nat.shiftRight_eq_div_pow]; rfl

theorem valSar_toNat : valSar n x.toNat y.toNat = (x.sshiftRight (y.toNat % n)).toNat := by
  unfold valSar
  rw [signed_toNat, wrap_eq_toNat_ofInt, BitVec.sshiftRight_eq, Int.shiftRight_eq_div_pow,
    Int.fdiv_eq_ediv_of_nonneg _ (Int.pow_nonneg (by decide)), Int.natCast_pow]
  rfl

/-- The two parts of a rotated number have no bit in common, so their sum is their union. -/
theorem valRol_toNat (hn : 0 < n) : valRol n x.toNat y.toNat = (x.rotateLeft (y.toNat % n)).toNat := by
  have hk : y.toNat % n < n := Nat.mod_lt _ hn
  unfold valRol
  generalize y.toNat % n = k at hk
  have hsplit : 2 ^ n = 2 ^ (n - k) * 2 ^ k := by rw [← Nat.pow_add, Nat.sub_add_cancel (Nat.le_of_lt hk)]
  have hhigh : x.toNat / 2 ^ (n - k) < 2 ^ k := Nat.div_lt_of_lt_mul (hsplit ▸ x.isLt)
  have hlow : x.toNat * 2 ^ k % 2 ^ n = (x.toNat % 2 ^ (n - k)) <<< k := by
    rw [hsplit, Nat.mul_mod_mul_right, Nat.shiftLeft_eq]
  rw [BitVec.toNat_rotateLeft, Nat.mod_eq_of_lt hk, Nat.shiftLeft_eq, Nat.shiftRight_eq_div_pow, hlow,
    Nat.shiftLeft_add_eq_or_of_lt hhigh]

theorem valMin_toNat : valMin n x.toNat y.toNat = (if x.sle y then x else y).toNat := by
  simp only [valMin, signed_toNat, BitVec.sle_iff_toInt_le, apply_ite BitVec.toNat]

theorem valMax_toNat : valMax n x.toNat y.toNat = (if x.sle y then y else x).toNat := by
  simp only [valMax, signed_toNat, BitVec.sle_iff_toInt_le, apply_ite BitVec.toNat]

theorem valMinn_toNat : valMinn n x.toNat y.toNat = (if x.ule y then x else y).toNat := by
  simp only [valMinn, BitVec.ule_iff_toNat_le, apply_ite BitVec.toNat]

theorem valMaxn_toNat : valMaxn n x.toNat y.toNat = (if x.ule y then y else x).toNat := by
  simp only [valMaxn, BitVec.ule_iff_toNat_le, apply_ite BitVec.toNat]

end

/-! ## The divisions of R139 -/

section

variable {n : Nat} (x y : BitVec n) (sg : Bool)

theorem divide_by_zero : divide n x.toNat (0#n).toNat sg = ((BitVec.allOnes n).toNat, x.toNat, flagDZ) := by
  simp [divide, BitVec.toNat_allOnes]

variable {y}

theorem toNat_ne_zero (hy : y ≠ 0) : y.toNat ≠ 0 := fun h => hy (BitVec.eq_of_toNat_eq (by simpa using h))

theorem divide_unsigned (hy : y ≠ 0) : divide n x.toNat y.toNat false
    = ((BitVec.ofNat n (x.toNat / y.toNat)).toNat, (BitVec.ofNat n (x.toNat % y.toNat)).toNat, 0) := by
  have hq : x.toNat / y.toNat < 2 ^ n := Nat.lt_of_le_of_lt (Nat.div_le_self _ _) x.isLt
  have hr : x.toNat % y.toNat < 2 ^ n := Nat.lt_of_le_of_lt (Nat.mod_le _ _) x.isLt
  rw [BitVec.toNat_ofNat, BitVec.toNat_ofNat, Nat.mod_eq_of_lt hq, Nat.mod_eq_of_lt hr, divide,
    if_neg (toNat_ne_zero hy)]
  rfl

theorem divide_signed (hy : y ≠ 0) : divide n x.toNat y.toNat true
    = ((BitVec.ofInt n (x.toInt.tdiv y.toInt)).toNat,
        (BitVec.ofInt n (x.toInt - x.toInt.tdiv y.toInt * y.toInt)).toNat, 0) := by
  rw [divide, if_neg (toNat_ne_zero hy), if_pos rfl, signed_toNat, signed_toNat, wrap_eq_toNat_ofInt,
    wrap_eq_toNat_ofInt, Int.tmod_def, Int.mul_comm]

theorem valDiv_of_divide {n x y q r : Nat} {fl : BitVec 7} (h : divide n x y true = (q, r, fl)) :
    valDiv n x y = (q, fl) := by rw [valDiv, h]

theorem valDivn_of_divide {n x y q r : Nat} {fl : BitVec 7} (h : divide n x y false = (q, r, fl)) :
    valDivn n x y = (q, fl) := by rw [valDivn, h]

theorem valRem_of_divide {n x y q r : Nat} {fl : BitVec 7} (h : divide n x y true = (q, r, fl)) :
    valRem n x y = (r, fl) := by rw [valRem, h]

theorem valRemn_of_divide {n x y q r : Nat} {fl : BitVec 7} (h : divide n x y false = (q, r, fl)) :
    valRemn n x y = (r, fl) := by rw [valRemn, h]

theorem allOnes_ne_zero (hn : 0 < n) : BitVec.allOnes n ≠ 0 := by
  intro h
  have := congrArg BitVec.toInt h
  simp [BitVec.toInt_allOnes, hn] at this

/-- The one quotient that does not fit: its low bits are those of the dividend (R139). -/
theorem ofInt_intMin_tdiv (hn : 0 < n) :
    BitVec.ofInt n ((BitVec.intMin n).toInt.tdiv (BitVec.allOnes n).toInt) = BitVec.intMin n := by
  rw [BitVec.toInt_allOnes, if_pos hn, Int.tdiv_neg, Int.tdiv_one, BitVec.ofInt_neg, BitVec.ofInt_toInt,
    BitVec.neg_intMin]

theorem tdiv_allOnes_remainder (hn : 0 < n) :
    x.toInt - x.toInt.tdiv (BitVec.allOnes n).toInt * (BitVec.allOnes n).toInt = 0 := by
  rw [BitVec.toInt_allOnes, if_pos hn, Int.tdiv_neg, Int.tdiv_one]
  omega

end

end Sys2Proof.Machine
end

section
/-! PROOFS. The words of group 0x0 with two sources (R136, R138, R139). -/

namespace Sys2Proof.Machine

theorem widthOf_pos (w : Bool) : 0 < widthOf w := by cases w <;> decide

section

variable {s : State} {f : Frond} {h : Hints} {w : Bool} {d a : Opnd} {b : SrcB} {va vb : Word}
  (hi : AtIssue s f h) (hd : dstOk f d = true) (ha : srcVal s f a = some va)

include hi hd ha

/-- A word with one source writes the bit vector whose number its value function gives. -/
theorem alu1_writes (val : Nat → Nat → Nat) (r : BitVec (widthOf w))
    (hr : val (widthOf w) (va.setWidth (widthOf w)).toNat = r.toNat) :
    alu1 h w d a val s = completes s f (putDst f d (r.signExtend 64)) h := by
  rw [alu1_ok h w d a val s f va hi hd ha, low_toNat, hr, extendTo64_toNat]

variable (hb : srcValB s f b = some vb)

include hb

/-- A word with two sources sets the flags of its value function, then writes the bit vector whose number that gives. -/
theorem alu2_raises (val : Nat → Nat → Nat → Nat × BitVec 7) (r : BitVec (widthOf w)) (fl : BitVec 7)
    (hr : val (widthOf w) (va.setWidth (widthOf w)).toNat (vb.setWidth (widthOf w)).toNat = (r.toNat, fl)) :
    alu2 h w d a b val s = completes s f (putDst (raiseFlags f fl) d (r.signExtend 64)) h := by
  rw [alu2_ok h w d a b val s f va vb hi hd ha hb, low_toNat, low_toNat, hr, extendTo64_toNat]

theorem alu2_writes (val : Nat → Nat → Nat → Nat × BitVec 7) (r : BitVec (widthOf w))
    (hr : val (widthOf w) (va.setWidth (widthOf w)).toNat (vb.setWidth (widthOf w)).toNat = (r.toNat, 0)) :
    alu2 h w d a b val s = completes s f (putDst f d (r.signExtend 64)) h := by
  rw [alu2_raises hi hd ha hb val r 0 hr, raiseFlags_zero]

theorem alu2_noFlag_writes (val : Nat → Nat → Nat → Nat) (r : BitVec (widthOf w))
    (hr : val (widthOf w) (va.setWidth (widthOf w)).toNat (vb.setWidth (widthOf w)).toNat = r.toNat) :
    alu2 h w d a b (noFlag val) s = completes s f (putDst f d (r.signExtend 64)) h :=
  alu2_writes hi hd ha hb (noFlag val) r (congrArg (·, 0) hr)

end

/-- Settles O1: row by row of R138, the value function of the word gives the bit vector of the table. -/
theorem integerTwoSources : Obligations.IntegerTwoSources := by
  intro s f h w d a b va vb hi hd ha hb n x y writes
  have row := fun val r hr => alu2_noFlag_writes (w := w) hi hd ha hb val r hr
  exact ⟨row valAdd _ (valAdd_toNat x y), row valSub _ (valSub_toNat x y), row valMul _ (valMul_toNat x y),
    row valMulh _ (valMulh_toNat x y), row valMulhn _ (valMulhn_toNat x y),
    row valAnd _ (BitVec.toNat_and x y).symm, row valOr _ (BitVec.toNat_or x y).symm,
    row valXor _ (BitVec.toNat_xor x y).symm, row valAndn _ (valAndn_toNat x y), row valOrn _ (valOrn_toNat x y),
    row valShl _ (valShl_toNat x y), row valShr _ (valShr_toNat x y), row valSar _ (valSar_toNat x y),
    row valRol _ (valRol_toNat x y (widthOf_pos w)), row valMin _ (valMin_toNat x y),
    row valMax _ (valMax_toNat x y), row valMinn _ (valMinn_toNat x y), row valMaxn _ (valMaxn_toNat x y)⟩

/-- Settles O2: the three branches of `divide`, and in the signed one the quotient that overflows. -/
theorem integerDivision : Obligations.IntegerDivision := by
  intro s f h w d a b va vb hi hd ha hb n x y writes byZero
  have row := fun val r hr => alu2_writes (w := w) hi hd ha hb val r hr
  have zrow := fun val r hr => alu2_raises (w := w) hi hd ha hb val r flagDZ hr
  have quotient (hy : y ≠ 0) : exec (.div h w d a b) s = writes (BitVec.ofInt n (x.toInt.tdiv y.toInt)) :=
    row valDiv _ (valDiv_of_divide (divide_signed x hy))
  have remainder (hy : y ≠ 0) :
      exec (.rem h w d a b) s = writes (BitVec.ofInt n (x.toInt - x.toInt.tdiv y.toInt * y.toInt)) :=
    row valRem _ (valRem_of_divide (divide_signed x hy))
  refine ⟨fun hy => ?_, fun hy => ?_, fun hy _ => ⟨quotient hy, remainder hy⟩, fun hx hy => ?_⟩
  · have zero (sg : Bool) : divide n x.toNat y.toNat sg = ((BitVec.allOnes n).toNat, x.toNat, flagDZ) := by
      rw [hy]; exact divide_by_zero x sg
    exact ⟨zrow valDiv _ (valDiv_of_divide (zero true)), zrow valDivn _ (valDivn_of_divide (zero false)),
      zrow valRem _ (valRem_of_divide (zero true)), zrow valRemn _ (valRemn_of_divide (zero false))⟩
  · exact ⟨row valDivn _ (valDivn_of_divide (divide_unsigned x hy)),
      row valRemn _ (valRemn_of_divide (divide_unsigned x hy))⟩
  · have hn : 0 < n := widthOf_pos w
    have hy0 : y ≠ 0 := hy ▸ allOnes_ne_zero hn
    constructor
    · rw [quotient hy0, hx, hy, ofInt_intMin_tdiv hn]
    · rw [remainder hy0, hy, tdiv_allOnes_remainder x hn]
      rfl

end Sys2Proof.Machine
end

section
/-! PROOFS. The words of group 0x0 with one source (R140): counts, and reversals of bits and bytes. -/

namespace Sys2Proof.Machine

/-! ## Counts -/

theorem valClz_le (n x : Nat) : valClz n x ≤ n := by
  unfold valClz
  split <;> omega

/-- Above the highest one bit of `x` there are zero bits alone. -/
theorem testBit_above_valClz {n x i : Nat} (hx : x < 2 ^ n) (hi : n - valClz n x ≤ i) : x.testBit i = false := by
  by_cases h0 : x = 0
  · rw [h0, Nat.zero_testBit]
  · have hl : x.log2 < n := (Nat.log2_lt h0).mpr hx
    rw [valClz, if_neg h0] at hi
    exact Nat.testBit_lt_two_pow ((Nat.log2_lt h0).mp (by omega))

theorem testBit_at_valClz {n x : Nat} (hx : x < 2 ^ n) (hk : valClz n x < n) :
    x.testBit (n - 1 - valClz n x) = true := by
  have h0 : x ≠ 0 := by
    rintro rfl
    simp [valClz] at hk
  have hl : x.log2 < n := (Nat.log2_lt h0).mpr hx
  rw [valClz, if_neg h0, show n - 1 - (n - 1 - x.log2) = x.log2 by omega]
  exact Nat.testBit_log2 h0

theorem trailing_le (k x : Nat) : trailing k x ≤ k := by
  induction k generalizing x with
  | zero => exact Nat.le_refl 0
  | succ k ih =>
    unfold trailing
    split
    · exact Nat.zero_le _
    · exact Nat.succ_le_succ (ih _)

theorem testBit_below_trailing (k x i : Nat) (hi : i < trailing k x) : x.testBit i = false := by
  induction k generalizing x i with
  | zero => cases hi
  | succ k ih =>
    unfold trailing at hi
    split at hi
    · cases hi
    · rename_i hx
      cases i with
      | zero => simpa [Nat.testBit_zero] using hx
      | succ i => rw [Nat.testBit_succ]; exact ih _ _ (by omega)

theorem testBit_at_trailing (k x : Nat) (hk : trailing k x < k) : x.testBit (trailing k x) = true := by
  induction k generalizing x with
  | zero => cases hk
  | succ k ih =>
    unfold trailing at hk ⊢
    split at hk
    · rename_i hx
      rw [if_pos hx, Nat.testBit_zero, hx]; rfl
    · rename_i hx
      rw [if_neg hx, Nat.testBit_succ]
      exact ih _ (by omega)

theorem ones_eq_count (k x : Nat) : ones k x = ((List.range k).filter x.testBit).length := by
  induction k generalizing x with
  | zero => rfl
  | succ k ih =>
    have hs : (x / 2).testBit = x.testBit ∘ Nat.succ := funext fun i => (Nat.testBit_succ x i).symm
    rw [ones, ih, hs, List.range_succ_eq_map, List.filter_cons, List.filter_map, Nat.testBit_zero]
    by_cases hx : x % 2 = 1
    · simp [hx, Nat.add_comm]
    · simp [Nat.mod_two_ne_one.mp hx]

theorem ones_le (k x : Nat) : ones k x ≤ k := by
  rw [ones_eq_count]
  exact Nat.le_trans (List.length_filter_le _ _) (Nat.le_of_eq List.length_range)

/-! ## Reversals -/

/-- The low `k` digits of `x` to the base `b` in reverse order. -/
def reverseDigits (b : Nat) : Nat → Nat → Nat
  | 0, _ => 0
  | k + 1, x => x % b * b ^ k + reverseDigits b k (x / b)

theorem reverseBits_eq (k x : Nat) : reverseBits k x = reverseDigits 2 k x := by
  induction k generalizing x with
  | zero => rfl
  | succ k ih => rw [reverseBits, reverseDigits, ih]

theorem reverseBytes_eq (k x : Nat) : reverseBytes k x = reverseDigits 256 k x := by
  induction k generalizing x with
  | zero => rfl
  | succ k ih => rw [reverseBytes, reverseDigits, ih]

section

variable {b : Nat} (hb : 0 < b)

include hb

theorem reverseDigits_lt (k x : Nat) : reverseDigits b k x < b ^ k := by
  induction k generalizing x with
  | zero => exact Nat.one_pos
  | succ k ih =>
    calc reverseDigits b (k + 1) x = x % b * b ^ k + reverseDigits b k (x / b) := rfl
      _ < x % b * b ^ k + b ^ k := Nat.add_lt_add_left (ih _) _
      _ = (x % b + 1) * b ^ k := (Nat.succ_mul _ _).symm
      _ ≤ b * b ^ k := Nat.mul_le_mul_right _ (Nat.mod_lt x hb)
      _ = b ^ (k + 1) := (Nat.pow_succ' ..).symm

/-- Digit `j` of `x` is digit `k - 1 - j` of its reversal. -/
theorem reverseDigits_digit (k x j : Nat) (hj : j < k) :
    reverseDigits b k x / b ^ (k - 1 - j) % b = x / b ^ j % b := by
  induction k generalizing x j with
  | zero => cases hj
  | succ k ih =>
    have hlow := reverseDigits_lt hb k (x / b)
    rw [reverseDigits]
    cases j with
    | zero =>
      have hk : 0 < b ^ k := Nat.pow_pos hb
      rw [Nat.add_sub_cancel, Nat.sub_zero, Nat.add_comm, Nat.add_mul_div_right _ _ hk, Nat.div_eq_of_lt hlow,
        Nat.zero_add, Nat.mod_mod, Nat.pow_zero, Nat.div_one]
    | succ j =>
      have hpow : b ^ k = b ^ j * b * b ^ (k - 1 - j) := by
        rw [← Nat.pow_succ, ← Nat.pow_add]
        congr 1
        omega
      have hd : 0 < b ^ (k - 1 - j) := Nat.pow_pos hb
      rw [show k + 1 - 1 - (j + 1) = k - 1 - j by omega, hpow, ← Nat.mul_assoc, Nat.add_comm,
        Nat.add_mul_div_right _ _ hd, ← Nat.mul_assoc, Nat.add_mul_mod_self_right, ih _ j (by omega), Nat.div_div_eq_div_mul,
        Nat.pow_succ']

end

theorem reverseBits_lt (k x : Nat) : reverseBits k x < 2 ^ k :=
  reverseBits_eq k x ▸ reverseDigits_lt (by decide) k x

theorem reverseBits_testBit (k x i : Nat) (hi : i < k) : (reverseBits k x).testBit (k - 1 - i) = x.testBit i := by
  rw [Nat.testBit_eq_decide_div_mod_eq, Nat.testBit_eq_decide_div_mod_eq, reverseBits_eq,
    reverseDigits_digit (by decide) k x i hi]

/-- A width of whole bytes: so many bytes in reverse order fit it. -/
theorem reverseBytes_lt {n : Nat} (hn : 8 ∣ n) (x : Nat) : reverseBytes (n / 8) x < 2 ^ n := by
  obtain ⟨k, rfl⟩ := hn
  rw [Nat.mul_div_cancel_left k (by decide), reverseBytes_eq, Nat.pow_mul]
  exact reverseDigits_lt (by decide) k x

theorem reverseBytes_byte (k x j : Nat) (hj : j < k) :
    reverseBytes k x >>> (8 * (k - 1 - j)) % 2 ^ 8 = x >>> (8 * j) % 2 ^ 8 := by
  rw [Nat.shiftRight_eq_div_pow, Nat.shiftRight_eq_div_pow, Nat.pow_mul, Nat.pow_mul, reverseBytes_eq]
  exact reverseDigits_digit (by decide) k x j hj

/-! ## The words -/

/-- Settles O3: the counts by their positions in `x`, the reversals digit by digit. -/
theorem integerOneSource : Obligations.IntegerOneSource := by
  intro s f h w d a va hi hd ha n x writes
  have row := fun val r hr => alu1_writes (w := w) hi hd ha val r hr
  have count {val : Nat → Nat → Nat} (hle : val n x.toNat ≤ n) :
      alu1 h w d a val s = writes (BitVec.ofNat n (val n x.toNat)) :=
    row val _ (toNat_ofNat_of_le hle).symm
  have reversal {val : Nat → Nat → Nat} (hlt : val n x.toNat < 2 ^ n) :
      alu1 h w d a val s = writes (BitVec.ofNatLT (val n x.toNat) hlt) := row val _ rfl
  refine ⟨?clz, ?ctz, ?popc, ?brev, ?bswap⟩
  case clz =>
    have hle := valClz_le n x.toNat
    exact ⟨valClz n x.toNat, hle, count hle, fun i hk => testBit_above_valClz x.isLt hk,
      testBit_at_valClz x.isLt⟩
  case ctz =>
    have hle := trailing_le n x.toNat
    exact ⟨trailing n x.toNat, hle, count (val := valCtz) hle, testBit_below_trailing n x.toNat,
      testBit_at_trailing n x.toNat⟩
  case popc =>
    have hp := count (val := valPopc) (ones_le n x.toNat)
    rw [valPopc, ones_eq_count] at hp
    exact hp
  case brev =>
    exact ⟨_, reversal (val := valBrev) (reverseBits_lt n x.toNat), reverseBits_testBit n x.toNat⟩
  case bswap =>
    have hn : 8 ∣ n := by cases w <;> decide
    exact ⟨_, reversal (val := valBswap) (reverseBytes_lt hn x.toNat),
      fun j hj => BitVec.eq_of_toNat_eq (reverseBytes_byte (n / 8) x.toNat j hj)⟩

end Sys2Proof.Machine
end

section
/-! PROOFS. The words of group 0x2 (R145 to R148): their predicate operands, their forms, and the conditions of `cmp`. -/

namespace Sys2Proof.Machine

/-! ## Predicate operands -/

theorem operandOf_predicate {o : Opnd} (h1 : 0xB0 ≤ o.toNat) (h2 : o.toNat < 0xC0) :
    operandOf o = .pred (o.toNat - 0xB0) := by
  unfold operandOf
  dsimp only
  iterate 7 rw [if_neg (by omega)]
  rw [if_pos h2]

theorem predNum_predicate {o : Opnd} (h1 : 0xB0 ≤ o.toNat) (h2 : o.toNat < 0xC0) : predNum o = o.toNat - 0xB0 := by
  unfold predNum
  omega

theorem fieldReason_q (s : State) (f : Frond) (pos : Nat) (o : Opnd) (h : predOk f o) :
    fieldReason s f { pos := pos, kind := .q, value := o } = none := by
  obtain ⟨h1, h2, -⟩ := h
  simp only [fieldReason, operandOf_predicate h1 h2, classReason, if_true]

section

variable {s : State} {f : Frond} {fl : BitVec 7} {o : Opnd} (h : predOk f o)

include h

/-- A predicate field reads its predicate, and nothing changes. -/
theorem run_readPred : ExceptT.run (readPred (predNum o)) { f := f, s := s, flags := fl }
    = (.ok (predVal f o), { f := f, s := s, flags := fl }) := by
  obtain ⟨h1, h2, h3⟩ := h
  simp only [readPred, predNum_predicate h1 h2, run_bind, run_getF, h3, hazard, Bool.false_eq_true, if_false, run_pure,
    predVal]

/-- A predicate field is written, and nothing else changes. -/
theorem run_writePred (b : Bool) : ExceptT.run (writePred (predNum o) b) { f := f, s := s, flags := fl }
    = (.ok (), { f := putPred f o b, s := s, flags := fl }) := by
  obtain ⟨h1, h2, h3⟩ := h
  simp only [writePred, predNum_predicate h1 h2, run_bind, run_getF, h3, hazard, Bool.false_eq_true, if_false, run_pure,
    run_modF, putPred]

end

@[simp] theorem putPred_held (f : Frond) (o : Opnd) (b : Bool) : (putPred f o b).held = f.held := by
  unfold putPred Frond.setPred; split <;> rfl
@[simp] theorem putPred_heldH (f : Frond) (o : Opnd) (b : Bool) : (putPred f o b).heldH = f.heldH := by
  unfold putPred Frond.setPred; split <;> rfl

/-- What COMB makes of the old predicate and of a comparison (R145). -/
def combined (comb : BitVec 2) (old c : Bool) : Bool := if comb = 0 then c else if comb = 1 then old && c else old || c

theorem run_combine {s : State} {f : Frond} {fl : BitVec 7} {d : Opnd} (h : predOk f d) (comb : BitVec 2) (c : Bool) :
    ExceptT.run (combine d comb c) { f := f, s := s, flags := fl }
      = (.ok (), { f := putPred f d (combined comb (predVal f d) c), s := s, flags := fl }) := by
  obtain rfl | rfl | rfl | rfl : comb = 0 ∨ comb = 1 ∨ comb = 2 ∨ comb = 3 := by decide +revert
  case inl => exact run_writePred h c
  all_goals exact (run_bind ..).trans (by rw [run_readPred h]; exact run_writePred h _)

/-! ## Words of group 0x2 -/

/-- A word that asks for no more than its fields, changes its frond alone and sets no flag: it completes. -/
theorem word_completes (r : Req) (body : M Next) (s : State) (f g : Frond) (hi : AtIssue s f r.h)
    (hp : r.priv = false) (hf : r.feats = []) (hr : r.roots = false) (hv : r.vec = false)
    (hg : accessGroup r.grp = false) (hx : ∀ x ∈ r.fields, fieldReason (aside s) f x = none)
    (hb : ExceptT.run body { f := f, s := aside s, flags := 0 } = (.ok .seq, { f := g, s := aside s, flags := 0 }))
    (hh : g.held = f.held) (hk : g.heldH = f.heldH) :
    runWord r body s = completes s f g r.h := by
  rw [word_seq r body s f g (aside s) 0 hi hp hf hr hv (by rw [hg, Bool.false_and]) hx hb (hh.trans hi.held)
    (hk.trans hi.heldH), raiseFlags_zero]
  rfl

section

variable {s : State} {f : Frond} {h : Hints} (hi : AtIssue s f h)

include hi

/-- The form of `cmp` and `tst`: two sources are read, and COMB decides the write (R145, R146). -/
theorem comparison_ok {d a : Opnd} {b : SrcB} {x y : Word} (c : Word → Word → Bool) (hd : predOk f d)
    (ha : srcVal s f a = some x) (hb : srcValB s f b = some y) (comb : BitVec 2) :
    runWord { h := h, grp := 2, fields := fieldD .q d :: fieldA .g a :: fieldSrc .g b } (do
      let x ← readG 1 a
      let y ← readB b
      combine d comb (c x y)
      return .seq) s = completes s f (putPred f d (combined comb (predVal f d) (c x y))) h := by
  refine word_completes _ _ s f _ hi rfl rfl rfl rfl rfl ?fields ?body (putPred_held ..) (putPred_heldH ..)
  case fields =>
    intro z hz
    rcases List.mem_cons.mp hz with rfl | hz
    · exact fieldReason_q _ f 0 d hd
    · rcases List.mem_cons.mp hz with rfl | hz
      · exact fieldReason_g s f 1 a x ha
      · exact fieldSrc_ok s f b y hb z hz
  case body =>
    simp only [run_bind, run_readG s f 0 1 a x ha, run_readB s f 0 b y hb, run_combine hd, run_pure]

theorem predLogic_ok {d a b : Opnd} (na nb : Bool) (op : Bool → Bool → Bool) (hd : predOk f d) (ha : predOk f a)
    (hb : predOk f b) :
    predLogic h d a b na nb op s = completes s f (putPred f d (op (predVal f a != na) (predVal f b != nb))) h := by
  refine word_completes _ _ s f _ hi rfl rfl rfl rfl rfl ?fields ?body (putPred_held ..) (putPred_heldH ..)
  case fields =>
    simp only [List.forall_mem_cons, fieldD, fieldA, fieldB]
    exact ⟨fieldReason_q _ f 0 d hd, fieldReason_q _ f 1 a ha, fieldReason_q _ f 2 b hb, by simp⟩
  case body =>
    simp only [run_bind, run_readPred ha, run_readPred hb, run_writePred hd, run_pure]

theorem pnot_ok {d a : Opnd} (hd : predOk f d) (ha : predOk f a) :
    execPnot h d a s = completes s f (putPred f d (!predVal f a)) h := by
  refine word_completes _ _ s f _ hi rfl rfl rfl rfl rfl ?fields ?body (putPred_held ..) (putPred_heldH ..)
  case fields =>
    simp only [List.forall_mem_cons, fieldD, fieldA]
    exact ⟨fieldReason_q _ f 0 d hd, fieldReason_q _ f 1 a ha, by simp⟩
  case body =>
    simp only [run_bind, run_readPred ha, run_writePred hd, run_pure]

variable (ho : anyOutPred f = false)

include ho

theorem pset_ok {a : Opnd} {x : Word} (ha : srcVal s f a = some x) :
    execPset h a s = completes s f { f with preds := x.setWidth 16 ||| 1 } h := by
  refine word_completes _ _ s f _ hi rfl rfl rfl rfl rfl ?fields ?body rfl rfl
  case fields => exact List.forall_mem_singleton.mpr (fieldReason_g s f 1 a x ha)
  case body =>
    simp only [run_bind, run_readG s f 0 1 a x ha, run_getF, ho, hazard, Bool.false_eq_true, if_false, run_modF, run_pure]

theorem pget_ok {d : Opnd} (hd : dstOk f d = true) :
    execPget h d s = completes s f (putDst f d ((f.preds ||| 1).setWidth 64)) h := by
  refine word_completes _ _ s f _ hi rfl rfl rfl rfl rfl ?fields ?body (putDst_held ..) (putDst_heldH ..)
  case fields => exact List.forall_mem_singleton.mpr (fieldReason_gw _ f 0 d hd)
  case body =>
    simp only [run_bind, run_getF, ho, hazard, Bool.false_eq_true, if_false, run_writeG _ _ _ d _ hd, run_pure]

end

theorem anyOutPred_false {f : Frond} (h : ∀ n, n < 16 → outPred f n = false) : anyOutPred f = false := by
  simpa [anyOutPred] using h

/-- Bit `n` of the predicates as a number, with the 1 of `q0` in bit 0 (R148). -/
theorem getLsbD_predicates (f : Frond) {n : Nat} (hn : n < 16) :
    ((f.preds ||| 1).setWidth 64).getLsbD n = f.pred n := by
  rw [BitVec.getLsbD_setWidth, BitVec.getLsbD_or]
  cases n with
  | zero => simp [Frond.pred]
  | succ n => simp [Frond.pred, show n + 1 < 64 by omega, BitVec.getLsbD_one]

theorem getLsbD_predicates_above (f : Frond) {n : Nat} (hn : 16 ≤ n) :
    ((f.preds ||| 1).setWidth 64).getLsbD n = false := by
  rw [BitVec.getLsbD_setWidth, BitVec.getLsbD_of_ge _ _ hn, Bool.and_false]

/-! ## Conditions of R145 -/

theorem signed_toNat_setWidth (x : Word) (n : Nat) : Nat.signed x.toNat n = (x.setWidth n).toInt := by
  rw [← signed_toNat, BitVec.toNat_setWidth]
  simp only [Nat.signed, Nat.mod_mod]

/-- The width that an integer type code names (R104). -/
abbrev typeBits (ty : BitVec 3) : Nat := 8 * 2 ^ (ty.toNat % 4)

theorem asTyped_signed {ty : BitVec 3} (h : ty.toNat < 4) (x : Word) :
    asTyped ty x = (x.setWidth (typeBits ty)).toInt := by
  unfold asTyped
  rw [if_pos h, signed_toNat_setWidth]

theorem asTyped_unsigned {ty : BitVec 3} (h : ¬ ty.toNat < 4) (x : Word) :
    asTyped ty x = ((x.setWidth (typeBits ty)).toNat : Int) := by
  unfold asTyped
  rw [if_neg h, low_toNat]

/-- The lesser of two operands is decided by the signedness of the type. -/
theorem decide_asTyped_lt (ty : BitVec 3) (x y : Word) : decide (asTyped ty x < asTyped ty y)
    = if ty.toNat < 4 then decide ((x.setWidth (typeBits ty)).toInt < (y.setWidth (typeBits ty)).toInt)
      else decide ((x.setWidth (typeBits ty)).toNat < (y.setWidth (typeBits ty)).toNat) := by
  by_cases h : ty.toNat < 4
  · rw [if_pos h, asTyped_signed h, asTyped_signed h]
  · rw [if_neg h, asTyped_unsigned h, asTyped_unsigned h]
    simp only [Int.ofNat_lt]

/-- Equality does not depend on the signedness. -/
theorem asTyped_beq (ty : BitVec 3) (x y : Word) : (asTyped ty x == asTyped ty y)
    = ((x.setWidth (typeBits ty)).toNat == (y.setWidth (typeBits ty)).toNat) := by
  rw [Bool.eq_iff_iff, beq_iff_eq, beq_iff_eq]
  by_cases h : ty.toNat < 4
  · rw [asTyped_signed h, asTyped_signed h, BitVec.toInt_inj, BitVec.toNat_inj]
  · rw [asTyped_unsigned h, asTyped_unsigned h, Int.ofNat_inj]

theorem condHolds_le (u v : Int) : condHolds 3 u v = (decide (u < v) || u == v) := by
  simp only [condHolds, Int.le_iff_lt_or_eq, Bool.decide_or]
  rfl

theorem condHolds_gt (u v : Int) : condHolds 4 u v = (!decide (u < v) && u != v) := by
  rw [Bool.eq_iff_iff]
  simp only [condHolds, decide_eq_true_eq, Bool.and_eq_true, Bool.not_eq_true', decide_eq_false_iff_not, bne_iff_ne]
  omega

theorem condHolds_ge (u v : Int) : condHolds 5 u v = !decide (u < v) := by
  simp only [condHolds, ← Int.not_lt, decide_not]

/-- Settles O5: a word of group 0x2 completes with the predicates that its form writes, and the conditions of `cmp` follow
from less and equal at the width of TYPE. -/
theorem predicateWords : Obligations.PredicateWords := by
  refine ⟨fun s f h d a b x y hi hd ha hb => ⟨?cmp, ?tst⟩, fun s f h hi => ⟨?logic, ?pnot, fun ho => ⟨?pset, ?pget⟩⟩⟩
  case cmp =>
    intro ty comb _ n u v m k lt
    have hlt : decide (asTyped ty x < asTyped ty y) = lt := decide_asTyped_lt ty x y
    have heq : (asTyped ty x == asTyped ty y) = (m == k) := asTyped_beq ty x y
    have hne : (asTyped ty x != asTyped ty y) = (m != k) := congrArg (!·) heq
    have row (cond : BitVec 4) {c : Bool} (hc : condHolds cond.toNat (asTyped ty x) (asTyped ty y) = c) :
        exec (.cmp h d a b ty cond comb) s = completes s f (putPred f d (combined comb (predVal f d) c)) h :=
      hc ▸ comparison_ok hi (fun x y => condHolds cond.toNat (asTyped ty x) (asTyped ty y)) hd ha hb comb
    exact ⟨row 0 heq, row 1 hne, row 2 hlt, row 3 (by rw [← hlt, ← heq]; exact condHolds_le _ _),
      row 4 (by rw [← hlt, ← hne]; exact condHolds_gt _ _), row 5 (by rw [← hlt]; exact condHolds_ge _ _)⟩
  case tst =>
    intro comb _
    have row (z : Bool) {c : Bool} (hc : ((x &&& y == 0) == z) = c) :
        exec (.tst h d a b z comb) s = completes s f (putPred f d (combined comb (predVal f d) c)) h :=
      hc ▸ comparison_ok hi (fun x y => (x &&& y == 0) == z) hd ha hb comb
    exact ⟨row false (beq_false _), row true (beq_true _)⟩
  case logic =>
    intro d a b na nb hd ha hb
    exact ⟨predLogic_ok hi na nb _ hd ha hb, predLogic_ok hi na nb _ hd ha hb, predLogic_ok hi na nb _ hd ha hb⟩
  case pnot => exact fun d a hd ha => pnot_ok hi hd ha
  case pset => exact fun a x ha => pset_ok hi (anyOutPred_false ho) ha
  case pget =>
    exact fun d hd => ⟨_, pget_ok hi (anyOutPred_false ho) hd, fun n hn => getLsbD_predicates f hn,
      fun n hn => getLsbD_predicates_above f hn⟩

end Sys2Proof.Machine
end

section
/-! PROOFS. The words of group 0x9 on view registers at issue: their fields, their forms, and the fields of a descriptor
that `wqry` reads (R258, R264, R278). -/

namespace Sys2Proof.Machine

/-! ## View registers in operand fields -/

theorem operandOf_view {o : Opnd} (h : objOk o 0xA0 0xA3) : operandOf o = .view (o.toNat - 0xA0) := by
  obtain ⟨h1, h2⟩ := h
  unfold operandOf
  dsimp only
  iterate 5 rw [if_neg (by omega)]
  rw [if_pos (by omega)]

theorem viewNum_view {o : Opnd} (h : objOk o 0xA0 0xA3) : viewNum o = o.toNat - 0xA0 := by
  obtain ⟨h1, h2⟩ := h
  unfold viewNum
  omega

theorem fieldReason_w (s : State) (f : Frond) (pos : Nat) (o : Opnd) (h : objOk o 0xA0 0xA3) :
    fieldReason s f { pos := pos, kind := .w, value := o } = none := by
  simp only [fieldReason, operandOf_view h, classReason, if_true]

/-- The fields of `wadj` and `wbind`: a view register and a scalar source. -/
theorem viewSource_fields {s : State} {f : Frond} {d a : Opnd} {x : Word} (hd : objOk d 0xA0 0xA3)
    (ha : srcVal s f a = some x) :
    ∀ y ∈ [fieldD .w d, fieldA .g a], fieldReason (aside s) f y = none := by
  simp only [List.forall_mem_cons, fieldD, fieldA]
  exact ⟨fieldReason_w _ f 0 d hd, fieldReason_g s f 1 a x ha, by simp⟩

theorem dstOk_of_resOk {f : Frond} {d : Opnd} (h : resOk f d = true) : dstOk f d = true := by
  unfold resOk at h
  unfold dstOk
  cases e : operandOf d <;> simp_all

/-- A channel or queue port is no destination of a result (R278). -/
theorem fieldReason_gres_port (s : State) (f : Frond) (pos : Nat) {o : Opnd} (h : objOk o 0x90 0x9F) :
    fieldReason s f { pos := pos, kind := .gres, value := o } = some 1 := by
  obtain ⟨h1, h2⟩ := h
  unfold fieldReason operandOf
  dsimp only
  iterate 2 rw [if_neg (by omega)]
  by_cases h3 : o.toNat < 0x98
  · rw [if_pos h3]
  · rw [if_neg h3]
    by_cases h4 : o.toNat < 0x9C
    · rw [if_pos h4]
    · rw [if_neg h4, if_pos (by omega)]

/-- A special operand is no destination of a result (R278). -/
theorem fieldReason_gres_special (s : State) (f : Frond) (pos : Nat) {o : Opnd} (h : objOk o 0xD1 0xDE) :
    fieldReason s f { pos := pos, kind := .gres, value := o } = some 1 := by
  obtain ⟨h1, h2⟩ := h
  unfold fieldReason operandOf
  dsimp only
  iterate 12 rw [if_neg (by omega)]
  rw [if_pos (by omega)]

/-! ## Forms -/

/-- The first field of a word that asks for no more than its fields is refused. -/
theorem word_firstField_refused (r : Req) (body : M Next) (s : State) (f : Frond) (x : Field) (xs : List Field) (n : Nat)
    (hi : AtIssue s f r.h) (hp : r.priv = false) (hf : r.feats = []) (hx : r.fields = x :: xs)
    (hn : fieldReason (aside s) f x = some n) :
    runWord r body s = traps s f causeOPERAND (operandInfo n x.pos x.value.toNat) := by
  have hstop := run_checkFields_stop [] xs x { f := f, s := aside s, flags := 0 } n (by simp) hn
  refine runWord_trap r body s f _ _ hi ?_
  unfold admitted
  simp only [run_bind, run_get, run_trapIf, hp, hf, hx, Bool.false_and, Bool.false_eq_true, if_false, checkFeatures,
    run_pure]
  rw [show x :: xs = [] ++ x :: xs from rfl, hstop]

/-- The form of `wqry` and `wfoot` with a D that may not receive a result (R278). -/
theorem viewRead_refused {s : State} {f : Frond} {h : Hints} (hi : AtIssue s f h) {d : Opnd} (xs : List Field)
    (body : M Next) (hd : objOk d 0x90 0x9F ∨ objOk d 0xD1 0xDE) :
    runWord { h := h, grp := 9, fields := fieldD .gres d :: xs } body s
      = traps s f causeOPERAND (operandInfo 1 0 d.toNat) :=
  word_firstField_refused _ body s f (fieldD .gres d) xs 1 hi rfl rfl rfl
    (hd.elim (fieldReason_gres_port _ f 0) (fieldReason_gres_special _ f 0))

/-- A word that asks for no more than its fields, while no acquire of its frond is outstanding, and sets no flag: it
completes in sequence. -/
theorem word_completesWith (r : Req) (body : M Next) (s : State) (f g : Frond) (t : State) (hi : AtIssue s f r.h)
    (hp : r.priv = false) (hf : r.feats = []) (hr : r.roots = false) (hv : r.vec = false)
    (hq : acquiring (aside s) f.uid = false) (hx : ∀ x ∈ r.fields, fieldReason (aside s) f x = none)
    (hb : ExceptT.run body (startOf s f) = (.ok .seq, { f := g, s := t, flags := 0 }))
    (hh : g.held = f.held) (hk : g.heldH = f.heldH) :
    runWord r body s = completesWith s f g t r.h := by
  rw [word_seq r body s f g t 0 hi hp hf hr hv (by rw [hq, Bool.and_false]) hx hb (hh.trans hi.held) (hk.trans hi.heldH),
    raiseFlags_zero]
  rfl

/-- The form of `wqry` and `wfoot`: a number that the frond alone decides is written. -/
theorem viewRead_ok {s : State} {f : Frond} {h : Hints} (hi : AtIssue s f h) (hq : acquiring (aside s) f.uid = false)
    {d a : Opnd} (val : Frond → Word) (hd : resOk f d = true) (ha : objOk a 0xA0 0xA3) :
    runWord { h := h, grp := 9, fields := [fieldD .gres d, fieldA .w a] } (do
      let f ← getF
      writeG d (val f)
      return .seq) s = completes s f (putDst f d (val f)) h := by
  refine word_completesWith _ _ s f _ (aside s) hi rfl rfl rfl rfl hq ?fields ?body (putDst_held ..) (putDst_heldH ..)
  case fields =>
    simp only [List.forall_mem_cons, fieldD, fieldA]
    exact ⟨fieldReason_gres _ f 0 d hd, fieldReason_w _ f 1 a ha, by simp⟩
  case body =>
    simp only [startOf, run_bind, run_getF, run_writeG _ _ _ _ _ (dstOk_of_resOk hd), run_pure]

/-! ## Fields of a descriptor -/

theorem toNat_ofNat_of_lt {n k : Nat} (h : k < 2 ^ n) : (BitVec.ofNat n k).toNat = k := by
  rw [BitVec.toNat_ofNat, Nat.mod_eq_of_lt h]

section

variable (v : BitVec 512)

theorem ofNat_field (lo n : Nat) : BitVec.ofNat 64 (Nat.field v.toNat lo n) = (v.extractLsb' lo n).setWidth 64 := by
  rw [← BitVec.ofNat_toNat, BitVec.extractLsb'_toNat, Nat.shiftRight_eq_div_pow]

theorem ofInt_viewStr (k : Nat) : BitVec.ofInt 64 (viewStr v k) = (v.extractLsb' (256 + 32 * k) 32).signExtend 64 := by
  have hf : Nat.field v.toNat (256 + 32 * k) 32 = (v.extractLsb' (256 + 32 * k) 32).toNat := by
    rw [BitVec.extractLsb'_toNat, Nat.shiftRight_eq_div_pow]
  rw [viewStr, hf, signed_toNat]
  rfl

variable {k : Nat} (hk : k < 4)

include hk

theorem viewField_ext : viewField v (2 + k) = (v.extractLsb' (128 + 32 * k) 32).setWidth 64 := by
  unfold viewField
  rw [if_neg (by omega), if_neg (by omega), if_pos (by omega), Nat.add_sub_cancel_left]
  exact ofNat_field v _ _

theorem viewField_str : viewField v (6 + k) = (v.extractLsb' (256 + 32 * k) 32).signExtend 64 := by
  unfold viewField
  rw [if_neg (by omega), if_neg (by omega), if_neg (by omega), if_pos (by omega), Nat.add_sub_cancel_left]
  exact ofInt_viewStr v k

theorem viewField_org : viewField v (10 + k) = (v.extractLsb' (384 + 32 * k) 32).setWidth 64 := by
  unfold viewField
  rw [if_neg (by omega), if_neg (by omega), if_neg (by omega), if_neg (by omega), if_pos (by omega),
    Nat.add_sub_cancel_left]
  exact ofNat_field v _ _

end

end Sys2Proof.Machine
end

section
/-! PROOFS. The footprint of a view (R41, R266): its lowest and highest byte are those of elements within its extents. -/

namespace Sys2Proof.Machine

/-! ## One dimension -/

/-- An index within an extent gives an offset between those of the two ends. -/
theorem offset_bounds {i e : Nat} (h : i < e) (s : Int) :
    min 0 (((e : Int) - 1) * s) ≤ i * s ∧ (i : Int) * s ≤ max 0 (((e : Int) - 1) * s) := by
  have h0 : (0 : Int) ≤ i := Int.natCast_nonneg i
  have h1 : (i : Int) ≤ e - 1 := by omega
  rcases Int.le_total 0 s with hs | hs
  · exact ⟨Int.le_trans (Int.min_le_left ..) (Int.mul_nonneg h0 hs),
      Int.le_trans (Int.mul_le_mul_of_nonneg_right h1 hs) (Int.le_max_right ..)⟩
  · exact ⟨Int.le_trans (Int.min_le_right ..) (Int.mul_le_mul_of_nonpos_right h1 hs),
      Int.le_trans (Int.mul_nonpos_of_nonneg_of_nonpos h0 hs) (Int.le_max_left ..)⟩

/-- Sums over the same dimensions compare as their terms do. -/
theorem sum_map_le {f g : Nat → Int} {l : List Nat} (h : ∀ k ∈ l, f k ≤ g k) : (l.map f).sum ≤ (l.map g).sum := by
  induction l with
  | nil => exact Int.le_refl 0
  | cons k ks ih =>
    obtain ⟨hk, hks⟩ := List.forall_mem_cons.mp h
    exact Int.add_le_add hk (ih hks)

/-! ## Elements -/

/-- The address of the element with the indices `i`, exact (R41). -/
def elementAt (d : BitVec 512) (i : Nat → Nat) : Int :=
  (viewBase d : Int) + viewEsz d * ((viewDims d).map (fun k => (i k : Int) * viewStr d k)).sum

/-- The indices of the lowest element: the far end of each dimension with a negative stride. -/
def lowestIndex (d : BitVec 512) (k : Nat) : Nat := if viewStr d k < 0 then viewExt d k - 1 else 0

/-- The indices of the highest element. -/
def highestIndex (d : BitVec 512) (k : Nat) : Nat := if viewStr d k < 0 then 0 else viewExt d k - 1

section

variable {d : BitVec 512}

theorem viewDims_of_rank (h : viewRank d ≤ 4) : viewDims d = List.range (viewRank d) := by
  rw [viewDims, show Nat.min 4 (viewRank d) = viewRank d from Nat.min_eq_right h]

section

variable {i : Nat → Nat} (h : ∀ k ∈ viewDims d, i k < viewExt d k)

include h

theorem viewLow_le_elementAt : viewLow d ≤ elementAt d i := by
  have hs := sum_map_le (fun k hk => (offset_bounds (h k hk) (viewStr d k)).1)
  exact Int.add_le_add_left (Int.mul_le_mul_of_nonneg_left hs (Int.natCast_nonneg _)) _

theorem elementAt_le_viewHigh : elementAt d i + viewEsz d - 1 ≤ viewHigh d := by
  have hs := sum_map_le (fun k hk => (offset_bounds (h k hk) (viewStr d k)).2)
  have hm := Int.add_le_add_left (Int.mul_le_mul_of_nonneg_left hs (Int.natCast_nonneg (viewEsz d))) (viewBase d)
  unfold elementAt viewHigh
  omega

end

variable (h : viewEmpty d = false)

include h

theorem viewExt_pos_of_mem {k : Nat} (hk : k ∈ viewDims d) : 0 < viewExt d k := by
  have := List.any_eq_false.mp h k hk
  exact Nat.pos_of_ne_zero (by simpa using this)

theorem lowestIndex_inside : ∀ k ∈ viewDims d, lowestIndex d k < viewExt d k := by
  intro k hk
  have := viewExt_pos_of_mem h hk
  unfold lowestIndex
  split <;> omega

theorem highestIndex_inside : ∀ k ∈ viewDims d, highestIndex d k < viewExt d k := by
  intro k hk
  have := viewExt_pos_of_mem h hk
  unfold highestIndex
  split <;> omega

theorem elementAt_lowestIndex : elementAt d (lowestIndex d) = viewLow d := by
  unfold elementAt viewLow
  congr 3
  refine List.map_congr_left fun k hk => ?_
  have he := viewExt_pos_of_mem h hk
  unfold lowestIndex
  by_cases hs : viewStr d k < 0
  · rw [if_pos hs, Int.natCast_sub he, Int.min_eq_right (Int.mul_nonpos_of_nonneg_of_nonpos (by omega) (by omega))]
    rfl
  · rw [if_neg hs, Int.min_eq_left (Int.mul_nonneg (by omega) (by omega))]
    exact Int.zero_mul _

theorem elementAt_highestIndex : elementAt d (highestIndex d) + viewEsz d - 1 = viewHigh d := by
  unfold elementAt viewHigh
  congr 5
  refine List.map_congr_left fun k hk => ?_
  have he := viewExt_pos_of_mem h hk
  unfold highestIndex
  by_cases hs : viewStr d k < 0
  · rw [if_pos hs, Int.max_eq_left (Int.mul_nonpos_of_nonneg_of_nonpos (by omega) (by omega))]
    exact Int.zero_mul _
  · rw [if_neg hs, Int.natCast_sub he, Int.max_eq_right (Int.mul_nonneg (by omega) (by omega))]
    rfl

theorem viewLow_le_viewHigh : viewLow d + viewEsz d - 1 ≤ viewHigh d :=
  elementAt_lowestIndex h ▸ elementAt_le_viewHigh (lowestIndex_inside h)

end

/-! ## What `wfoot` reads -/

theorem natAbs_signed_le (x : Nat) : (Nat.signed x 32).natAbs ≤ 2 ^ 31 := by
  have hx : Nat.low x 32 < 2 ^ 32 := Nat.mod_lt _ (by decide)
  unfold Nat.signed
  dsimp only
  split <;> omega

theorem viewStep_lt (d : BitVec 512) : viewStep d < 2 ^ 64 := by
  have hs : (viewStr d 0).natAbs ≤ 2 ^ 31 := natAbs_signed_le _
  have he : viewEsz d < 2 ^ 8 := Nat.mod_lt _ (by decide)
  unfold viewStep
  split
  · exact Nat.lt_of_le_of_lt (Nat.mul_le_mul hs (Nat.le_of_lt he)) (by decide)
  · decide

/-- A property of a footprint as `wfoot` writes it. -/
def footWord (d : BitVec 512) (sel : BitVec 2) : Word := BitVec.ofNat 64 (footField d sel.toNat)

theorem footWord_empty {d : BitVec 512} (h : viewEmpty d = true) :
    footWord d 0 = BitVec.allOnes 64 ∧ footWord d 1 = 0 ∧ footWord d 2 = 0 ∧ footWord d 3 = 0 := by
  simp only [footWord, footField, h, if_true]
  decide

theorem footWord_toNat {d : BitVec 512} {sel : BitVec 2} {n : Nat} (hf : footField d sel.toNat = n) (hn : n < 2 ^ 64) :
    (footWord d sel).toNat = n := by
  rw [footWord, hf, toNat_ofNat_of_lt hn]

section

variable {d : BitVec 512} (h : viewEmpty d = false)

include h

theorem footWord_step : (footWord d 2).toNat = viewStep d :=
  footWord_toNat (by simp [footField, h, footOf]) (viewStep_lt d)

variable (h1 : viewHigh d < 2 ^ 56)

include h1

theorem footWord_high : (footWord d 1).toNat = (viewHigh d).toNat :=
  footWord_toNat (by simp [footField, h, footOf]) (by omega)

theorem footWord_low : (footWord d 0).toNat = (viewLow d).toNat := by
  have := viewLow_le_viewHigh h
  exact footWord_toNat (by simp [footField, h, footOf]) (by omega)

theorem footWord_offset :
    (footWord d 3).toNat = if viewStep d = 0 then 0 else (footWord d 0).toNat % viewStep d := by
  refine footWord_toNat (by rw [footWord_low h h1]; simp [footField, h, footOf]) ?_
  split
  · decide
  · exact Nat.lt_trans (Nat.mod_lt _ (by omega)) (viewStep_lt d)

variable (h0 : 0 ≤ viewLow d)

include h0

theorem footWord_bounds {i : Nat → Nat} (hi : ∀ k ∈ viewDims d, i k < viewExt d k) :
    ((footWord d 0).toNat : Int) ≤ elementAt d i ∧ elementAt d i + viewEsz d - 1 ≤ (footWord d 1).toNat := by
  have hl := viewLow_le_elementAt hi
  have hh := elementAt_le_viewHigh hi
  rw [footWord_low h h1, footWord_high h h1]
  omega

theorem footWord_low_attained :
    ∃ i : Nat → Nat, (∀ k ∈ viewDims d, i k < viewExt d k) ∧ ((footWord d 0).toNat : Int) = elementAt d i := by
  refine ⟨lowestIndex d, lowestIndex_inside h, ?_⟩
  rw [elementAt_lowestIndex h, footWord_low h h1, Int.toNat_of_nonneg h0]

theorem footWord_high_attained (hz : 0 < viewEsz d) :
    ∃ i : Nat → Nat, (∀ k ∈ viewDims d, i k < viewExt d k) ∧ elementAt d i + viewEsz d - 1 = (footWord d 1).toNat := by
  have := viewLow_le_viewHigh h
  refine ⟨highestIndex d, highestIndex_inside h, ?_⟩
  rw [elementAt_highestIndex h, footWord_high h h1, Int.toNat_of_nonneg (by omega)]

end

end Sys2Proof.Machine
end

section
/-! PROOFS. A view whose origin moves (R265): the deltas that `wadj` refuses, and the fields of the moved descriptor. -/

namespace Sys2Proof.Machine

/-! ## Deltas -/

/-- The signed delta of dimension `k`. -/
def deltaOf (x : Word) (k : Nat) : Int := (x.extractLsb' (16 * k) 16).toInt

/-- A delta that takes the origin of a dimension of the view outside its extent, or that is not zero past the rank. -/
def DeltaFails (v : BitVec 512) (x : Word) (k : Nat) : Prop :=
  if k < viewRank v then (viewOrg v k : Int) + deltaOf x k < 0 ∨ (viewExt v k : Int) ≤ viewOrg v k + deltaOf x k
  else deltaOf x k ≠ 0

section

variable (v : BitVec 512) (x : Word) (k : Nat)

theorem coordinate_eq_toNat : coordinate x k = (x.extractLsb' (16 * k) 16).toNat := by
  rw [BitVec.extractLsb'_toNat, Nat.shiftRight_eq_div_pow]
  rfl

theorem movedOrg_eq : movedOrg v x k = viewOrg v k + deltaOf x k := by
  rw [movedOrg, coordinate_eq_toNat, signed_toNat]
  rfl

theorem coordinate_eq_zero_iff : coordinate x k = 0 ↔ deltaOf x k = 0 := by
  rw [coordinate_eq_toNat, deltaOf, ← BitVec.toInt_zero (w := 16), BitVec.toInt_inj, ← BitVec.toNat_inj]
  rfl

theorem badDelta_iff : badDelta v x k = true ↔ DeltaFails v x k := by
  unfold badDelta DeltaFails
  split
  · rw [decide_eq_true_eq, movedOrg_eq]
  · rw [bne_iff_ne, ne_eq, coordinate_eq_zero_iff]

end

theorem find_badDelta_none {v : BitVec 512} {x : Word} (h : ∀ k, k < 4 → ¬ DeltaFails v x k) :
    (List.range 4).find? (badDelta v x) = none :=
  List.find?_eq_none.mpr fun k hk hb => h k (List.mem_range.mp hk) ((badDelta_iff v x k).mp hb)

theorem find_badDelta_some {v : BitVec 512} {x : Word} {k : Nat} (hk : k < 4) (h : DeltaFails v x k)
    (hlow : ∀ j, j < k → ¬ DeltaFails v x j) : (List.range 4).find? (badDelta v x) = some k := by
  refine List.find?_range_eq_some.mpr ⟨(badDelta_iff v x k).mpr h, List.mem_range.mpr hk, fun j hj => ?_⟩
  exact (Bool.not_eq_true' _).mpr (Bool.eq_false_iff.mpr fun hb => hlow j hj ((badDelta_iff v x j).mp hb))

/-! ## Lanes above the low bits of a number -/

theorem ofLanes_lt (ls : List Nat) : ofLanes ls < 2 ^ (32 * ls.length) := by
  induction ls with
  | nil => exact Nat.zero_lt_one
  | cons y ys ih =>
    have hp : 2 ^ (32 * (y :: ys).length) = 2 ^ 32 * 2 ^ (32 * ys.length) := by
      rw [← Nat.pow_add, List.length_cons, Nat.mul_add, Nat.add_comm]
    rw [hp]
    unfold ofLanes
    omega

theorem sum_lanes (a n : Nat) (o : Nat → Nat) (h : ∀ k, k < n → o k < 2 ^ 32) :
    ((List.range n).map (fun k => o k * 2 ^ (a + 32 * k))).sum = 2 ^ a * ofLanes ((List.range n).map o) := by
  induction n generalizing a o with
  | zero => rfl
  | succ n ih =>
    have ih := ih (a + 32) (o ∘ Nat.succ) fun k hk => h _ (Nat.succ_lt_succ hk)
    have hshift : ((fun k => o k * 2 ^ (a + 32 * k)) ∘ Nat.succ) = fun k => (o ∘ Nat.succ) k * 2 ^ (a + 32 + 32 * k) :=
      funext fun k => by
        simp only [Function.comp, Nat.succ_eq_add_one, Nat.mul_add, Nat.mul_one, Nat.add_assoc, Nat.add_comm]
    rw [List.range_succ_eq_map, List.map_cons, List.map_map, List.sum_cons, hshift, ih, List.map_cons, List.map_map,
      ofLanes, Nat.mod_eq_of_lt (h 0 (Nat.succ_pos n)), Nat.mul_zero, Nat.add_zero, Nat.pow_add, Nat.mul_add,
      Nat.mul_assoc, Nat.mul_comm (o 0)]

/-- The number whose low `a` bits are those of `x` and whose other bits are `y`. -/
def lowHigh (a x y : Nat) : Nat := x % 2 ^ a + 2 ^ a * y

theorem lowHigh_lt {a n m : Nat} (hm : m = a + n) (x : Nat) {y : Nat} (hy : y < 2 ^ n) : lowHigh a x y < 2 ^ m :=
  calc x % 2 ^ a + 2 ^ a * y < 2 ^ a + 2 ^ a * y := Nat.add_lt_add_right (Nat.mod_lt x (Nat.two_pow_pos a)) _
    _ = 2 ^ a * (y + 1) := by rw [Nat.mul_add, Nat.mul_one, Nat.add_comm]
    _ ≤ 2 ^ a * 2 ^ n := Nat.mul_le_mul_left _ hy
    _ = 2 ^ m := by rw [hm, Nat.pow_add]

theorem lowHigh_div (a n x y : Nat) : lowHigh a x y / 2 ^ (a + n) = y / 2 ^ n := by
  have ha := Nat.two_pow_pos a
  rw [lowHigh, Nat.pow_add, ← Nat.div_div_eq_div_mul, Nat.add_mul_div_left _ _ ha, Nat.div_eq_of_lt (Nat.mod_lt x ha),
    Nat.zero_add]

theorem lowHigh_lanes (a n x : Nat) {o : Nat → Nat} (h : ∀ k, k < n → o k < 2 ^ 32) :
    x % 2 ^ a + ((List.range n).map (fun k => o k * 2 ^ (a + 32 * k))).sum
      = lowHigh a x (ofLanes ((List.range n).map o)) := by
  rw [sum_lanes a n o h, lowHigh]

theorem extractLsb'_of_lowHigh {m a y : Nat} {v w : BitVec m} (h : v.toNat = lowHigh a w.toNat y) :
    v.extractLsb' 0 a = w.extractLsb' 0 a := by
  apply BitVec.eq_of_toNat_eq
  rw [BitVec.extractLsb'_toNat, BitVec.extractLsb'_toNat, h, lowHigh, Nat.shiftRight_zero, Nat.shiftRight_zero,
    Nat.add_mul_mod_self_left, Nat.mod_mod]

/-! ## The moved descriptor -/

/-- What `moveOrigin` puts into ORG of dimension `k`. -/
def newOrg (v : BitVec 512) (x : Word) (k : Nat) : Nat := if k < viewRank v then (movedOrg v x k).toNat else viewOrg v k

section

variable {v : BitVec 512} {x : Word}

theorem newOrg_eq {k : Nat} (h : ¬ DeltaFails v x k) :
    (newOrg v x k : Int) = if k < viewRank v then viewOrg v k + deltaOf x k else (viewOrg v k : Int) := by
  unfold DeltaFails at h
  unfold newOrg
  split
  · rename_i hk
    rw [if_pos hk] at h
    rw [movedOrg_eq]
    omega
  · rfl

theorem newOrg_lt {k : Nat} (h : ¬ DeltaFails v x k) : newOrg v x k < 2 ^ 32 := by
  have ho : viewOrg v k < 2 ^ 32 := Nat.mod_lt _ (by decide)
  have he : viewExt v k < 2 ^ 32 := Nat.mod_lt _ (by decide)
  have hn := newOrg_eq h
  unfold DeltaFails at h
  split at hn
  · rename_i hk
    rw [if_pos hk] at h
    omega
  · omega

variable (h : ∀ k, k < 4 → ¬ DeltaFails v x k)

include h

/-- The four origins lie above the rest of the descriptor. -/
theorem moveOrigin_toNat :
    (moveOrigin v x).toNat = lowHigh 384 v.toNat (ofLanes ((List.range 4).map (newOrg v x))) := by
  have hlanes := lowHigh_lanes 384 4 v.toNat fun k hk => newOrg_lt (h k hk)
  exact (congrArg (fun n => (BitVec.ofNat 512 n).toNat) hlanes).trans
    (toNat_ofNat_of_lt (lowHigh_lt (n := 128) (m := 512) rfl _ (ofLanes_lt _)))

theorem moveOrigin_low : (moveOrigin v x).extractLsb' 0 384 = v.extractLsb' 0 384 :=
  extractLsb'_of_lowHigh (moveOrigin_toNat h)

theorem viewOrg_moveOrigin {k : Nat} (hk : k < 4) : viewOrg (moveOrigin v x) k = newOrg v x k := by
  have hl := ofLanes_lane ((List.range 4).map (newOrg v x)) k (by simpa using hk)
  rw [viewOrg, Nat.field, moveOrigin_toNat h, lowHigh_div, hl, List.getD_eq_getElem?_getD, List.getElem?_map,
    List.getElem?_range hk]
  exact Nat.mod_eq_of_lt (newOrg_lt (h k hk))

end

end Sys2Proof.Machine
end

section
/-! PROOFS. A view register that is retired (R261, R336): its entries leave the catalogues, and the binds of other fronds that
this wakes leave the retiring frond, its register and the bytes of memory alone. -/

namespace Sys2Proof.Machine

/-! ## Names of fronds -/

@[simp] theorem lastUse_uid (h : Hints) (f : Frond) : (lastUse h f).uid = f.uid := by
  obtain ⟨a, b, hs⟩ := lastUse_shape h f
  rw [hs f rfl rfl]

@[simp] theorem switchMark_uid (h : Hints) (f : Frond) : (switchMark h f).uid = f.uid := by
  unfold switchMark
  split <;> rfl

@[simp] theorem useHeld_uid (b : Bool) (f : Frond) : (useHeld b f).uid = f.uid := by cases b <;> rfl

@[simp] theorem advance_uid (f : Frond) : (advance f).1.uid = f.uid := by
  unfold advance
  dsimp only
  split
  · rfl
  · split
    · rfl
    · split
      · rfl
      · split <;> rfl

theorem takeCause_uid (s : State) (f : Frond) (code info epc word : Nat) :
    (takeCause s f code info epc word).2.uid = f.uid := by
  obtain ⟨-, -, -, -, -, -, -, huid, -⟩ := takeCause_keeps s f code info epc word
  exact huid

/-- A frond keeps its name when its word completes in sequence. -/
theorem complete_uid (s : State) (f : Frond) (h : Hints) (word : Nat) : (complete s f h none word).2.uid = f.uid := by
  have ha := advance_uid (lastUse h { f with errWait := false })
  rw [lastUse_uid] at ha
  unfold complete
  dsimp only
  split
  · rename_i e
    rw [e] at ha
    rw [switchMark_uid, ha]
  · rename_i e
    rw [e] at ha
    rw [switchMark_uid, takeCause_uid, ha]

theorem findFrond_uid {s : State} {u : Nat} {f : Frond} (h : findFrond s u = some f) : f.uid = u := by
  have hfind (hs : s.fronds.find? (fun x => x.uid == u) = some f) : f.uid = u := by simpa using List.find?_some hs
  unfold findFrond at h
  split at h
  · split at h
    · rename_i hu
      exact Option.some.inj h ▸ hu
    · exact hfind h
  · exact hfind h

/-! ## Lists -/

theorem mem_updFirst {α : Type} {p : α → Bool} {g : α → α} {l : List α} {x : α} (h : x ∈ updFirst p g l) :
    x ∈ l ∨ ∃ y ∈ l, x = g y := by
  induction l with
  | nil => cases h
  | cons z zs ih =>
    unfold updFirst at h
    split at h
    · rcases List.mem_cons.mp h with rfl | h
      · exact .inr ⟨z, List.mem_cons_self, rfl⟩
      · exact .inl (List.mem_cons_of_mem _ h)
    · rcases List.mem_cons.mp h with rfl | h
      · exact .inl List.mem_cons_self
      · rcases ih h with h | ⟨y, hy, rfl⟩
        · exact .inl (List.mem_cons_of_mem _ h)
        · exact .inr ⟨y, List.mem_cons_of_mem _ hy, rfl⟩

theorem mem_sortBy {α : Type} (le : α → α → Bool) (l : List α) (x : α) : x ∈ sortBy le l ↔ x ∈ l := by
  have hfold : ∀ (l acc : List α), x ∈ l.foldl (fun acc y => insertBy le y acc) acc ↔ x ∈ acc ∨ x ∈ l := by
    intro l
    induction l with
    | nil => simp
    | cons y ys ih => intro acc; rw [List.foldl_cons, ih, insertBy_mem, List.mem_cons, or_assoc, or_left_comm]
  rw [sortBy, hfold]
  simp

/-! ## Binds that go on -/

/-- A bind that registers appends entries of its own frond to the catalogues, and does nothing else. -/
theorem registerIn_shape (f : Frond) (w : Nat) (d : BitVec 512) (dies : List Nat) (s : State) :
    ∃ es, (registerIn f w d dies s).1 = { s with catalogue := s.catalogue ++ es } ∧ ∀ e ∈ es, e.uid = f.uid := by
  induction dies generalizing s with
  | nil => exact ⟨[], by simp [registerIn], by simp⟩
  | cons die dies ih =>
    have hsame : s = { s with catalogue := s.catalogue ++ [] } := by rw [List.append_nil]
    unfold registerIn
    dsimp only
    split
    · exact ⟨[], hsame, by simp⟩
    · split
      · exact ⟨[], hsame, by simp⟩
      · generalize he : CatEntry.mk _ _ _ _ _ _ _ _ = e
        obtain ⟨es, hs, hes⟩ := ih { s with catalogue := s.catalogue ++ [e] }
        refine ⟨e :: es, ?_, List.forall_mem_cons.mpr ⟨he ▸ rfl, hes⟩⟩
        rw [hs, List.append_assoc]
        rfl

/-- The machine around the frond `g` at issue, whose register `w` is being retired: nothing else in it has the name of `g`,
no catalogue has an entry of the register, and the bytes of memory are those of `s0`. -/
structure Retiring (g : Frond) (w : Nat) (s0 s : State) : Prop where
  issuing : s.issuing = some g
  fronds : ∀ x ∈ s.fronds, x.uid ≠ g.uid
  binds : ∀ b ∈ s.binds, b.uid ≠ g.uid
  catalogue : ∀ e ∈ s.catalogue, ¬ (e.uid = g.uid ∧ e.w = w)
  ls : s.ls = s0.ls
  hbm : s.hbm = s0.hbm

namespace Retiring

variable {g : Frond} {w : Nat} {s0 s : State} (h : Retiring g w s0 s)

include h

theorem set_binds {bs : List BindReq} (hb : ∀ b ∈ bs, b.uid ≠ g.uid) : Retiring g w s0 { s with binds := bs } :=
  { h with binds := hb }

theorem refreshSpent (p : Nat) : Retiring g w s0 (refreshSpent s p) := by
  unfold Machine.refreshSpent
  dsimp only
  split
  · exact h
  · exact { h with }

theorem sendMessage (f : Frond) (b : BitVec 512) : Retiring g w s0 (sendMessage s f b) := by
  unfold Machine.sendMessage
  split <;> exact { h with }

theorem takeCause (f : Frond) (code info epc word : Nat) : Retiring g w s0 (takeCause s f code info epc word).1 := by
  rcases takeCause_cases s f code info epc word with ⟨-, -, e⟩ | ⟨-, -, -, e⟩ | e
  · rw [e]
    exact { h with }
  · rw [e]
    exact h
  · rw [e]
    exact h.sendMessage ..

theorem complete (f : Frond) (hi : Hints) (word : Nat) : Retiring g w s0 (complete s f hi none word).1 := by
  unfold Machine.complete
  dsimp only
  split
  · exact h
  · exact h.takeCause ..

theorem registerIn {f : Frond} (hf : f.uid ≠ g.uid) (v : Nat) (d : BitVec 512) (dies : List Nat) :
    Retiring g w s0 (registerIn f v d dies s).1 := by
  obtain ⟨es, hs, hes⟩ := registerIn_shape f v d dies s
  rw [hs]
  refine { h with catalogue := fun e he => ?_ }
  rcases List.mem_append.mp he with he | he
  · exact h.catalogue e he
  · exact fun hu => hf (hes e he ▸ hu.1)

theorem updFrond {u : Nat} {f : Frond} (hu : u ≠ g.uid) (hf : f.uid ≠ g.uid) :
    Retiring g w s0 (updFrond s u (fun _ => f)) := by
  refine { h with issuing := ?issuing, fronds := fun x hx => ?fronds }
  case issuing =>
    simp [Machine.updFrond, h.issuing, hu.symm]
  case fronds =>
    rcases mem_updFirst hx with hx | ⟨y, -, rfl⟩
    · exact h.fronds x hx
    · exact hf

theorem tryBind {f : Frond} (hf : f.uid ≠ g.uid) (r : BindReq) :
    Retiring g w s0 (tryBind s f r).1 ∧ (tryBind s f r).2.1.uid = f.uid ∧ ∀ x ∈ (tryBind s f r).2.2, x.uid = r.uid := by
  have hr := h.registerIn hf r.w r.desc r.dies
  unfold Machine.tryBind
  split
  · rename_i e
    rw [e] at hr
    exact ⟨hr, rfl, by simp⟩
  · rename_i e
    rw [e] at hr
    refine ⟨hr.complete .., ?_, by simp⟩
    rw [complete_uid, useHeld_uid]
    rfl

theorem reexamineAt (die : Nat) {rs moved : List BindReq} (hrs : ∀ r ∈ rs, r.uid ≠ g.uid)
    (hmoved : ∀ r ∈ moved, r.uid ≠ g.uid) :
    Retiring g w s0 (reexamineAt die rs s moved).1 ∧ ∀ r ∈ (reexamineAt die rs s moved).2, r.uid ≠ g.uid := by
  induction rs generalizing s moved with
  | nil => exact ⟨h, hmoved⟩
  | cons r rs ih =>
    obtain ⟨hr, hrs⟩ := List.forall_mem_cons.mp hrs
    have hleft {t : State} (ht : Retiring g w s0 t) :
        Retiring g w s0 { t with binds := t.binds.filter (fun b => b != r) } :=
      ht.set_binds fun b hb => ht.binds b (List.mem_filter.mp hb).1
    unfold Machine.reexamineAt
    split
    · exact ih (hleft h) hrs hmoved
    · rename_i f hfind
      have hf : f.uid ≠ g.uid := findFrond_uid hfind ▸ hr
      have hreg := h.registerIn hf r.w r.desc [die]
      split
      · rename_i e
        rw [e] at hreg
        exact ih (hreg.updFrond hr (f := bindParked _ f _) hf) hrs hmoved
      · rename_i e
        rw [e] at hreg
        refine ih (hleft hreg) hrs ?_
        simpa [or_imp, forall_and] using ⟨hmoved, hr⟩

theorem moveBinds {rs : List BindReq} (hrs : ∀ r ∈ rs, r.uid ≠ g.uid) : Retiring g w s0 (moveBinds rs s) := by
  induction rs generalizing s with
  | nil => exact h
  | cons r rs ih =>
    obtain ⟨hr, hrs⟩ := List.forall_mem_cons.mp hrs
    unfold Machine.moveBinds
    split
    · exact ih h hrs
    · rename_i f hfind
      have hf : f.uid ≠ g.uid := findFrond_uid hfind ▸ hr
      obtain ⟨ht, hu, hx⟩ := h.tryBind hf r
      refine ih ((Retiring.set_binds (ht.updFrond hr (hu ▸ hf)) fun b hb => ?_).refreshSpent _) hrs
      rcases List.mem_append.mp hb with hb | hb
      · exact ht.binds b hb
      · exact hx b (Option.mem_toList.mp hb) ▸ hr

/-- The binds that wait at a list of catalogues are examined again, one catalogue after the other. -/
theorem reexamine_each (dies : List Nat) {moved : List BindReq} (hmoved : ∀ r ∈ moved, r.uid ≠ g.uid) :
    let q := dies.foldl (fun (p : State × List BindReq) die =>
      let here := sortBy (bindOrder p.1) (p.1.binds.filter (fun r => r.dies.head? == some die))
      Machine.reexamineAt die here p.1 p.2) (s, moved)
    Retiring g w s0 q.1 ∧ ∀ r ∈ q.2, r.uid ≠ g.uid := by
  induction dies generalizing s moved with
  | nil => exact ⟨h, hmoved⟩
  | cons die dies ih =>
    have hhere : ∀ r ∈ sortBy (bindOrder s) (s.binds.filter (fun r => r.dies.head? == some die)), r.uid ≠ g.uid :=
      fun r hr => h.binds r (List.mem_filter.mp ((mem_sortBy ..).mp hr)).1
    obtain ⟨hnext, hmoved⟩ := h.reexamineAt die hhere hmoved
    exact ih hnext hmoved

theorem wakeBinds : Retiring g w s0 (wakeBinds s) := by
  obtain ⟨hall, hmoved⟩ := h.reexamine_each (List.range 9) (moved := []) (by simp)
  unfold Machine.wakeBinds
  refine hall.moveBinds fun r hr => ?_
  obtain ⟨x, hx, rfl⟩ := List.mem_map.mp ((mem_sortBy ..).mp hr)
  exact hmoved x hx

end Retiring

/-- The entries of a register leave the catalogues of a machine in which nothing else has the name of its frond. -/
theorem dropEntries_retiring {g : Frond} {s : State} (w : Nat) (hi : s.issuing = some g)
    (hf : ∀ x ∈ s.fronds, x.uid ≠ g.uid) (hb : ∀ b ∈ s.binds, b.uid ≠ g.uid) :
    Retiring g w s (dropEntries s g.uid w) := by
  have hkept (e : CatEntry) : (!(e.uid == g.uid && e.w == w)) = true ↔ ¬ (e.uid = g.uid ∧ e.w = w) := by
    rw [Bool.not_eq_true', ← Bool.not_eq_true, Bool.and_eq_true, beq_iff_eq, beq_iff_eq]
  unfold dropEntries
  dsimp only
  split
  · rename_i hl
    have hall := List.length_filter_eq_length_iff.mp hl
    exact ⟨hi, hf, hb, fun e he => (hkept e).mp (hall e he), rfl, rfl⟩
  · exact Retiring.wakeBinds ⟨hi, hf, hb, fun e he => (hkept e).mp (List.mem_filter.mp he).2, rfl, rfl⟩

/-! ## The register -/

/-- The machine with the frond `f` at issue, whose view register `w` has been freed. -/
def freed (s : State) (f : Frond) (w : Nat) : State :=
  updFrond { aside s with issuing := some f } f.uid (fun f => setView f w none)

/-- The machine beside the frond `f` when its view register `w` has been retired. -/
def retiredView (s : State) (f : Frond) (w : Nat) : State := { dropEntries (freed s f w) f.uid w with issuing := none }

theorem dropEntries_freed {s : State} {f : Frond} (w : Nat) (hf : ∀ g ∈ s.fronds, g.uid ≠ f.uid)
    (hb : ∀ b ∈ s.binds, b.uid ≠ f.uid) :
    Retiring (setView f w none) w s (dropEntries (freed s f w) f.uid w) := by
  have hi : (freed s f w).issuing = some (setView f w none) := by simp [freed, updFrond]
  have hf' : ∀ x ∈ (freed s f w).fronds, x.uid ≠ f.uid := by
    intro x hx
    rcases mem_updFirst hx with hx | ⟨y, hy, rfl⟩
    · exact hf x hx
    · exact hf y hy
  exact { dropEntries_retiring (g := setView f w none) w hi hf' hb with }

end Sys2Proof.Machine
end

section
/-! PROOFS. The words `wret`, `wqry`, `wfoot`, `wadj` and `wbind` at issue (R260, R261, R264 to R266). -/

namespace Sys2Proof.Machine

/-! ## Parts of a word -/

theorem run_viaState (g : State → State) (c : Ctx) : ExceptT.run (viaState g) c
    = (.ok (), { c with s := { g { c.s with issuing := some c.f } with issuing := none }
                        f := (g { c.s with issuing := some c.f }).issuing.getD c.f }) := rfl

theorem run_liveView_free {pos : Nat} {o : Opnd} {write : Bool} {c : Ctx} (h : viewOf c.f (viewNum o) = none) :
    ExceptT.run (liveView pos o write) c = (.error (.trap causeOPERAND (operandInfo 4 pos o.toNat)), c) := by
  unfold liveView
  rw [run_bind, run_getF]
  dsimp only
  rw [h]
  rfl

theorem run_liveView_read {pos : Nat} {o : Opnd} {c : Ctx} {v : BitVec 512} (h : viewOf c.f (viewNum o) = some v) :
    ExceptT.run (liveView pos o false) c = (.ok v, c) := by
  unfold liveView
  rw [run_bind, run_getF]
  dsimp only
  rw [h]
  rfl

theorem effective_eq (x : Word) (disp : BitVec 32) : effective x disp = addressOf x disp := rfl

section

variable {l : Bool} {a size : Nat} {c : Ctx}

theorem run_checkForms_ok (h : formBad c l a size = false) : ExceptT.run (checkForms l size [a]) c = (.ok (), c) := by
  unfold checkForms
  rw [run_bind, run_get]
  simp only [List.find?, h, run_pure]

theorem run_checkForms_bad (h : formBad c l a size = true) :
    ExceptT.run (checkForms l size [a]) c = (.error (.trap causeXLATE a), c) := by
  unfold checkForms
  rw [run_bind, run_get]
  simp only [List.find?, h, run_throw]

end

theorem formBad_local {c : Ctx} {a size : Nat} : formBad c true a size = decide (lsSize < a + size) := rfl

/-- An address of the job that is no window address has a form that an access may use (R247). -/
theorem formBad_plain {c : Ctx} {a size : Nat} (h : a < 2 ^ 56) (hw : inWindow a = false) :
    formBad c false a size = false := by
  simp only [formBad, hw, Bool.false_and, Bool.or_false, Bool.false_eq_true, if_false, decide_eq_false_iff_not]
  omega

/-- A word that roots its frond and starts an access that it waits for. -/
theorem word_flies_rooted (r : Req) (body : M Next) (s : State) (f : Frond) (x : Launch)
    (hi : AtIssue s f r.h) (hp : r.priv = false) (hf : r.feats = []) (hr : r.roots = true) (hv : r.vec = false)
    (hq : acquiring (aside s) f.uid = false) (hx : ∀ x ∈ r.fields, fieldReason (aside s) f x = none)
    (hb : ExceptT.run body (startOf s f) = ExceptT.run (launch r.h true x) (startOf s f))
    (hw : x.op.writes = false) :
    runWord r body s = flies s f r.h true { startOf s f with f := rootedAs f } x := by
  have hg : (accessGroup r.grp && acquiring (aside s) f.uid) = false := by rw [hq, Bool.and_false]
  rw [run_launch_wait r.h x _ (by simp [hw])] at hb
  rw [runWord_block r body s f f _ 0 _ hi ((run_admitted r body _ hp hf hv hg hx).trans hb), hv, raiseFlags_zero,
    rootedBy, hr]
  rfl

/-! ## The words -/

section

variable {s : State} {f : Frond} {h : Hints} (hi : AtIssue s f h) (hq : acquiring (aside s) f.uid = false)

include hi hq

/-! ### `wret` -/

section

variable {a : Opnd} (ha : objOk a 0xA0 0xA3)

include ha

theorem wret_free (hv : viewOf f (viewNum a) = none) : exec (.wret h a) s = completes s f f h := by
  refine word_completesWith _ _ s f f (aside s) hi rfl rfl rfl rfl hq
    (List.forall_mem_singleton.mpr (fieldReason_w (aside s) f 1 a ha)) ?_ rfl rfl
  simp only [startOf, run_bind, run_get, hv, run_pure]

variable {v : BitVec 512} (hv : viewOf f (viewNum a) = some v)

include hv

theorem wret_waits (hr : viewReleased (aside s) f (viewNum a) v = false) : exec (.wret h a) s = waits s f := by
  refine word_stall _ _ s f hi rfl rfl rfl (by rw [hq, Bool.and_false])
    (List.forall_mem_singleton.mpr (fieldReason_w (aside s) f 1 a ha)) ?_
  simp only [run_bind, run_get, hv, run_stallIf, hr, Bool.not_false, if_true]

/-- A released view is retired: its register is free, and its entries have left the catalogues (R261, R336). -/
theorem wret_retires (hr : viewReleased (aside s) f (viewNum a) v = true) (hf : ∀ g ∈ s.fronds, g.uid ≠ f.uid)
    (hb : ∀ b ∈ s.binds, b.uid ≠ f.uid) :
    exec (.wret h a) s = completesWith s f (setView f (viewNum a) none) (retiredView s f (viewNum a)) h := by
  have hissuing := (dropEntries_freed (viewNum a) hf hb).issuing
  refine word_completesWith _ _ s f _ _ hi rfl rfl rfl rfl hq
    (List.forall_mem_singleton.mpr (fieldReason_w (aside s) f 1 a ha)) ?_ rfl rfl
  simp only [startOf, run_bind, run_get, hv, run_stallIf, hr, Bool.not_true, Bool.false_eq_true, if_false, run_viaState,
    run_pure]
  rw [← freed, hissuing]
  rfl

end

/-! ### `wqry` and `wfoot` -/

section

variable {d a : Opnd} (hd : resOk f d = true) (ha : objOk a 0xA0 0xA3)

include hd ha

theorem wqry_writes (sel : BitVec 4) : exec (.wqry h d a sel) s
    = completes s f (putDst f d (((viewOf f (viewNum a)).map (fun v => viewField v sel.toNat)).getD 0)) h := by
  refine (viewRead_ok hi hq (fun f => match viewOf f (viewNum a) with
    | some v => viewField v sel.toNat
    | none => 0) hd ha).trans ?_
  cases viewOf f (viewNum a) <;> rfl

theorem wfoot_writes (sel : BitVec 2) : exec (.wfoot h d a sel) s
    = completes s f (putDst f d (((viewOf f (viewNum a)).map (fun v => footWord v sel)).getD 0)) h := by
  refine (viewRead_ok hi hq (fun f => match viewOf f (viewNum a) with
    | some v => footWord v sel
    | none => 0) hd ha).trans ?_
  cases viewOf f (viewNum a) <;> rfl

end

/-! ### `wadj` -/

section

variable {d a : Opnd} {x : Word} (hd : objOk d 0xA0 0xA3) (ha : srcVal s f a = some x)

include hd ha

theorem wadj_free (hv : viewOf f (viewNum d) = none) :
    exec (.wadj h d a) s = traps s f causeOPERAND (operandInfo 4 0 d.toNat) := by
  refine word_trap _ _ s f _ _ hi rfl rfl rfl (by rw [hq, Bool.and_false]) (viewSource_fields hd ha) ?_
  simp only [run_bind, run_liveView_free (c := { f := f, s := aside s, flags := 0 }) hv]

variable {v : BitVec 512} (hv : viewOf f (viewNum d) = some v)

include hv

theorem wadj_moves (hx : ∀ k, k < 4 → ¬ DeltaFails v x k) :
    exec (.wadj h d a) s = completes s f (setView f (viewNum d) (some (moveOrigin v x))) h := by
  refine word_completesWith _ _ s f _ (aside s) hi rfl rfl rfl rfl hq (viewSource_fields hd ha) ?_ rfl rfl
  simp only [startOf, run_bind, run_liveView_read (c := { f := f, s := aside s, flags := 0 }) hv, run_readG s f 0 1 a x ha,
    find_badDelta_none hx, run_modF, run_pure]

theorem wadj_refused {k : Nat} (hk : k < 4) (hx : DeltaFails v x k) (hlow : ∀ j, j < k → ¬ DeltaFails v x j) :
    exec (.wadj h d a) s
      = traps s f causeVIEWBOUND (((viewOrg v k + deltaOf x k) % 2 ^ 32).toNat * 2 ^ 32 + k) := by
  have hinfo : boundInfo (Int.wrap (movedOrg v x k) 32) 0 k
      = ((viewOrg v k + deltaOf x k) % 2 ^ 32).toNat * 2 ^ 32 + k := by
    rw [movedOrg_eq, boundInfo, Int.wrap]
    omega
  refine word_trap _ _ s f _ _ hi rfl rfl rfl (by rw [hq, Bool.and_false]) (viewSource_fields hd ha) ?_
  simp only [run_bind, run_liveView_read (c := { f := f, s := aside s, flags := 0 }) hv, run_readG s f 0 1 a x ha,
    find_badDelta_some hk hx hlow, run_throw, hinfo]

end

/-! ### `wbind` -/

/-- The access of `wbind`: the 64 bytes of a descriptor at `p`. -/
def bindLaunch (w ea : Nat) (p : Place) (cnt : Option Bool) : Launch :=
  { path := pathCORE, op := .bind w
    elems := [{ place := p, va := vaOf p ea, size := 64, lane := 0, coding := .raw, val := 0, performed := false
                applied := false, cnt := cnt }] }

section

variable {l : Bool} {d a : Opnd} {disp : BitVec 32} {x : Word} (hd : objOk d 0xA0 0xA3) (ha : srcVal s f a = some x)

include hd ha

theorem wbind_outOfReach (hform : formBad (startOf s f) l (addressOf x disp) 64 = true) :
    exec (.wbind h l d a disp) s = traps s f causeXLATE (addressOf x disp) := by
  rw [startOf] at hform
  refine word_trap _ _ s f _ _ hi rfl rfl rfl (by rw [hq, Bool.and_false]) (viewSource_fields hd ha) ?_
  simp only [run_bind, run_readG s f 0 1 a x ha, run_getF, effective_eq, run_checkForms_bad hform]

variable (hform : formBad (startOf s f) l (addressOf x disp) 64 = false)

include hform

theorem wbind_misaligned (halign : addressOf x disp % 64 ≠ 0) :
    exec (.wbind h l d a disp) s = traps s f causeALIGN (addressOf x disp) := by
  rw [startOf] at hform
  refine word_trap _ _ s f _ _ hi rfl rfl rfl (by rw [hq, Bool.and_false]) (viewSource_fields hd ha) ?_
  simp only [run_bind, run_readG s f 0 1 a x ha, run_getF, effective_eq, run_checkForms_ok hform, run_trapIf,
    bne_iff_ne.mpr halign, if_true]

variable (halign : addressOf x disp % 64 = 0)

include halign

theorem wbind_live (hv : viewOf f (viewNum d) ≠ none) :
    exec (.wbind h l d a disp) s = traps s f causeOPERAND (operandInfo 4 0 d.toNat) := by
  rw [startOf] at hform
  refine word_trap _ _ s f _ _ hi rfl rfl rfl (by rw [hq, Bool.and_false]) (viewSource_fields hd ha) ?_
  simp only [run_bind, run_readG s f 0 1 a x ha, run_getF, effective_eq, run_checkForms_ok hform, run_trapIf, halign,
    bne_self_eq_false, Bool.false_eq_true, Option.isSome_iff_ne_none.mpr hv, if_true, if_false]

/-- A descriptor in reach at an aligned address is read for a register that is free (R260). -/
theorem wbind_starts {p : Place} {n : Nat} {cnt : Option Bool} (hv : viewOf f (viewNum d) = none)
    (hp : Gives (placeAt l (addressOf x disp) false) (startOf s f) (p, n, cnt) (startOf s f)) :
    exec (.wbind h l d a disp) s = flies s f h true { startOf s f with f := rootedAs f }
      (bindLaunch (viewNum d) (addressOf x disp) p cnt) := by
  have hplace := run_of_gives hp
  rw [startOf] at hform hplace
  refine word_flies_rooted _ _ s f _ hi rfl rfl rfl rfl hq (viewSource_fields hd ha) ?_ rfl
  simp only [startOf, run_bind, run_readG s f 0 1 a x ha, run_getF, effective_eq, run_checkForms_ok hform, run_trapIf, halign,
    bne_self_eq_false, Bool.false_eq_true, hv, Option.isSome_none, if_false, hplace]
  rfl

end

end

/-! ## The statement -/

/-- Settles O23: the words of R260, R261 and R264 to R266 one by one; `wret` by what the binds that it wakes leave alone,
`wfoot` by the elements at the two ends of the footprint, `wadj` by the fields of the moved descriptor. -/
theorem viewRegisters : Obligations.ViewRegisters := by
  intro s f h hi hq
  refine ⟨fun a ha => ?wret, fun d a hd ha => ?read, fun d a hd ha => ?refused, fun d a x hd ha => ?wadj,
    fun l d a disp x hd ha => ?wbind⟩
  case wret =>
    rw [← viewNum_view ha]
    refine ⟨wret_free hi hq ha, fun v hv => ⟨wret_waits hi hq ha hv, fun hr hf hb => ?_⟩⟩
    obtain ⟨-, -, -, hcat, hls, hhbm⟩ := dropEntries_freed (viewNum a) hf hb
    exact ⟨_, wret_retires hi hq ha hv hr hf hb, hcat, hls, hhbm⟩
  case read =>
    rw [← viewNum_view ha]
    intro w writes
    have wqry (sel : BitVec 4) := wqry_writes hi hq hd ha sel
    have wfoot (sel : BitVec 2) := wfoot_writes hi hq hd ha sel
    refine ⟨fun hv => ?free, fun v hv => ?live⟩
    case free =>
      rw [hv] at wqry wfoot
      exact ⟨wqry, wfoot⟩
    case live =>
      rw [hv] at wqry wfoot
      have field {sel : BitVec 4} {r : Word} (hr : viewField v sel.toNat = r) : exec (.wqry h d a sel) s = writes r :=
        hr ▸ wqry sel
      have sel {n : Nat} (hn : n < 16) : (BitVec.ofNat 4 n).toNat = n := toNat_ofNat_of_lt hn
      refine ⟨field (ofNat_field v 0 56), field (ofNat_field v 64 32), field rfl, fun k hk => ⟨?_, ?_, ?_⟩,
        footWord v, wfoot, footWord_empty, fun he h0 h1 hr => ?foot⟩
      · exact field (by rw [sel (by omega), viewField_ext v hk])
      · exact field (by rw [sel (by omega), viewField_str v hk])
      · exact field (by rw [sel (by omega), viewField_org v hk])
      case foot =>
        intro inside at_
        have hdims := viewDims_of_rank hr
        have hinside (i : Nat → Nat) : (∀ k ∈ viewDims v, i k < viewExt v k) ↔ inside i := by
          simp only [hdims, List.mem_range, inside]
        have hat (i : Nat → Nat) : elementAt v i = at_ i := by rw [elementAt, hdims]
        have hstep : (footWord v 2).toNat = viewStep v := footWord_step he
        simp only [← hinside, ← hat, hstep]
        exact ⟨fun i => footWord_bounds he h1 h0, footWord_low_attained he h1 h0, footWord_high_attained he h1 h0, rfl,
          footWord_offset he h1⟩
  case refused => exact ⟨fun _ => viewRead_refused hi _ _ hd, fun _ => viewRead_refused hi _ _ hd⟩
  case wadj =>
    rw [← viewNum_view hd]
    refine ⟨wadj_free hi hq hd ha, fun v hv => ⟨fun hx => ?_, fun k => wadj_refused hi hq hd ha hv⟩⟩
    refine ⟨_, wadj_moves hi hq hd ha hv hx, moveOrigin_low hx, fun k hk => ?_⟩
    rw [viewOrg_moveOrigin hx hk]
    exact newOrg_eq (hx k hk)
  case wbind =>
    rw [← viewNum_view hd]
    intro ea w c starts
    have reach (hr : ea + 64 ≤ 0x60000) : formBad (startOf s f) true ea 64 = false := by
      rw [formBad_local, decide_eq_false_iff_not, Nat.not_lt]
      exact hr
    refine ⟨fun halign hv => ⟨fun hl hr => ?core, fun hl hlt hwin p n cnt hp => ?job⟩, fun hl hr => ?xlate,
      fun hl hr halign => ?align, fun hl hr halign hv => ?live⟩
    case core =>
      subst hl
      exact wbind_starts hi hq hd ha (reach hr) halign hv (n := 0) rfl
    case job =>
      subst hl
      exact wbind_starts hi hq hd ha (formBad_plain hlt hwin) halign hv hp
    case xlate =>
      subst hl
      exact wbind_outOfReach hi hq hd ha (by rw [formBad_local, decide_eq_true_eq]; exact hr)
    case align =>
      subst hl
      exact wbind_misaligned hi hq hd ha (reach hr) halign
    case live =>
      subst hl
      exact wbind_live hi hq hd ha (reach hr) halign hv

end Sys2Proof.Machine
end
